-- ==== Sys2Proof/Word.lean ====
section
/-! DEFINITION. The word types of the module (R8: little-endian fields, bit 0 least significant). -/

namespace Sys2Proof

/-- A byte of memory or of a packet. -/
abbrev Byte := BitVec 8
/-- A 32-bit word. -/
abbrev W32 := BitVec 32
/-- A 64-bit word. -/
abbrev W64 := BitVec 64
/-- A module physical address (R36: 48 bits). -/
abbrev Addr := BitVec 48

end Sys2Proof
end

