-- ==== Sys2Proof/Syntax.lean ====
section
/-! DEFINITION. The operands of the module's commands and the commands themselves. A command is what reaches the block
from outside its rules: an access, an arriving flit or message, an operation's completion, an instant of time, a pin. -/

namespace Sys2Proof

/-- Compute tile number (R4). -/
abbrev TileId := Fin 8
/-- Tensor core number, 16t + c (R4, R46). -/
abbrev CoreId := Fin 128
/-- Thread context of a core (R90). -/
abbrev ThreadId := Fin 8
/-- Memory stack number. -/
abbrev StackId := Fin 32
/-- Selaz port: X+ 0, X- 1, Y+ 2, Y- 3, Z+ 4, Z- 5 (R46). -/
abbrev PortId := Fin 6
/-- Copy engine number (R5). -/
abbrev CopyId := Fin 16
/-- Gather engine number, 4t + g (R46). -/
abbrev GatherId := Fin 32

/-- The block pages of R46. -/
inductive Page where
  | mod | pwr | clk | flt | rel | hrd
  | cox (t : TileId) | core (c : CoreId) | base (s : StackId) | port (p : PortId) | router
  | copy (e : CopyId) | gather (g : GatherId) | fin (t : TileId) | hostif
deriving DecidableEq, Repr

/-- The width of a load or store. -/
inductive Width where
  | w8 | w16 | w32 | w64
deriving DecidableEq, Repr

/-- Bytes of a width. -/
def Width.bytes : Width → Nat
  | .w8 => 1 | .w16 => 2 | .w32 => 4 | .w64 => 8

/-- A load or a store: address, width, and the data of a store. -/
structure Access where
  write : Bool
  addr : Addr
  width : Width
  data : W64
deriving DecidableEq, Repr

/-- What an ECC saw in the words an operation read: nothing, corrected words, or an uncorrectable one. -/
inductive Ecc where
  | ok | corrected | uncorrectable
deriving DecidableEq, Repr

/-- A load or store of an Idryn core, with what the ECC of the tile SRAM finds in a load (R79). -/
structure HostAccess where
  access : Access
  ecc : Ecc
deriving DecidableEq, Repr

/-- What a read of a stack meets: the symbols of its first word that have gone bad (R484), a command that the die refuses for its parity and
that is repeated (R459). -/
structure ReadErr where
  bad : BitVec 36
  parity : Bool
deriving DecidableEq, Repr

/-- A refresh of a stack: the bank, pseudo-channel × 48 + bank, that gets a refresh-management command with it, and how many errors the die's
own ECC has corrected since they were read last (R459). -/
structure Refresh where
  st : StackId
  rfm : Option (Fin 1536)
  onDie : Nat
deriving DecidableEq, Repr

/-- The bytes of a write to a stack, and whether the die refuses it once for its parity (R459). -/
structure WriteData where
  bytes : List Byte
  parity : Bool
deriving DecidableEq, Repr

/-- The fields of an instruction word other than the opcode (R136), and what the scratch ECC saw in the words that the
instruction reads (R130). -/
structure VFields where
  vd : BitVec 5
  va : BitVec 5
  vb : BitVec 5
  vc : BitVec 5
  fmt : BitVec 4
  rnd : BitVec 2
  imm : BitVec 30
  ecc : Ecc
deriving DecidableEq, Repr

/-- The tables of R73. -/
inductive TableId where
  | bfd (t : TileId) | crd (s : StackId) | lrcBase (s : StackId) | lrcFin (t : TileId) | rfc (s : StackId)
  | pcc | frt | rt
deriving DecidableEq, Repr

/-- A command ring (R574): ring r of the Cox of tile t, or the ring of a copy engine. -/
inductive RingId where
  | cox (t : TileId) (r : Fin 4)
  | copy (e : CopyId)
deriving DecidableEq, Repr

/-- The part of a 64-bit register that an access names (R39, R56, R781): the whole, the low half or the high half. -/
inductive Half where
  | word | lo | hi
deriving DecidableEq, Repr

/-- Operations of the memory-side adders (R367). -/
inductive AtomOp where
  | add | min | max | swap | cas
deriving DecidableEq, Repr

/-- Types of an atomic (R367); b32 and b64 are the 4 and 8 bytes of SWAP and CAS. -/
inductive AtomTy where
  | fp32 | bf16 | fp16 | i32 | i64 | b32 | b64
deriving DecidableEq, Repr

/-- How a transaction's row writes end (R349): acknowledged; failed and restored from the pre-image; failed and not restored. -/
inductive WriteEnd where
  | acked | failed | restoreFailed
deriving DecidableEq, Repr

/-- A module coordinate, x | y << 4 | z << 8 (R534). -/
abbrev Coord := BitVec 12

/-- A chain packet (R430): the header fields, CSUM among them, and the body of R431. -/
structure ChainPkt where
  kind : BitVec 4
  leg : BitVec 2
  step : W64
  stream : BitVec 16
  pseq : W32
  info : W32
  src : Coord
  dst : Coord
  csum : W32
  body : List Byte
deriving DecidableEq, Repr

/-- A stream of the chain unit, as R450 times it: sums of a leg, the distribution of an X stream (KIND 2), a dense layer, a top-k group. -/
inductive ChainStream where
  | sparse (leg : BitVec 2) (no : BitVec 4)
  | sparseFinal (no : BitVec 4)
  | dense (n : BitVec 12)
  | topk (g : BitVec 12)
deriving DecidableEq, Repr

/-- How a lender answers a class-3 request (R485, R500). -/
inductive LoanAnswer where
  | done | refused | poisoned
deriving DecidableEq, Repr

/-- What a message carries (R535), by MTYPE. -/
inductive MsgBody where
  /-- MTYPE 0x0: a barrier up message of kind and step, with the verdict word of kind 3 (R549, R619). -/
  | barrierUp (kind : BitVec 4) (step : W64) (word : W32)
  /-- MTYPE 0x0: a barrier down message. -/
  | barrierDown (kind : BitVec 4) (step : W64) (word : W32)
  /-- MTYPE 0x1: an abort of a step (R622), on its way to the root or down the tree. -/
  | abort (step : W64) (down : Bool)
  /-- MTYPE 0x1: a state digest of a crew (R644), second of R645 or not. -/
  | digest (step : W64) (crew : BitVec 4) (sd : W64) (second : Bool)
  /-- MTYPE 0x2: a remote register read or write (R44). -/
  | regReq (write : Bool) (width : Width) (off : BitVec 28) (data : W64)
  /-- MTYPE 0x3. -/
  | regResp (ok : Bool) (data : W64)
  /-- MTYPE 0x7: an access to the HBM aperture (R41, R45). -/
  | aptReq (write : Bool) (off : BitVec 34) (width : Width) (data : W64)
  /-- MTYPE 0x8. -/
  | aptResp (ok : Bool) (data : W64)
  /-- MTYPE 0x9: a loan read of 4 KiB units at an offset of the lend window (R500). -/
  | loanRead (off : W64) (len : Nat)
  /-- MTYPE 0xA. -/
  | loanWrite (off : W64) (data : List Byte)
  /-- MTYPE 0xB. -/
  | loanResp (a : LoanAnswer) (data : List Byte)
  /-- MTYPE 0x5: a gather request (R289): table, form, requesting engine, tag, step and row IDs. -/
  | gatherReq (table : BitVec 12) (form : BitVec 2) (engine : BitVec 13) (tag : W32) (step : W64) (ids : List W64)
  /-- MTYPE 0x6: a gather response (R290): per row its status and slot, followed under FORM 2 by the row's SCALE. -/
  | gatherResp (tag : W32) (rows : List (Byte × List Byte))
  /-- MTYPE 0x5: a replacement on its way to its owner (R305): table, row, step, source tile, row image. -/
  | replaceReq (table : BitVec 12) (row : W64) (step : W64) (tile : TileId) (tag : W32) (image : List Byte)
  /-- MTYPE 0x6: a replacement accepted or refused (R306). -/
  | replaceResp (tag : W32) (ok : Bool)
  /-- MTYPE 0x4: a chain packet. -/
  | chain (p : ChainPkt)
  /-- MTYPE 0xD to 0xF: reserved. -/
  | reserved (mtype : BitVec 4)
  /-- MTYPE 0xC: a tree registration with TOKENS (R786). -/
  | registration (tokens : Nat)
deriving DecidableEq, Repr

/-- The fields of a flit's header (R527) and whether its CRC matches; a sequence number, an acknowledgement, returned credits. -/
structure Flit where
  cls : BitVec 2
  vc : Bool
  som : Bool
  seq : BitVec 12
  ack : BitVec 12
  crClass : BitVec 2
  crVc : Bool
  crCount : BitVec 5
  len : BitVec 8
  crcOk : Bool
deriving DecidableEq, Repr

/-- What an identity flit holds (R523): FAB_SIZE, FAB_POS and the receive-buffer sizes of class c on VC v at index 2c + v. -/
structure Ident where
  size : W32
  pos : W32
  bufs : List Nat
deriving DecidableEq, Repr

/-- A dual-rail pair of the fault collectors: of the checker of an ERR_STICKY bit, or of a tile collector (R666, R672). -/
inductive WirePair where
  | checker (page : Page) (bitNo : Fin 32)
  | collector (t : TileId)
deriving DecidableEq, Repr

/-- A clock island with a PLL (R14, R728; a base die's clocks its HBM PHY too), the SerDes of a port (R516), the PCIe PHY of a root port
(R15, R727). -/
inductive Island where
  | tile (t : TileId)
  | base (s : StackId)
  | mesh | selaz
  | idryn (d : Fin 2)
  | flt
  | serdes (p : PortId)
  | pcie (p : Fin 4)
deriving DecidableEq, Repr

/-- Where the router takes its next message from: those this module injected, or a port's. -/
inductive FwdSrc where
  | inject
  | port (p : PortId)
deriving DecidableEq, Repr

/-- A message (R534). -/
structure Msg where
  dst : Coord
  src : Coord
  hops : BitVec 5
  tag : BitVec 16
  body : MsgBody
deriving DecidableEq, Repr


/-- The commands of the module: one constructor per row of spec/opcode_table.json. -/
inductive Instr where
  /-- REGISTER_WRITE, R40. -/
  | registerWrite (page : Page) (off : BitVec 16) (part : Half) (v : W64)
  /-- HOST_UNCACHED_ACCESS, R569. -/
  | hostUncachedAccess (a : HostAccess)
  /-- REMOTE_WINDOW_ACCESS, R41. -/
  | remoteWindowAccess (a : Access)
  /-- REMOTE_REGISTER_ACCESS, R45. -/
  | remoteRegisterAccess (m : Msg)
  /-- REMOTE_REGISTER_RESPONSE, R44. -/
  | remoteRegisterResponse (m : Msg)
  /-- APERTURE_ACCESS, R45. -/
  | apertureAccess (m : Msg) (dirty : Option (Addr × List Byte))
  /-- APERTURE_RESPONSE, R44. -/
  | apertureResponse (m : Msg)
  /-- ENABLE, R61. -/
  | enableBlock (page : Page)
  /-- DISABLE, R61. -/
  | disableBlock (page : Page)
  /-- DRAIN_WRITE, R61. -/
  | drainWrite (page : Page) (v : Bool)
  /-- SHUTDOWN_COMPLETE, R61. -/
  | shutdownComplete (page : Page)
  /-- DRAIN_TIMEOUT, R61. -/
  | drainTimeout (page : Page)
  /-- EXPERT_WRITE, R60. -/
  | expertWrite (page : Page) (v : Bool)
  /-- BASIC_REDERIVE, R783. -/
  | basicRederive (page : Page)
  /-- CNT_CLR, R51. -/
  | cntClr (page : Page)
  /-- FIRST_ERR_CLEAR, R53. -/
  | firstErrClear (page : Page)
  /-- ERR_INJECT, R54. -/
  | errInject (page : Page) (v : W32)
  /-- COUNTER_LOW_READ, R56. -/
  | counterLowRead (page : Page) (off : BitVec 16)
  /-- ACTIVATE, R67. -/
  | tblActivate (tb : TableId)
  /-- ABORT, R66. -/
  | tblAbort (tb : TableId)
  /-- TBL_DATA_WRITE, R781. -/
  | tblDataWrite (tb : TableId) (part : Half) (v : W64)
  /-- TBL_DATA_READ, R781. -/
  | tblDataRead (tb : TableId) (part : Half)
  /-- IMMEDIATE_ACTIVATION, R69. -/
  | immediateActivation (tb : TableId)
  /-- TRAIN, R102. -/
  | trainCommand (t : TileId) (ring : Fin 4)
  /-- TRAIN_LAUNCH, R103. -/
  | trainLaunch (t : TileId)
  /-- STAGE_START, R110. -/
  | stageStart (t : TileId) (k : Fin 4) (stage : Fin 16)
  /-- ITEM_DISPATCH, R108. -/
  | itemDispatch (c : CoreId) (t : ThreadId) (k : Fin 4) (stage : Fin 16)
  /-- TRAIN_COMPLETE, R114. -/
  | trainComplete (t : TileId) (k : Fin 4)
  /-- TRAIN_TIMEOUT, R115. -/
  | trainTimeout (t : TileId) (k : Fin 4)
  /-- ICACHE_FILL, R135. -/
  | icacheFill (c : CoreId) (t : ThreadId)
  /-- MATRIX_TILE_OP, R84. -/
  | matrixTileOp (c : CoreId) (ecc : Ecc)
  /-- MATRIX_TILE_OP_DONE, R158. -/
  | matrixTileOpDone (c : CoreId)
  /-- LPQ_DONE, R158. -/
  | lpqDone (c : CoreId) (ecc : Ecc)
  /-- SPQ_DONE, R158. -/
  | spqDone (c : CoreId) (ecc : Ecc)
  /-- VOUT_DONE, R158. -/
  | voutDone (c : CoreId)
  /-- UNDEFINED_OPCODE, R138. -/
  | undefinedOpcode (c : CoreId) (t : ThreadId) (w : W64)
  /-- NOP, R147. -/
  | nop (c : CoreId) (t : ThreadId) (f : VFields)
  /-- ENDITEM, R169. -/
  | enditem (c : CoreId) (t : ThreadId) (f : VFields)
  /-- BRA, R147. -/
  | bra (c : CoreId) (t : ThreadId) (f : VFields)
  /-- BRZ, R147. -/
  | brz (c : CoreId) (t : ThreadId) (f : VFields)
  /-- BRNZ, R147. -/
  | brnz (c : CoreId) (t : ThreadId) (f : VFields)
  /-- WAIT, R147. -/
  | waitAsync (c : CoreId) (t : ThreadId) (f : VFields)
  /-- CQPOP, R147. -/
  | cqpop (c : CoreId) (t : ThreadId) (f : VFields)
  /-- SADD, R147. -/
  | sadd (c : CoreId) (t : ThreadId) (f : VFields)
  /-- SSUB, R147. -/
  | ssub (c : CoreId) (t : ThreadId) (f : VFields)
  /-- SMUL, R147. -/
  | smul (c : CoreId) (t : ThreadId) (f : VFields)
  /-- SAND, R147. -/
  | sand (c : CoreId) (t : ThreadId) (f : VFields)
  /-- SOR, R147. -/
  | sor (c : CoreId) (t : ThreadId) (f : VFields)
  /-- SXOR, R147. -/
  | sxor (c : CoreId) (t : ThreadId) (f : VFields)
  /-- SSHL, R147. -/
  | sshl (c : CoreId) (t : ThreadId) (f : VFields)
  /-- SSHR, R147. -/
  | sshr (c : CoreId) (t : ThreadId) (f : VFields)
  /-- SSRA, R147. -/
  | ssra (c : CoreId) (t : ThreadId) (f : VFields)
  /-- SLT, R147. -/
  | slt (c : CoreId) (t : ThreadId) (f : VFields)
  /-- SLTU, R147. -/
  | sltu (c : CoreId) (t : ThreadId) (f : VFields)
  /-- SSHI, R147. -/
  | sshi (c : CoreId) (t : ThreadId) (f : VFields)
  /-- SLD, R147. -/
  | sld (c : CoreId) (t : ThreadId) (f : VFields)
  /-- SST, R147. -/
  | sst (c : CoreId) (t : ThreadId) (f : VFields)
  /-- STIME, R147. -/
  | stime (c : CoreId) (t : ThreadId) (f : VFields)
  /-- VADD, R147. -/
  | vadd (c : CoreId) (t : ThreadId) (f : VFields)
  /-- VSUB, R147. -/
  | vsub (c : CoreId) (t : ThreadId) (f : VFields)
  /-- VMUL, R147. -/
  | vmul (c : CoreId) (t : ThreadId) (f : VFields)
  /-- VFMA, R147. -/
  | vfma (c : CoreId) (t : ThreadId) (f : VFields)
  /-- VFNMA, R147. -/
  | vfnma (c : CoreId) (t : ThreadId) (f : VFields)
  /-- VADD3, R147. -/
  | vadd3 (c : CoreId) (t : ThreadId) (f : VFields)
  /-- VMAX, R147. -/
  | vmax (c : CoreId) (t : ThreadId) (f : VFields)
  /-- VMIN, R147. -/
  | vmin (c : CoreId) (t : ThreadId) (f : VFields)
  /-- VABS, R147. -/
  | vabs (c : CoreId) (t : ThreadId) (f : VFields)
  /-- VCMP, R147. -/
  | vcmp (c : CoreId) (t : ThreadId) (f : VFields)
  /-- VSEL, R147. -/
  | vsel (c : CoreId) (t : ThreadId) (f : VFields)
  /-- VCVT, R147. -/
  | vcvt (c : CoreId) (t : ThreadId) (f : VFields)
  /-- VRCP, R147. -/
  | vrcp (c : CoreId) (t : ThreadId) (f : VFields)
  /-- VRSQRT, R147. -/
  | vrsqrt (c : CoreId) (t : ThreadId) (f : VFields)
  /-- VDIV, R147. -/
  | vdiv (c : CoreId) (t : ThreadId) (f : VFields)
  /-- VSQRT, R147. -/
  | vsqrt (c : CoreId) (t : ThreadId) (f : VFields)
  /-- VEXP, R147. -/
  | vexp (c : CoreId) (t : ThreadId) (f : VFields)
  /-- VLOG, R147. -/
  | vlog (c : CoreId) (t : ThreadId) (f : VFields)
  /-- VIADD, R147. -/
  | viadd (c : CoreId) (t : ThreadId) (f : VFields)
  /-- VISUB, R147. -/
  | visub (c : CoreId) (t : ThreadId) (f : VFields)
  /-- VIMUL, R147. -/
  | vimul (c : CoreId) (t : ThreadId) (f : VFields)
  /-- VIAND, R147. -/
  | viand (c : CoreId) (t : ThreadId) (f : VFields)
  /-- VIOR, R147. -/
  | vior (c : CoreId) (t : ThreadId) (f : VFields)
  /-- VIXOR, R147. -/
  | vixor (c : CoreId) (t : ThreadId) (f : VFields)
  /-- VISHL, R147. -/
  | vishl (c : CoreId) (t : ThreadId) (f : VFields)
  /-- VISHR, R147. -/
  | vishr (c : CoreId) (t : ThreadId) (f : VFields)
  /-- VIMAX, R147. -/
  | vimax (c : CoreId) (t : ThreadId) (f : VFields)
  /-- VIMIN, R147. -/
  | vimin (c : CoreId) (t : ThreadId) (f : VFields)
  /-- VICMP, R147. -/
  | vicmp (c : CoreId) (t : ThreadId) (f : VFields)
  /-- VF2I, R147. -/
  | vf2i (c : CoreId) (t : ThreadId) (f : VFields)
  /-- VI2F, R147. -/
  | vi2f (c : CoreId) (t : ThreadId) (f : VFields)
  /-- VMOV, R147. -/
  | vmov (c : CoreId) (t : ThreadId) (f : VFields)
  /-- VBCST, R147. -/
  | vbcst (c : CoreId) (t : ThreadId) (f : VFields)
  /-- VLANE, R147. -/
  | vlane (c : CoreId) (t : ThreadId) (f : VFields)
  /-- VIDX, R147. -/
  | vidx (c : CoreId) (t : ThreadId) (f : VFields)
  /-- VPERM, R147. -/
  | vperm (c : CoreId) (t : ThreadId) (f : VFields)
  /-- VLD, R151. -/
  | vld (c : CoreId) (t : ThreadId) (f : VFields)
  /-- VST, R151. -/
  | vst (c : CoreId) (t : ThreadId) (f : VFields)
  /-- VLDX, R152. -/
  | vldx (c : CoreId) (t : ThreadId) (f : VFields)
  /-- VSTX, R153. -/
  | vstx (c : CoreId) (t : ThreadId) (f : VFields)
  /-- VOUT, R155. -/
  | vout (c : CoreId) (t : ThreadId) (f : VFields)
  /-- MTQ, R159. -/
  | mtq (c : CoreId) (t : ThreadId) (f : VFields)
  /-- LPQ, R160. -/
  | lpq (c : CoreId) (t : ThreadId) (f : VFields)
  /-- SPQ, R160. -/
  | spq (c : CoreId) (t : ThreadId) (f : VFields)
  /-- RGET, R164. -/
  | rget (c : CoreId) (t : ThreadId) (f : VFields)
  /-- RREL, R166. -/
  | rrel (c : CoreId) (t : ThreadId) (f : VFields)
  /-- ROUT, R167. -/
  | rout (c : CoreId) (t : ThreadId) (f : VFields)
  /-- RPUB, R168. -/
  | rpub (c : CoreId) (t : ThreadId) (f : VFields)
  /-- VRSUM, R170. -/
  | vrsum (c : CoreId) (t : ThreadId) (f : VFields)
  /-- VRMAX, R170. -/
  | vrmax (c : CoreId) (t : ThreadId) (f : VFields)
  /-- VRMIN, R170. -/
  | vrmin (c : CoreId) (t : ThreadId) (f : VFields)
  /-- VTOPK, R172. -/
  | vtopk (c : CoreId) (t : ThreadId) (f : VFields)
  /-- MLOGIC, R147. -/
  | mlogic (c : CoreId) (t : ThreadId) (f : VFields)
  /-- MNOT, R147. -/
  | mnot (c : CoreId) (t : ThreadId) (f : VFields)
  /-- MFROMS, R147. -/
  | mfroms (c : CoreId) (t : ThreadId) (f : VFields)
  /-- MTOS, R147. -/
  | mtos (c : CoreId) (t : ThreadId) (f : VFields)
  /-- MPOP, R147. -/
  | mpop (c : CoreId) (t : ThreadId) (f : VFields)
  /-- RNGRD, R200. -/
  | rngrd (c : CoreId) (t : ThreadId) (f : VFields)
  /-- RNGLD, R201. -/
  | rngld (c : CoreId) (t : ThreadId) (f : VFields)
  /-- RNGST, R147. -/
  | rngst (c : CoreId) (t : ThreadId) (f : VFields)
  /-- GATHER, R282. -/
  | gather (g : GatherId) (k : Fin 4) (stage : Fin 16)
  /-- REPLACE, R305. -/
  | replace (g : GatherId) (k : Fin 4) (stage : Fin 16)
  /-- EXPORT, R287. -/
  | exportRows (g : GatherId) (k : Fin 4) (stage : Fin 16)
  /-- REMOTE_GATHER_REQUEST, R291. -/
  | remoteGatherRequest (m : Msg)
  /-- REMOTE_GATHER_RESPONSE, R290. -/
  | remoteGatherResponse (m : Msg)
  /-- REMOTE_TIMEOUT, R292. -/
  | remoteTimeout (g : GatherId)
  /-- SEAT_REFRESH, R302. -/
  | seatRefresh (t : TileId) (k : Nat)
  /-- SLIDE_CMD, R299. -/
  | slideCmd (v : W32)
  /-- ARM, R309. -/
  | flipArm
  /-- CATCH_UPDATE_REQUEST, R322. -/
  | catchUpdateRequest (st : StackId)
  /-- ROW_LOCK_GRANT, R352. -/
  | rowLockGrant (st : StackId)
  /-- CATCH_ROW_READ, R343. -/
  | catchRowRead (st : StackId)
  /-- JOURNAL_RECORD_ACK, R344. -/
  | journalRecordAck (st : StackId)
  /-- JOURNAL_ROOM, R356. -/
  | journalRoom (st : StackId)
  /-- CATCH_WRITE_ACK, R342. -/
  | catchWriteAck (st : StackId) (o : WriteEnd)
  /-- ATOMIC, R367. -/
  | atomic (a : Addr) (op : AtomOp) (ty : AtomTy) (x cmp : W64) (dirty : Option (Addr × List Byte))
  /-- HBM_READ, R485. -/
  | hbmRead (a : Addr) (n : Nat) (err : ReadErr) (dirty : Option (Addr × List Byte))
  /-- HBM_WRITE, R460. -/
  | hbmWrite (a : Addr) (w : WriteData) (dirty : Option (Addr × List Byte))
  /-- FINISH_UPDATE, R388. -/
  | finishUpdate (t : TileId) (k : Fin 4) (stage : Fin 16)
  /-- FINISH_UPDATE_WRITTEN, R401. -/
  | finishUpdateWritten (t : TileId)
  /-- REFRESH_COPIES, R415. -/
  | refreshCopies (t : TileId)
  /-- CHAIN_SEND_SPARSE, R422. -/
  | chainSendSparse (t : TileId) (k : Fin 4) (stage : Fin 16)
  /-- CHAIN_SEND_DENSE, R438. -/
  | chainSendDense (t : TileId) (k : Fin 4) (stage : Fin 16)
  /-- CHAIN_SEND_TOPK, R446. -/
  | chainSendTopk (t : TileId) (k : Fin 4) (stage : Fin 16)
  /-- CHAIN_RECEIVE_DENSE, R441. -/
  | chainReceiveDense (t : TileId) (k : Fin 4) (stage : Fin 16)
  /-- CHAIN_RECEIVE_TOPK, R446. -/
  | chainReceiveTopk (t : TileId) (k : Fin 4) (stage : Fin 16)
  /-- LOCAL_MERGE, R427. -/
  | localMerge
  /-- SPARSE_SUM, R433. -/
  | sparseSum (m : Msg)
  /-- SPARSE_FINAL, R435. -/
  | sparseFinal (m : Msg)
  /-- SPARSE_END, R432. -/
  | sparseEnd (m : Msg)
  /-- DENSE_SUM, R439. -/
  | denseSum (m : Msg)
  /-- DENSE_FINAL, R442. -/
  | denseFinal (m : Msg)
  /-- TOPK_SUM, R446. -/
  | topkSum (m : Msg)
  /-- TOPK_FINAL, R446. -/
  | topkFinal (m : Msg)
  /-- CHAIN_TIMEOUT, R450. -/
  | chainTimeout (x : ChainStream)
  /-- LOCK_REQ, R471. -/
  | lockReq
  /-- SKEW_WINDOW, R476. -/
  | skewWindow (st : StackId) (pc : Fin 32) (more : Nat)
  /-- MEM_TEMP_READ, R481. -/
  | memTempRead (st : StackId) (temp : Option Byte)
  /-- DRAM_REFRESH, R482. -/
  | dramRefresh (r : Refresh)
  /-- SCRUB, R487. -/
  | scrub (st : StackId) (bad : BitVec 36)
  /-- FLUSH, R495. -/
  | tcacheFlush (t : TileId)
  /-- INVAL, R495. -/
  | tcacheInval (t : TileId)
  /-- TCACHE_FLUSH_DONE, R495. -/
  | tcacheFlushDone (t : TileId)
  /-- LOAN_ENABLE, R503. -/
  | loanEnable (k : Fin 4) (v : W32)
  /-- LOAN_READ, R500. -/
  | loanRead (p : PortId) (m : Msg)
  /-- LOAN_WRITE, R500. -/
  | loanWrite (p : PortId) (m : Msg)
  /-- LOAN_RESPONSE, R500. -/
  | loanResponse (m : Msg)
  /-- LOAN_TIMEOUT, R506. -/
  | loanTimeout (k : Fin 4)
  /-- PORT_TRAINING_DONE, R523. -/
  | portTrainingDone (p : PortId)
  /-- TRAINING_TIMEOUT, R521. -/
  | trainingTimeout (p : PortId)
  /-- IDENTITY_FLIT, R523. -/
  | identityFlit (p : PortId) (f : Flit) (x : Ident)
  /-- ACK_TIMEOUT, R532. -/
  | ackTimeout (p : PortId)
  /-- LOSS_OF_SIGNAL, R519. -/
  | lossOfSignal (p : PortId)
  /-- TRAINING_SEQUENCE_RECEIVED, R522. -/
  | trainingSequenceReceived (p : PortId)
  /-- RETRAIN_DONE, R525. -/
  | retrainDone (p : PortId)
  /-- RETRAIN_TIMEOUT, R521. -/
  | retrainTimeout (p : PortId)
  /-- DATA_FLIT, R530. -/
  | dataFlit (p : PortId) (f : Flit) (m : Option Msg)
  /-- ACKNOWLEDGE_FLIT, R531. -/
  | acknowledgeFlit (p : PortId) (f : Flit)
  /-- NAK_FLIT, R530. -/
  | nakFlit (p : PortId) (f : Flit)
  /-- IDLE_FLIT, R518. -/
  | idleFlit (p : PortId) (f : Flit)
  /-- ACK_SEND_DEADLINE, R531. -/
  | ackSendDeadline (p : PortId)
  /-- TIME_SYNC_SEND, R553. -/
  | timeSyncSend (p : PortId)
  /-- TIME_SYNC_FLIT, R554. -/
  | timeSyncFlit (p : PortId) (f : Flit) (sent recv : W64)
  /-- TSYNC_HOLDOVER_EXPIRE, R556. -/
  | tsyncHoldoverExpire
  /-- TSYNC_IN_EDGE, R557. -/
  | tsyncInEdge
  /-- TSYNC_OUT_PULSE, R557. -/
  | tsyncOutPulse
  /-- TIME_SET, R567. -/
  | timeSet (v : W64)
  /-- MESSAGE_FORWARD, R541. -/
  | messageForward (src : FwdSrc) (ecc : Ecc)
  /-- TREE_REGISTRATION, R548. -/
  | treeRegistration (m : Msg)
  /-- BARRIER_UP, R549. -/
  | barrierUp (m : Msg)
  /-- BARRIER_DOWN, R549. -/
  | barrierDown (kind : BitVec 4) (step : W64)
  /-- BARRIER_TIMEOUT, R550. -/
  | barrierTimeout (kind : BitVec 4) (step : W64) (child : Coord)
  /-- FAB_LOCK_REQ, R558. -/
  | fabLockReq
  /-- TAKE, R560. -/
  | takeover
  /-- DOORBELL, R582. -/
  | doorbell (g : RingId) (tail : W32)
  /-- SLOT_READ, R583. -/
  | slotRead (g : RingId)
  /-- SLOT_REREAD, R584. -/
  | slotReread (g : RingId)
  /-- INLINE, R586. -/
  | inlineBody (g : RingId)
  /-- WAIT_FLAG, R587. -/
  | waitFlag (g : RingId)
  /-- FLAG_POLL, R587. -/
  | flagPoll (g : RingId)
  /-- WAIT_TIMEOUT, R587. -/
  | waitTimeout (g : RingId)
  /-- DRAIN, R588. -/
  | drainCommand (g : RingId)
  /-- NOP_COMMAND, R577. -/
  | nopCommand (g : RingId)
  /-- COPY, R593. -/
  | copyData (e : CopyId) (dirty : Option (Addr × List Byte))
  /-- COPY_COMPLETE, R596. -/
  | copyComplete (e : CopyId)
  /-- RING_ENABLE, R575. -/
  | ringEnable (g : RingId) (v : W32)
  /-- RESUME, R802. -/
  | ringResume (g : RingId)
  /-- RESET, R612. -/
  | ringReset (g : RingId)
  /-- HOST_RESET, R604. -/
  | hostReset
  /-- HOST_RESET_END, R787. -/
  | hostResetEnd
  /-- DEVICE_WRITE, R600. -/
  | deviceWrite (p : Fin 4) (a : W64) (bs : List Byte)
  /-- DEVICE_READ, R788. -/
  | deviceRead (p : Fin 4) (a : W64) (n : Nat) (dirty : Option (Addr × List Byte))
  /-- PCIE_COMPLETION_TIMEOUT, R602. -/
  | pcieCompletionTimeout (p : Fin 4)
  /-- PCIE_LINK_DOWN, R599. -/
  | pcieLinkDown (p : Fin 4)
  /-- D2D_RETRAIN, R611. -/
  | d2dRetrain (k : Fin 3)
  /-- D2D_RETRAIN_TIMEOUT, R611. -/
  | d2dRetrainTimeout (k : Fin 3)
  /-- STEP_CLOSE, R31. -/
  | stepClose
  /-- STEP_OPEN, R301. -/
  | stepOpen
  /-- VERDICT_TOKEN, R618. -/
  | verdictToken
  /-- REL_CONTROL_TOKEN, R622. -/
  | relControlToken (m : Msg)
  /-- CREW_DIGEST, R644. -/
  | crewDigest (m : Msg)
  /-- HEAT_DUE, R649. -/
  | heatDue (c : CoreId)
  /-- HEAT_TEST_START, R650. -/
  | heatTestStart (c : CoreId)
  /-- HEAT_DEFER, R650. -/
  | heatDefer (c : CoreId)
  /-- HEAT_TEST_DONE, R653. -/
  | heatTestDone (c : CoreId) (pass : Bool)
  /-- HEAT_CATCH_TEST, R652. -/
  | heatCatchTest (st : StackId) (pass : Bool)
  /-- HEAT_FINISH_TEST, R652. -/
  | heatFinishTest (t : TileId) (pass : Bool)
  /-- HEAT_LATE, R650. -/
  | heatLate (kind : BitVec 4) (index : BitVec 12)
  /-- RESCAN, R647. -/
  | rescan
  /-- SET_STEP, R662. -/
  | setStep
  /-- UMPIRE_RESUME, R663. -/
  | umpireResume
  /-- ERROR_REPORT, R667. -/
  | errorReport (crc : Bool)
  /-- WAKE_ENTRY_WRITE, R681. -/
  | wakeEntryWrite
  /-- WIRE_FAULT, R669. -/
  | wireFault (w : WirePair)
  /-- WIRE_PAIR_RECOVER, R669. -/
  | wirePairRecover (w : WirePair)
  /-- CLR, R694. -/
  | fenceClr (v : W32)
  /-- RELEASE, R695. -/
  | holdRelease
  /-- FIRST_WAKE_CLEAR, R679. -/
  | firstWakeClear
  /-- WIRE_INJ, R702. -/
  | wireInj (v : W64)
  /-- STROKE_EDGE, R703. -/
  | strokeEdge
  /-- STROKE_ENABLE, R703. -/
  | strokeEnable (v : Bool)
  /-- FORCE_STOP, R705. -/
  | forceStop
  /-- POWER_ON, R713. -/
  | powerOn (flash : List (Nat × Byte))
  /-- POWER_OFF, R715. -/
  | powerOff
  /-- INPUT_VOLTAGE_FAULT, R715. -/
  | inputVoltageFault (mv : Nat)
  /-- RAIL_FAULT, R714. -/
  | railFault (long : Bool)
  /-- CAP_WINDOW, R721. -/
  | capWindow (mean : Nat)
  /-- POINT_CHANGE_DONE, R717. -/
  | pointChangeDone
  /-- SENSOR_READ, R726. -/
  | sensorRead (temps : List (List (Option Byte))) (w mv : BitVec 16)
  /-- THERM_TRIP, R726. -/
  | thermTrip
  /-- REF_LOST, R729. -/
  | refLost
  /-- PLL_UNLOCK, R18. -/
  | pllUnlock (x : Island)
  /-- MOD_RESET, R732. -/
  | modReset (flash : Option (List (Nat × Byte)))
  /-- WARM_RESET, R735. -/
  | warmReset
  /-- COLD, R732. -/
  | coldRequest
  /-- WARM, R732. -/
  | warmRequest
  /-- START_STEP_TIMEOUT, R740. -/
  | startStepTimeout (step : Fin 8) (code unit : Byte)
  /-- START_COMPLETE, R737. -/
  | startComplete
  /-- COMMIT, R749. -/
  | svnCommit
  /-- REQ, R751. -/
  | attReq
  /-- ATTESTATION_DONE, R751. -/
  | attestationDone
  /-- MGMT_READ, R769. -/
  | mgmtRead (index : Byte)
  /-- DYNAMIC_ADDRESS_ASSIGN, R768. -/
  | dynamicAddressAssign (a : BitVec 7)
  /-- EXTEST, R771. -/
  | extest
  /-- IDCODE, R772. -/
  | idcode
  /-- SAMPLE_PRELOAD, R771. -/
  | samplePreload
  /-- CLAMP, R771. -/
  | clamp
  /-- HIGHZ, R771. -/
  | highz
  /-- EXTEST_PULSE, R771. -/
  | extestPulse
  /-- EXTEST_TRAIN, R771. -/
  | extestTrain
  /-- BYPASS, R771. -/
  | bypass (opcode : Byte)
  /-- REG_ACCESS, R774. -/
  | regAccess (dr : BitVec 96)
  /-- REG_ACCESS_CAPTURE, R774. -/
  | regAccessCapture
  /-- FEC_UNCORR, R519. -/
  | fecUncorr (p : PortId) (sixteenth : Bool)
  /-- LOAN_PORT_INACTIVE_TIMEOUT, R506. -/
  | loanPortInactiveTimeout (k : Fin 4)
  /-- RESCAN_DONE, R647. -/
  | rescanDone
  /-- REFRESH_COPIES_DONE, R415. -/
  | refreshCopiesDone (t : TileId)
  /-- HEAT_TEST_TIMEOUT, R651. -/
  | heatTestTimeout (c : CoreId)
  /-- D2D_RETRAIN_DONE, R611. -/
  | d2dRetrainDone (k : Fin 3)
  /-- PCIE_LINK_UP, R787. -/
  | pcieLinkUp (p : Fin 4)
  /-- REF_DRIFT, R730. -/
  | refDrift (off : BitVec 16)
  /-- TEST_LOGIC_RESET, R771. -/
  | testLogicReset
  /-- MGMT_WRITE, R769. -/
  | mgmtWrite (data : List Byte)
deriving DecidableEq, Repr

end Sys2Proof
end

