-- ==== Sys2Proof/Decode.lean ====
section
/-! DEFINITION. The decoder of the opcode table's words: the table gives no row any bits, a command reaches the block as an access or an
event, so no word spells one. And the instruction words of the vector unit's programs (R136, R147). -/

namespace Sys2Proof

/-- The command that a word of the table's bits spells: none, for no row has bits. -/
def decodeTableWord (_nbits _w : Nat) : Option Instr := none

/-- R136: the fields of an instruction word; ecc is what the scratch ECC meets, which the word does not say. -/
def VFields.ofWord (w : BitVec 64) (ecc : Ecc) : VFields :=
  { vd := w.extractLsb' 51 5, va := w.extractLsb' 46 5, vb := w.extractLsb' 41 5, vc := w.extractLsb' 36 5, fmt := w.extractLsb' 32 4,
    rnd := w.extractLsb' 30 2, imm := w.extractLsb' 0 30, ecc := ecc }

/-- An opcode and the command that a thread's issue of it is. -/
abbrev VectorOp := Nat × (CoreId → ThreadId → VFields → Instr)

/-- R147. Control and scalars. -/
def scalarOps : List VectorOp :=
  [(0x00, Instr.nop), (0x01, Instr.enditem), (0x02, Instr.bra), (0x03, Instr.brz), (0x04, Instr.brnz), (0x05, Instr.waitAsync),
   (0x06, Instr.cqpop), (0x08, Instr.sadd), (0x09, Instr.ssub), (0x0A, Instr.smul), (0x0B, Instr.sand), (0x0C, Instr.sor),
   (0x0D, Instr.sxor), (0x0E, Instr.sshl), (0x0F, Instr.sshr), (0x10, Instr.ssra), (0x11, Instr.slt), (0x12, Instr.sltu),
   (0x13, Instr.sshi), (0x14, Instr.sld), (0x15, Instr.sst), (0x16, Instr.stime)]

/-- R147. FP32. -/
def floatOps : List VectorOp :=
  [(0x20, Instr.vadd), (0x21, Instr.vsub), (0x22, Instr.vmul), (0x23, Instr.vfma), (0x24, Instr.vfnma), (0x25, Instr.vadd3),
   (0x26, Instr.vmax), (0x27, Instr.vmin), (0x28, Instr.vabs), (0x29, Instr.vcmp), (0x2A, Instr.vsel), (0x2B, Instr.vcvt),
   (0x30, Instr.vrcp), (0x31, Instr.vrsqrt), (0x32, Instr.vdiv), (0x33, Instr.vsqrt), (0x34, Instr.vexp), (0x35, Instr.vlog)]

/-- R147. Integers and lanes. -/
def intOps : List VectorOp :=
  [(0x40, Instr.viadd), (0x41, Instr.visub), (0x42, Instr.vimul), (0x43, Instr.viand), (0x44, Instr.vior), (0x45, Instr.vixor),
   (0x46, Instr.vishl), (0x47, Instr.vishr), (0x48, Instr.vimax), (0x49, Instr.vimin), (0x4A, Instr.vicmp), (0x4B, Instr.vf2i),
   (0x4C, Instr.vi2f), (0x50, Instr.vmov), (0x51, Instr.vbcst), (0x52, Instr.vlane), (0x53, Instr.vidx), (0x54, Instr.vperm)]

/-- R147. Scratch vectors, asynchronous operations, rings. -/
def memoryOps : List VectorOp :=
  [(0x60, Instr.vld), (0x61, Instr.vst), (0x62, Instr.vldx), (0x63, Instr.vstx), (0x64, Instr.vout), (0x65, Instr.mtq),
   (0x66, Instr.lpq), (0x67, Instr.spq), (0x70, Instr.rget), (0x71, Instr.rrel), (0x72, Instr.rout), (0x73, Instr.rpub)]

/-- R147. Reductions, masks, random bits. -/
def reduceOps : List VectorOp :=
  [(0x78, Instr.vrsum), (0x79, Instr.vrmax), (0x7A, Instr.vrmin), (0x7B, Instr.vtopk), (0x80, Instr.mlogic), (0x81, Instr.mnot),
   (0x82, Instr.mfroms), (0x83, Instr.mtos), (0x84, Instr.mpop), (0x88, Instr.rngrd), (0x89, Instr.rngld), (0x8A, Instr.rngst)]

/-- R147: every defined opcode. -/
def vectorOps : List VectorOp := scalarOps ++ floatOps ++ intOps ++ memoryOps ++ reduceOps

/-- R136, R147: the command that the issue of an instruction word by thread t of core c is; none for an undefined opcode. -/
def decodeVector (c : CoreId) (t : ThreadId) (ecc : Ecc) (w : BitVec 64) : Option Instr :=
  (vectorOps.find? (fun o => o.1 == (w.extractLsb' 56 8).toNat)).map (fun o => o.2 c t (VFields.ofWord w ecc))

end Sys2Proof
end

