-- ==== Sys2Proof/Machine/Bits.lean ====
section
/-! DEFINITION. Bit fields, byte order, the checksums and the mixing function that the chapters share:
little-endian bytes (R8), CRC-32C (R67), CRC-64 (R528), mix64 and the generator seed (R203), the generator draw (R200, R201). -/

namespace Sys2Proof.Machine

/-- Bits [hi:lo] of a natural number read as a word. -/
def fld (v hi lo : Nat) : Nat := (v >>> lo) % 2 ^ (hi - lo + 1)

/-- One bit of a natural number. -/
def bit (v n : Nat) : Bool := v.testBit n

/-- A bit as a number. -/
def b2n (b : Bool) : Nat := if b then 1 else 0

/-- The word v with bits [hi:lo] replaced by x. -/
def setFld (v hi lo x : Nat) : Nat :=
  v - (fld v hi lo) * 2 ^ lo + (x % 2 ^ (hi - lo + 1)) * 2 ^ lo

/-- A register of which one field, and after it another, reads as a function of what was written. -/
def viewField (hi lo : Nat) (f : Nat → Nat) (v : Nat) : Nat := setFld v hi lo (f (fld v hi lo))

/-- The nearest of the values from least to most. -/
def clampTo (least most v : Nat) : Nat := max least (min most v)

/-- n bits of v as a two's-complement integer. -/
def sgn (n v : Nat) : Int :=
  let u := v % 2 ^ n
  if u < 2 ^ (n - 1) then (u : Int) else (u : Int) - (2 ^ n : Nat)

/-- The n low bits of an integer, as a natural number. -/
def wrap (n : Nat) (x : Int) : Nat := (x % ((2 ^ n : Nat) : Int)).toNat

/-- n / d rounded up. -/
def cdiv (n d : Nat) : Nat := (n + d - 1) / d

/-- n rounded up to a multiple of a. -/
def alignUp (n a : Nat) : Nat := cdiv n a * a

/-- Do the half-open ranges [a, a+n) and [b, b+m) meet? -/
def overlaps (a n b m : Nat) : Bool := decide (a < b + m) && decide (b < a + n)

/-- The n little-endian bytes of v (R8). -/
def leBytes : Nat → Nat → List Byte
  | 0, _ => []
  | n + 1, v => BitVec.ofNat 8 v :: leBytes n (v / 256)

/-- The number that little-endian bytes spell (R8). -/
def ofLe : List Byte → Nat
  | [] => 0
  | b :: bs => b.toNat + 256 * ofLe bs

/-- The number that big-endian octets spell (R744). -/
def ofBe (bs : List Byte) : Nat := bs.foldl (fun a b => a * 256 + b.toNat) 0

/-- The n big-endian octets of v (R744). -/
def beBytes (n v : Nat) : List Byte := (leBytes n v).reverse

/-- w-bit field number k of a little-endian record: bits [hi:lo] of the n-byte word at byte offset off. -/
def recFld (bs : List Byte) (off n hi lo : Nat) : Nat := fld (ofLe ((bs.drop off).take n)) hi lo

/-- The 64-bit words of a byte string, the last one zero-padded (R626: unwritten bytes enter as 0). -/
def words64 (bs : List Byte) : List Nat :=
  (List.range (cdiv bs.length 8)).map (fun i => ofLe ((bs.drop (8 * i)).take 8))

/-- One reflected CRC-32C step on a byte. -/
def crc32cByte (c : Nat) (b : Byte) : Nat :=
  (List.range 8).foldl (fun c _ => if c % 2 = 1 then (c / 2) ^^^ 0x82F63B78 else c / 2) (c ^^^ b.toNat)

/-- CRC-32C: Castagnoli polynomial, initial value all ones, final inversion (R67). -/
def crc32c (bs : List Byte) : Nat := (bs.foldl crc32cByte 0xFFFFFFFF) ^^^ 0xFFFFFFFF

/-- One CRC-64 step on a byte, most significant bit first (R528; the bit order is DEDUCED, log entry 6). -/
def crc64Byte (c : Nat) (b : Byte) : Nat :=
  (List.range 8).foldl
    (fun c _ => if c.testBit 63 then ((c * 2) % 2 ^ 64) ^^^ 0x42F0E1EBA9EA3693 else (c * 2) % 2 ^ 64)
    (c ^^^ (b.toNat * 2 ^ 56))

/-- The CRC-64 of R528: ECMA-182 polynomial, initial value 0, no final inversion. -/
def crc64 (bs : List Byte) : Nat := bs.foldl crc64Byte 0

/-- mix64 of R203. -/
def mix64 (v0 : W64) : W64 :=
  let v := v0 + 0x9E3779B97F4A7C15#64
  let v := (v ^^^ (v >>> 30)) * 0xBF58476D1CE4E5B9#64
  let v := (v ^^^ (v >>> 27)) * 0x94D049BB133111EB#64
  v ^^^ (v >>> 31)

/-- word_term of R626. -/
def wordTerm (a v : W64) : W64 := mix64 (mix64 a ^^^ v)

/-- A generator state: four 32-bit words, word 0 in the low bits (R200). -/
abbrev Gen := BitVec 128

/-- R201: the all-zero state is replaced by word 0 equal to 1. -/
def genFix (g : Gen) : Gen := if g = 0#128 then 1#128 else g

/-- R203: the seed function, then R201. -/
def genSeed (job step : W64) (dom : Nat) (coord : Nat) (unit : W64) (lane : Nat) : Gen :=
  let h := mix64 (job ^^^ mix64 step)
  let h := mix64 (h ^^^ (BitVec.ofNat 64 dom <<< 56) ^^^ BitVec.ofNat 64 coord)
  let h := mix64 (h ^^^ unit)
  let a := mix64 (h + BitVec.ofNat 64 (2 * lane))
  let b := mix64 (h + BitVec.ofNat 64 (2 * lane + 1))
  genFix (b ++ a)

/-- R200: one draw; the new state and the new word w. -/
def genDraw (g : Gen) : Gen × W32 :=
  let x := g.extractLsb' 0 32
  let y := g.extractLsb' 32 32
  let z := g.extractLsb' 64 32
  let w := g.extractLsb' 96 32
  let t := x ^^^ (x <<< 11)
  let w' := w ^^^ (w >>> 19) ^^^ t ^^^ (t >>> 8)
  (w' ++ (w ++ (z ++ y)), w')

end Sys2Proof.Machine
end

