-- ==== Sys2Proof/Machine/SMap.lean ====
section
/-! DEFINITION. Sparse maps in one canonical form: a list of (key, value) pairs with keys strictly rising and no
entry equal to what an unlisted key reads as. Memories, register files and lane files are such lists. -/

namespace Sys2Proof.Machine

/-- What key k reads as; d gives the unlisted keys. -/
def SMap.get {α : Type} (d : Nat → α) (m : List (Nat × α)) (k : Nat) : α :=
  match m with
  | [] => d k
  | (k', v) :: r => if k' = k then v else SMap.get d r k

/-- The map without key k. -/
def SMap.erase {α : Type} (m : List (Nat × α)) (k : Nat) : List (Nat × α) := m.filter (fun e => !(e.1 == k))

/-- The map with key k bound to v, keys kept rising. -/
def SMap.put {α : Type} (m : List (Nat × α)) (k : Nat) (v : α) : List (Nat × α) :=
  match m with
  | [] => [(k, v)]
  | (k', v') :: r =>
    if k' = k then (k, v) :: r else if k < k' then (k, v) :: (k', v') :: r else (k', v') :: SMap.put r k v

/-- The map with key k reading as v; a value equal to the unlisted one removes the entry. -/
def SMap.set {α : Type} [DecidableEq α] (d : Nat → α) (m : List (Nat × α)) (k : Nat) (v : α) : List (Nat × α) :=
  if v = d k then SMap.erase m k else SMap.put m k v

/-- Every key of m is above lo. -/
def SMap.above {α : Type} (lo : Option Nat) (m : List (Nat × α)) : Bool :=
  match m with
  | [] => true
  | (k, _) :: r => (match lo with | none => true | some l => decide (l < k)) && SMap.above (some k) r

/-- The canonical form: keys strictly rising, no entry equal to the unlisted value. -/
def SMap.wf {α : Type} [DecidableEq α] (d : Nat → α) (m : List (Nat × α)) : Bool :=
  SMap.above none m && m.all (fun e => decide (e.2 ≠ d e.1))

/-- Set several keys, in list order. -/
def SMap.setAll {α : Type} [DecidableEq α] (d : Nat → α) (m : List (Nat × α)) (es : List (Nat × α)) : List (Nat × α) :=
  es.foldl (fun m e => SMap.set d m e.1 e.2) m

/-- A finite set of numbers as a rising list: insertion. -/
def NSet.add (m : List Nat) (k : Nat) : List Nat :=
  match m with
  | [] => [k]
  | k' :: r => if k' = k then k' :: r else if k < k' then k :: k' :: r else k' :: NSet.add r k

/-- Removal of every number of [lo, hi) from a set. -/
def NSet.drop (m : List Nat) (lo hi : Nat) : List Nat := m.filter (fun k => !(decide (lo ≤ k) && decide (k < hi)))

/-- Element number i of a list, or a default. -/
def nth {α : Type} (d : α) : List α → Nat → α
  | [], _ => d
  | a :: _, 0 => a
  | _ :: r, n + 1 => nth d r n

/-- The list with element number i replaced by f of it; no change where there is none. -/
def modNth {α : Type} (f : α → α) : List α → Nat → List α
  | [], _ => []
  | a :: r, 0 => f a :: r
  | a :: r, n + 1 => a :: modNth f r n

end Sys2Proof.Machine
end

