-- ==== Sys2Proof/Machine/RegMap.lean ====
section
/-! DEFINITION. The register map: one row per register of the register tables of the chapters (R45, R51, R125, R128,
R227, R317, R320, R375, R415, R456, R512, R514, R515, R564, R567, R612, R613, R615, R617, R665, R708, R754, R756, R758),
with its offset, size, Reset column and the bits of each access type of R49; names of the offsets and of the ERR_STICKY bits. -/

namespace Sys2Proof.Machine

/-- One register, or an array of count registers stride bytes apart: its size in bytes, its Reset column, the bits that
are RW or RWS, the W1C bits, the W1S and WO bits, and the bits that a warm reset keeps (R50). -/
structure RegRow where
  off : Nat
  count : Nat
  stride : Nat
  bytes : Nat
  reset : Nat
  rw : Nat
  w1c : Nat
  w1s : Nat
  keep : Nat
deriving DecidableEq, Repr

/-! Register offsets within their page; an array is named by its first register. -/
namespace R

/-- BLK_ID, R51. -/
def SH_BLK_ID : Nat := 0x0
/-- BLK_VER, R51. -/
def SH_BLK_VER : Nat := 0x4
/-- CTRL, R51. -/
def SH_CTRL : Nat := 0x10
/-- STATUS, R51. -/
def SH_STATUS : Nat := 0x14
/-- DRAIN_LIMIT, R51. -/
def SH_DRAIN_LIMIT : Nat := 0x18
/-- ERR_STICKY, R51. -/
def SH_ERR_STICKY : Nat := 0x20
/-- ERR_MASK, R51. -/
def SH_ERR_MASK : Nat := 0x24
/-- ERR_INJECT, R51. -/
def SH_ERR_INJECT : Nat := 0x28
/-- FIRST_ERR, R51. -/
def SH_FIRST_ERR : Nat := 0x30
/-- MOD_COORD, R45. -/
def MOD_MOD_COORD : Nat := 0x1000
/-- RWIN_CTRL, R45. -/
def MOD_RWIN_CTRL : Nat := 0x1008
/-- RWIN_BASE, R45. -/
def MOD_RWIN_BASE : Nat := 0x1010
/-- REMOTE_REFUSED, R45. -/
def MOD_REMOTE_REFUSED : Nat := 0x100
/-- NUM_OVERFLOW, R227. -/
def MOD_NUM_OVERFLOW : Nat := 0x140
/-- NUM_SATURATION, R227. -/
def MOD_NUM_SATURATION : Nat := 0x148
/-- NUM_NAN, R227. -/
def MOD_NUM_NAN : Nat := 0x150
/-- JOB_SEED, R227. -/
def MOD_JOB_SEED : Nat := 0x1100
/-- RNG_CTL, R227. -/
def MOD_RNG_CTL : Nat := 0x1108
/-- NBR_FILL_BYTES, R512. -/
def MOD_NBR_FILL_BYTES : Nat := 0x180
/-- NBR_WB_BYTES, R512. -/
def MOD_NBR_WB_BYTES : Nat := 0x188
/-- NBR_SERVED_BYTES, R512. -/
def MOD_NBR_SERVED_BYTES : Nat := 0x190
/-- NBR_LOST_EVENTS, R512. -/
def MOD_NBR_LOST_EVENTS : Nat := 0x198
/-- LEND_REFUSALS, R512. -/
def MOD_LEND_REFUSALS : Nat := 0x1A0
/-- HASH_KEY, R512. -/
def MOD_HASH_KEY : Nat := 0x1200
/-- HOST_CFG, R512. -/
def MOD_HOST_CFG : Nat := 0x1208
/-- MEM_LAYOUT, R512. -/
def MOD_MEM_LAYOUT : Nat := 0x1210
/-- MEM_LOCK, R512. -/
def MOD_MEM_LOCK : Nat := 0x1218
/-- HBM_TOP, R512. -/
def MOD_HBM_TOP : Nat := 0x1220
/-- REKEY, R512. -/
def MOD_REKEY : Nat := 0x1228
/-- HASH_KEY_NEXT, R512. -/
def MOD_HASH_KEY_NEXT : Nat := 0x1230
/-- NBR_TIMEOUT, R512. -/
def MOD_NBR_TIMEOUT : Nat := 0x1238
/-- REGION_i, R512. -/
def MOD_REGION : Nat := 0x1300
/-- LOAN_ADDR_k, R512. -/
def MOD_LOAN_ADDR : Nat := 0x1400
/-- LOAN_CFG_k, R512. -/
def MOD_LOAN_CFG : Nat := 0x1408
/-- LEND_BASE, R512. -/
def MOD_LEND_BASE : Nat := 0x1480
/-- LEND_CFG, R512. -/
def MOD_LEND_CFG : Nat := 0x1488
/-- START_STATUS, R758. -/
def MOD_START_STATUS : Nat := 0x1500
/-- START_CTL, R758. -/
def MOD_START_CTL : Nat := 0x1508
/-- START_NS, R758. -/
def MOD_START_NS : Nat := 0x1510
/-- DEV_ID, R758. -/
def MOD_DEV_ID : Nat := 0x1518
/-- SVN_FUSE, R758. -/
def MOD_SVN_FUSE : Nat := 0x1520
/-- SVN_CTL, R758. -/
def MOD_SVN_CTL : Nat := 0x1528
/-- ATT_ADDR, R758. -/
def MOD_ATT_ADDR : Nat := 0x1530
/-- ATT_CTL, R758. -/
def MOD_ATT_CTL : Nat := 0x1538
/-- ATT_NONCE_i, R758. -/
def MOD_ATT_NONCE : Nat := 0x1540
/-- DEV_PUB_i, R758. -/
def MOD_DEV_PUB : Nat := 0x1600
/-- ENERGY_MJ, R754. -/
def PWR_ENERGY_MJ : Nat := 0x100
/-- POINT_DOWNS, R754. -/
def PWR_POINT_DOWNS : Nat := 0x108
/-- CAP_LIMIT_NS, R754. -/
def PWR_CAP_LIMIT_NS : Nat := 0x110
/-- THERM_LIMIT_NS, R754. -/
def PWR_THERM_LIMIT_NS : Nat := 0x118
/-- PWR_CFG, R754. -/
def PWR_PWR_CFG : Nat := 0x1000
/-- PWR_STATUS, R754. -/
def PWR_PWR_STATUS : Nat := 0x1008
/-- TILE_POINT, R754. -/
def PWR_TILE_POINT : Nat := 0x1010
/-- DIE_TEMP_T, R754. -/
def PWR_DIE_TEMP_T : Nat := 0x1018
/-- DIE_TEMP_D, R754. -/
def PWR_DIE_TEMP_D : Nat := 0x1020
/-- TILE_DUTY, R754. -/
def PWR_TILE_DUTY : Nat := 0x1028
/-- PLL_UNLOCKS, R756. -/
def CLK_PLL_UNLOCKS : Nat := 0x100
/-- PLL_LOCK, R756. -/
def CLK_PLL_LOCK : Nat := 0x1000
/-- REF_MON, R756. -/
def CLK_REF_MON : Nat := 0x1008
/-- EVENTS, R708. -/
def FLT_EVENTS : Nat := 0x100
/-- WAKE_WRITES, R708. -/
def FLT_WAKE_WRITES : Nat := 0x108
/-- COALESCED, R708. -/
def FLT_COALESCED : Nat := 0x110
/-- WAKE_DROPPED, R708. -/
def FLT_WAKE_DROPPED : Nat := 0x118
/-- WAKE_OVERWRITTEN, R708. -/
def FLT_WAKE_OVERWRITTEN : Nat := 0x120
/-- WIRE_FAULTS, R708. -/
def FLT_WIRE_FAULTS : Nat := 0x128
/-- FENCES, R708. -/
def FLT_FENCES : Nat := 0x130
/-- INJECTED_EVENTS, R708. -/
def FLT_INJECTED_EVENTS : Nat := 0x138
/-- CLASS_EVENTS_c, R708. -/
def FLT_CLASS_EVENTS : Nat := 0x140
/-- FLT_BASIC, R708. -/
def FLT_FLT_BASIC : Nat := 0x1000
/-- WAKE_HEAD, R708. -/
def FLT_WAKE_HEAD : Nat := 0x1008
/-- WAKE_ACK, R708. -/
def FLT_WAKE_ACK : Nat := 0x1010
/-- FLT_STATE, R708. -/
def FLT_FLT_STATE : Nat := 0x1018
/-- FLT_CTL, R708. -/
def FLT_FLT_CTL : Nat := 0x101C
/-- FLT_IRQ, R708. -/
def FLT_FLT_IRQ : Nat := 0x1020
/-- SRC_PENDING, R708. -/
def FLT_SRC_PENDING : Nat := 0x1028
/-- STROKE_CTL, R708. -/
def FLT_STROKE_CTL : Nat := 0x1030
/-- FENCE_CLR, R708. -/
def FLT_FENCE_CLR : Nat := 0x1038
/-- FENCED_CORES_LO, R708. -/
def FLT_FENCED_CORES_LO : Nat := 0x1040
/-- FENCED_CORES_HI, R708. -/
def FLT_FENCED_CORES_HI : Nat := 0x1048
/-- FENCED_UNITS, R708. -/
def FLT_FENCED_UNITS : Nat := 0x1050
/-- FIRST_WAKE, R708. -/
def FLT_FIRST_WAKE : Nat := 0x1100
/-- INJ_CFG, R708. -/
def FLT_INJ_CFG : Nat := 0x1200
/-- WAKE_i, R708. -/
def FLT_WAKE : Nat := 0x2000
/-- WIRE_INJ, R708. -/
def FLT_WIRE_INJ : Nat := 0x8040
/-- STEPS_COMMITTED, R665. -/
def REL_STEPS_COMMITTED : Nat := 0x100
/-- STEPS_ROLLED_BACK, R665. -/
def REL_STEPS_ROLLED_BACK : Nat := 0x108
/-- SUSPECT_STEPS, R665. -/
def REL_SUSPECT_STEPS : Nat := 0x110
/-- AUDITED_STEPS, R665. -/
def REL_AUDITED_STEPS : Nat := 0x118
/-- RERUNS, R665. -/
def REL_RERUNS : Nat := 0x120
/-- THIRD_RUNS, R665. -/
def REL_THIRD_RUNS : Nat := 0x128
/-- TRANSIENTS, R665. -/
def REL_TRANSIENTS : Nat := 0x130
/-- UNATTRIBUTED, R665. -/
def REL_UNATTRIBUTED : Nat := 0x138
/-- CREW_CHECKS, R665. -/
def REL_CREW_CHECKS : Nat := 0x140
/-- CREW_MISMATCHES, R665. -/
def REL_CREW_MISMATCHES : Nat := 0x148
/-- HEAT_TESTS, R665. -/
def REL_HEAT_TESTS : Nat := 0x150
/-- HEAT_FAILS, R665. -/
def REL_HEAT_FAILS : Nat := 0x158
/-- HEAT_DEFERRED, R665. -/
def REL_HEAT_DEFERRED : Nat := 0x160
/-- ROTATE_NS, R665. -/
def REL_ROTATE_NS : Nat := 0x168
/-- COMMITTED_STEP, R665. -/
def REL_COMMITTED_STEP : Nat := 0x1F0
/-- OPEN_STEP, R665. -/
def REL_OPEN_STEP : Nat := 0x1F8
/-- COMMIT_CFG, R665. -/
def REL_COMMIT_CFG : Nat := 0x1010
/-- UMPIRE_STATUS, R665. -/
def REL_UMPIRE_STATUS : Nat := 0x1018
/-- REL_CMD, R665. -/
def REL_REL_CMD : Nat := 0x1020
/-- SET_STEP_VALUE, R665. -/
def REL_SET_STEP_VALUE : Nat := 0x1028
/-- AUDIT_CFG, R665. -/
def REL_AUDIT_CFG : Nat := 0x1030
/-- AUDIT_SEED, R665. -/
def REL_AUDIT_SEED : Nat := 0x1038
/-- ANOM_CFG, R665. -/
def REL_ANOM_CFG : Nat := 0x1040
/-- CREW_CFG, R665. -/
def REL_CREW_CFG : Nat := 0x1048
/-- HEAT_CFG, R665. -/
def REL_HEAT_CFG : Nat := 0x1050
/-- GOAL_CFG, R665. -/
def REL_GOAL_CFG : Nat := 0x1058
/-- GOAL_INFO, R665. -/
def REL_GOAL_INFO : Nat := 0x1060
/-- ROT_CFG, R665. -/
def REL_ROT_CFG : Nat := 0x1068
/-- ROT_MAP, R665. -/
def REL_ROT_MAP : Nat := 0x1070
/-- HEAT_EXPOSED_UNIT, R665. -/
def REL_HEAT_EXPOSED_UNIT : Nat := 0x1078
/-- HEAT_EXPOSED_FIRST, R665. -/
def REL_HEAT_EXPOSED_FIRST : Nat := 0x1080
/-- HEAT_EXPOSED_LAST, R665. -/
def REL_HEAT_EXPOSED_LAST : Nat := 0x1088
/-- STATE_DIGEST, R665. -/
def REL_STATE_DIGEST : Nat := 0x1090
/-- SD_STEP, R665. -/
def REL_SD_STEP : Nat := 0x1098
/-- SD_COMMITTED, R665. -/
def REL_SD_COMMITTED : Nat := 0x10A0
/-- DIGEST_r_i, R665. -/
def REL_DIGEST_r : Nat := 0x1200
/-- LOOKUPS, R317. -/
def HRD_LOOKUPS : Nat := 0x100
/-- SEAT_HITS, R317. -/
def HRD_SEAT_HITS : Nat := 0x108
/-- HOME_NEAR, R317. -/
def HRD_HOME_NEAR : Nat := 0x110
/-- HOME_FAR, R317. -/
def HRD_HOME_FAR : Nat := 0x118
/-- HOME_REMOTE, R317. -/
def HRD_HOME_REMOTE : Nat := 0x120
/-- NULL_IDS, R317. -/
def HRD_NULL_IDS : Nat := 0x128
/-- SEATINGS, R317. -/
def HRD_SEATINGS : Nat := 0x130
/-- UNSEATINGS, R317. -/
def HRD_UNSEATINGS : Nat := 0x138
/-- SEAT_FULL, R317. -/
def HRD_SEAT_FULL : Nat := 0x140
/-- INSERT_DROPS, R317. -/
def HRD_INSERT_DROPS : Nat := 0x148
/-- REFRESH_ROWS, R317. -/
def HRD_REFRESH_ROWS : Nat := 0x150
/-- BOUNDARY_NS, R317. -/
def HRD_BOUNDARY_NS : Nat := 0x158
/-- REPLACE_ROWS, R317. -/
def HRD_REPLACE_ROWS : Nat := 0x160
/-- HEAT_HIST_b, R317. -/
def HRD_HEAT_HIST : Nat := 0x200
/-- TDESC_BASE, R317. -/
def HRD_TDESC_BASE : Nat := 0x1000
/-- STATS_BASE, R317. -/
def HRD_STATS_BASE : Nat := 0x1008
/-- SLIDE_CTL, R317. -/
def HRD_SLIDE_CTL : Nat := 0x1010
/-- SEAT_BASE_t, R317. -/
def HRD_SEAT_BASE : Nat := 0x1100
/-- SEAT_CFG_t, R317. -/
def HRD_SEAT_CFG : Nat := 0x1108
/-- FLIP_TABLE, R317. -/
def HRD_FLIP_TABLE : Nat := 0x8000
/-- FLIP_STEP, R317. -/
def HRD_FLIP_STEP : Nat := 0x8008
/-- FLIP_CTRL, R317. -/
def HRD_FLIP_CTRL : Nat := 0x8010
/-- SLIDE_KEY, R317. -/
def HRD_SLIDE_KEY : Nat := 0x8020
/-- SLIDE_CMD, R317. -/
def HRD_SLIDE_CMD : Nat := 0x8028
/-- IMG_SEL_k, R317. -/
def HRD_IMG_SEL : Nat := 0x8100
/-- TRAINS_DONE, R125. -/
def COX_TRAINS_DONE : Nat := 0x100
/-- TRAINS_FAILED, R125. -/
def COX_TRAINS_FAILED : Nat := 0x108
/-- CREDIT_STALL_CYC, R125. -/
def COX_CREDIT_STALL_CYC : Nat := 0x110
/-- STARVE_CYC, R125. -/
def COX_STARVE_CYC : Nat := 0x118
/-- MSTATE_HOLD_CYC, R125. -/
def COX_MSTATE_HOLD_CYC : Nat := 0x120
/-- TSRAM_CE_CNT, R125. -/
def COX_TSRAM_CE_CNT : Nat := 0x128
/-- OPEN_STEP, R125. -/
def COX_OPEN_STEP : Nat := 0x1000
/-- CORE_AVAIL, R125. -/
def COX_CORE_AVAIL : Nat := 0x1008
/-- TSRAM_CFG, R125. -/
def COX_TSRAM_CFG : Nat := 0x1010
/-- STALL_NEAR_CYC, R515. -/
def COX_STALL_NEAR_CYC : Nat := 0x180
/-- STALL_FAR_CYC, R515. -/
def COX_STALL_FAR_CYC : Nat := 0x188
/-- STALL_NBR_LINK_CYC, R515. -/
def COX_STALL_NBR_LINK_CYC : Nat := 0x190
/-- NBR_LOST_CNT, R515. -/
def COX_NBR_LOST_CNT : Nat := 0x198
/-- TCACHE_HITS, R515. -/
def COX_TCACHE_HITS : Nat := 0x1A0
/-- TCACHE_FILLS, R515. -/
def COX_TCACHE_FILLS : Nat := 0x1A8
/-- TCACHE_WB_BYTES, R515. -/
def COX_TCACHE_WB_BYTES : Nat := 0x1B0
/-- TCACHE_NBR_WB_BYTES, R515. -/
def COX_TCACHE_NBR_WB_BYTES : Nat := 0x1B8
/-- TCACHE_CTL, R515. -/
def COX_TCACHE_CTL : Nat := 0x1040
/-- RING_BASE, R612. -/
def RING_BASE : Nat := 0x1080
/-- RING_CFG, R612. -/
def RING_CFG : Nat := 0x1088
/-- RING_CTL, R612. -/
def RING_CTL : Nat := 0x108C
/-- RING_HEAD, R612. -/
def RING_HEAD : Nat := 0x1090
/-- RING_DB, R612. -/
def RING_DB : Nat := 0x1098
/-- RING_STATUS, R612. -/
def RING_STATUS : Nat := 0x109C
/-- SLOTS_READ, R613. -/
def COX_SLOTS_READ : Nat := 0x130
/-- SLOT_REREADS, R613. -/
def COX_SLOT_REREADS : Nat := 0x138
/-- TORN_CMDS, R613. -/
def COX_TORN_CMDS : Nat := 0x140
/-- INLINE_BYTES, R613. -/
def COX_INLINE_BYTES : Nat := 0x148
/-- FLAG_POLLS, R613. -/
def COX_FLAG_POLLS : Nat := 0x150
/-- DB_IGNORED, R613. -/
def COX_DB_IGNORED : Nat := 0x158
/-- TORN_CFG, R613. -/
def COX_TORN_CFG : Nat := 0x1100
/-- ARRAY_BUSY_CYC, R128. -/
def CORE_ARRAY_BUSY_CYC : Nat := 0x100
/-- VEC_ISSUE, R128. -/
def CORE_VEC_ISSUE : Nat := 0x108
/-- LOAD_BYTES, R128. -/
def CORE_LOAD_BYTES : Nat := 0x110
/-- STORE_BYTES, R128. -/
def CORE_STORE_BYTES : Nat := 0x118
/-- THREAD_IDLE_CYC, R128. -/
def CORE_THREAD_IDLE_CYC : Nat := 0x120
/-- SCRATCH_CE_CNT, R128. -/
def CORE_SCRATCH_CE_CNT : Nat := 0x128
/-- CORE_CFG, R128. -/
def CORE_CORE_CFG : Nat := 0x1000
/-- CATCH_UPDATES, R375. -/
def BASE_CATCH_UPDATES : Nat := 0x100
/-- CATCH_BUSY_CYC, R375. -/
def BASE_CATCH_BUSY_CYC : Nat := 0x108
/-- JOURNAL_STALL_CYC, R375. -/
def BASE_JOURNAL_STALL_CYC : Nat := 0x110
/-- LOCK_WAIT_CYC, R375. -/
def BASE_LOCK_WAIT_CYC : Nat := 0x118
/-- LOCK_FULL_CYC, R375. -/
def BASE_LOCK_FULL_CYC : Nat := 0x120
/-- JOURNAL_BYTES, R375. -/
def BASE_JOURNAL_BYTES : Nat := 0x128
/-- ROWS_RESTORED, R375. -/
def BASE_ROWS_RESTORED : Nat := 0x130
/-- ROWS_POISONED, R375. -/
def BASE_ROWS_POISONED : Nat := 0x138
/-- POISON_SKIPS, R375. -/
def BASE_POISON_SKIPS : Nat := 0x140
/-- ATOMICS, R375. -/
def BASE_ATOMICS : Nat := 0x148
/-- CATCH_OVERFLOW, R375. -/
def BASE_CATCH_OVERFLOW : Nat := 0x150
/-- CATCH_SATURATION, R375. -/
def BASE_CATCH_SATURATION : Nat := 0x158
/-- CATCH_NAN, R375. -/
def BASE_CATCH_NAN : Nat := 0x160
/-- REPLACE_APPLIED, R375. -/
def BASE_REPLACE_APPLIED : Nat := 0x168
/-- JOURNAL_USED, R375. -/
def BASE_JOURNAL_USED : Nat := 0x170
/-- COMMITTED_STEP, R375. -/
def BASE_COMMITTED_STEP : Nat := 0x1F0
/-- OPEN_STEP, R375. -/
def BASE_OPEN_STEP : Nat := 0x1F8
/-- CATCH_CFG, R375. -/
def BASE_CATCH_CFG : Nat := 0x1000
/-- LR_ORIGIN, R375. -/
def BASE_LR_ORIGIN : Nat := 0x1008
/-- JOURNAL_CFG, R375. -/
def BASE_JOURNAL_CFG : Nat := 0x1010
/-- ECC_CE_CNT, R514. -/
def BASE_ECC_CE_CNT : Nat := 0x200
/-- ECC_UE_CNT, R514. -/
def BASE_ECC_UE_CNT : Nat := 0x208
/-- SCRUB_WORDS, R514. -/
def BASE_SCRUB_WORDS : Nat := 0x210
/-- RD_BYTES, R514. -/
def BASE_RD_BYTES : Nat := 0x218
/-- WR_BYTES, R514. -/
def BASE_WR_BYTES : Nat := 0x220
/-- THROTTLE_CYC, R514. -/
def BASE_THROTTLE_CYC : Nat := 0x228
/-- RFM_CMDS, R514. -/
def BASE_RFM_CMDS : Nat := 0x230
/-- SKEW_WINDOWS, R514. -/
def BASE_SKEW_WINDOWS : Nat := 0x238
/-- PC_ACCESS_p, R514. -/
def BASE_PC_ACCESS : Nat := 0x300
/-- MEM_TEMP, R514. -/
def BASE_MEM_TEMP : Nat := 0x1100
/-- ECC_CFG, R514. -/
def BASE_ECC_CFG : Nat := 0x1108
/-- SKEW_CFG, R514. -/
def BASE_SKEW_CFG : Nat := 0x1110
/-- TX_FLITS, R564. -/
def PORT_TX_FLITS : Nat := 0x100
/-- RX_FLITS, R564. -/
def PORT_RX_FLITS : Nat := 0x108
/-- TX_MSG_BYTES, R564. -/
def PORT_TX_MSG_BYTES : Nat := 0x110
/-- FEC_CORR_SYM, R564. -/
def PORT_FEC_CORR_SYM : Nat := 0x118
/-- FEC_UNCORR_CW, R564. -/
def PORT_FEC_UNCORR_CW : Nat := 0x120
/-- CRC_ERRORS, R564. -/
def PORT_CRC_ERRORS : Nat := 0x128
/-- REPLAYED_FLITS, R564. -/
def PORT_REPLAYED_FLITS : Nat := 0x130
/-- RETRAINS, R564. -/
def PORT_RETRAINS : Nat := 0x138
/-- CREDIT_STALL_CYC_c, R564. -/
def PORT_CREDIT_STALL_CYC : Nat := 0x140
/-- PORT_STATUS, R564. -/
def PORT_PORT_STATUS : Nat := 0x1000
/-- LINK_DELAY, R564. -/
def PORT_LINK_DELAY : Nat := 0x1008
/-- RETRY_CFG, R564. -/
def PORT_RETRY_CFG : Nat := 0x1010
/-- CREDIT_0, R564. -/
def PORT_CREDIT_0 : Nat := 0x8000
/-- CREDIT_1, R564. -/
def PORT_CREDIT_1 : Nat := 0x8008
/-- CREDIT_2, R564. -/
def PORT_CREDIT_2 : Nat := 0x8010
/-- CREDIT_3, R564. -/
def PORT_CREDIT_3 : Nat := 0x8018
/-- CHAIN_RECORDS, R456. -/
def ROUTER_CHAIN_RECORDS : Nat := 0xC00
/-- CHAIN_KEYS, R456. -/
def ROUTER_CHAIN_KEYS : Nat := 0xC08
/-- CHAIN_TX_PKTS, R456. -/
def ROUTER_CHAIN_TX_PKTS : Nat := 0xC10
/-- CHAIN_TX_BYTES, R456. -/
def ROUTER_CHAIN_TX_BYTES : Nat := 0xC18
/-- CHAIN_RX_PKTS, R456. -/
def ROUTER_CHAIN_RX_PKTS : Nat := 0xC20
/-- CHAIN_TO_CATCH, R456. -/
def ROUTER_CHAIN_TO_CATCH : Nat := 0xC28
/-- CHAIN_DENSE_ELEMS, R456. -/
def ROUTER_CHAIN_DENSE_ELEMS : Nat := 0xC30
/-- CHAIN_STALE, R456. -/
def ROUTER_CHAIN_STALE : Nat := 0xC38
/-- CHAIN_MERGE_NS, R456. -/
def ROUTER_CHAIN_MERGE_NS : Nat := 0xC40
/-- CHAIN_WAIT_NS, R456. -/
def ROUTER_CHAIN_WAIT_NS : Nat := 0xC48
/-- CHAIN_AREA_BASE, R456. -/
def ROUTER_CHAIN_AREA_BASE : Nat := 0x4000
/-- CHAIN_AREA_CFG, R456. -/
def ROUTER_CHAIN_AREA_CFG : Nat := 0x4008
/-- CHAIN_CFG, R456. -/
def ROUTER_CHAIN_CFG : Nat := 0x4010
/-- FWD_FLITS, R567. -/
def ROUTER_FWD_FLITS : Nat := 0x100
/-- INJ_MSGS, R567. -/
def ROUTER_INJ_MSGS : Nat := 0x108
/-- EJ_MSGS, R567. -/
def ROUTER_EJ_MSGS : Nat := 0x110
/-- ROUTE_DROPS, R567. -/
def ROUTER_ROUTE_DROPS : Nat := 0x118
/-- BARRIERS, R567. -/
def ROUTER_BARRIERS : Nat := 0x120
/-- BARRIER_NS, R567. -/
def ROUTER_BARRIER_NS : Nat := 0x128
/-- FAB_SIZE, R567. -/
def ROUTER_FAB_SIZE : Nat := 0x1000
/-- FAB_POS, R567. -/
def ROUTER_FAB_POS : Nat := 0x1008
/-- FAB_LOCK, R567. -/
def ROUTER_FAB_LOCK : Nat := 0x1010
/-- TAKEOVER, R567. -/
def ROUTER_TAKEOVER : Nat := 0x1018
/-- ARB_CFG, R567. -/
def ROUTER_ARB_CFG : Nat := 0x1020
/-- BARRIER_CFG, R567. -/
def ROUTER_BARRIER_CFG : Nat := 0x1028
/-- ROOT_CFG, R567. -/
def ROUTER_ROOT_CFG : Nat := 0x1030
/-- FAB_TIME, R567. -/
def ROUTER_FAB_TIME : Nat := 0x1100
/-- TSYNC_CFG, R567. -/
def ROUTER_TSYNC_CFG : Nat := 0x1108
/-- TSYNC_STATUS, R567. -/
def ROUTER_TSYNC_STATUS : Nat := 0x1110
/-- TIME_SET, R567. -/
def ROUTER_TIME_SET : Nat := 0x1118
/-- SLOT_REREADS, R613. -/
def COPY_SLOT_REREADS : Nat := 0x138
/-- FLAG_POLLS, R613. -/
def COPY_FLAG_POLLS : Nat := 0x150
/-- TORN_CFG, R613. -/
def COPY_TORN_CFG : Nat := 0x1100
/-- DESCS_DONE, R615. -/
def COPY_DESCS_DONE : Nat := 0x100
/-- BYTES_READ, R615. -/
def COPY_BYTES_READ : Nat := 0x108
/-- BYTES_WRITTEN, R615. -/
def COPY_BYTES_WRITTEN : Nat := 0x110
/-- BUSY_NS, R615. -/
def COPY_BUSY_NS : Nat := 0x118
/-- TORN_CMDS, R615. -/
def COPY_TORN_CMDS : Nat := 0x140
/-- ROWS_DELIVERED, R320. -/
def GATHER_ROWS_DELIVERED : Nat := 0x100
/-- BYTES_DELIVERED, R320. -/
def GATHER_BYTES_DELIVERED : Nat := 0x108
/-- SEAT_ROWS, R320. -/
def GATHER_SEAT_ROWS : Nat := 0x110
/-- REMOTE_ROWS, R320. -/
def GATHER_REMOTE_ROWS : Nat := 0x118
/-- REMOTE_SERVED, R320. -/
def GATHER_REMOTE_SERVED : Nat := 0x120
/-- REMOTE_WAIT_CYC, R320. -/
def GATHER_REMOTE_WAIT_CYC : Nat := 0x128
/-- REPLACE_ROWS, R320. -/
def GATHER_REPLACE_ROWS : Nat := 0x130
/-- REFRESH_ROWS, R320. -/
def GATHER_REFRESH_ROWS : Nat := 0x138
/-- GATHER_CFG, R320. -/
def GATHER_GATHER_CFG : Nat := 0x1000
/-- FIN_UPDATES, R415. -/
def FIN_FIN_UPDATES : Nat := 0x100
/-- FIN_BUSY_CYC, R415. -/
def FIN_FIN_BUSY_CYC : Nat := 0x108
/-- NOTICE_WAIT_CYC, R415. -/
def FIN_NOTICE_WAIT_CYC : Nat := 0x110
/-- FIN_FMA, R415. -/
def FIN_FIN_FMA : Nat := 0x118
/-- DJ_STALL_CYC, R415. -/
def FIN_DJ_STALL_CYC : Nat := 0x120
/-- DJ_BYTES, R415. -/
def FIN_DJ_BYTES : Nat := 0x128
/-- DJ_USED, R415. -/
def FIN_DJ_USED : Nat := 0x130
/-- LAYERS_RESTORED, R415. -/
def FIN_LAYERS_RESTORED : Nat := 0x138
/-- FIN_OVERFLOW, R415. -/
def FIN_FIN_OVERFLOW : Nat := 0x140
/-- FIN_SATURATION, R415. -/
def FIN_FIN_SATURATION : Nat := 0x148
/-- FIN_NAN, R415. -/
def FIN_FIN_NAN : Nat := 0x150
/-- COMMITTED_STEP, R415. -/
def FIN_COMMITTED_STEP : Nat := 0x1F0
/-- OPEN_STEP, R415. -/
def FIN_OPEN_STEP : Nat := 0x1F8
/-- LDESC_BASE, R415. -/
def FIN_LDESC_BASE : Nat := 0x1000
/-- LR_ORIGIN, R415. -/
def FIN_LR_ORIGIN : Nat := 0x1008
/-- DJ_BASE, R415. -/
def FIN_DJ_BASE : Nat := 0x1010
/-- DJ_CFG, R415. -/
def FIN_DJ_CFG : Nat := 0x1018
/-- FIN_CTL, R415. -/
def FIN_FIN_CTL : Nat := 0x1020
/-- HOST_RESETS, R617. -/
def HOSTIF_HOST_RESETS : Nat := 0x100
/-- D2D_RETRAINS, R617. -/
def HOSTIF_D2D_RETRAINS : Nat := 0x108
/-- DIR_RECALLS, R617. -/
def HOSTIF_DIR_RECALLS : Nat := 0x110
/-- DMA_REFUSED_CNT, R617. -/
def HOSTIF_DMA_REFUSED_CNT : Nat := 0x118
/-- PCIE_IN_BYTES_p, R617. -/
def HOSTIF_PCIE_IN_BYTES : Nat := 0x120
/-- PCIE_OUT_BYTES_p, R617. -/
def HOSTIF_PCIE_OUT_BYTES : Nat := 0x128
/-- HOST_CTL, R617. -/
def HOSTIF_HOST_CTL : Nat := 0x1000
/-- INT_BASE, R617. -/
def HOSTIF_INT_BASE : Nat := 0x1008
/-- PCIE_CFG_p, R617. -/
def HOSTIF_PCIE_CFG : Nat := 0x1100

end R

/-! Bits of ERR_STICKY: the shared ones (R51) and the BLOCK_ERR bits of each page. -/
namespace E

/-- CTL_ACCESS, R51. -/
def CTL_ACCESS : Nat := 31
/-- TBL_LOAD, R51. -/
def TBL_LOAD : Nat := 30
/-- DRAIN_TIMEOUT, R51. -/
def DRAIN_TIMEOUT : Nat := 29
/-- WORK_REFUSED, R51. -/
def WORK_REFUSED : Nat := 28
/-- TORN_CMD, R124. -/
def COX_TORN_CMD : Nat := 9
/-- TRAIN_TIMEOUT, R124. -/
def COX_TRAIN_TIMEOUT : Nat := 8
/-- TSRAM_UE, R124. -/
def COX_TSRAM_UE : Nat := 7
/-- TSRAM_CE, R124. -/
def COX_TSRAM_CE : Nat := 6
/-- TSRAM_PROT, R124. -/
def COX_TSRAM_PROT : Nat := 5
/-- CORE_LOST, R124. -/
def COX_CORE_LOST : Nat := 4
/-- STAGE_FAULT, R124. -/
def COX_STAGE_FAULT : Nat := 3
/-- RING_CONFLICT, R124. -/
def COX_RING_CONFLICT : Nat := 2
/-- DESC_CRC, R124. -/
def COX_DESC_CRC : Nat := 1
/-- DESC_BAD, R124. -/
def COX_DESC_BAD : Nat := 0
/-- SCRATCH_UE, R127. -/
def CORE_SCRATCH_UE : Nat := 4
/-- SCRATCH_CE, R127. -/
def CORE_SCRATCH_CE : Nat := 3
/-- ILLEGAL_OP, R127. -/
def CORE_ILLEGAL_OP : Nat := 2
/-- SCRATCH_RANGE, R127. -/
def CORE_SCRATCH_RANGE : Nat := 1
/-- MTILE_BAD, R127. -/
def CORE_MTILE_BAD : Nat := 0
/-- FLIP_BAD, R316. -/
def HRD_FLIP_BAD : Nat := 7
/-- SLIDE_CMD_OVF, R316. -/
def HRD_SLIDE_CMD_OVF : Nat := 6
/-- REFRESH_FAIL, R316. -/
def HRD_REFRESH_FAIL : Nat := 5
/-- FLIP_LATE, R316. -/
def HRD_FLIP_LATE : Nat := 4
/-- FLIP_FULL, R316. -/
def HRD_FLIP_FULL : Nat := 3
/-- DESC_BAD, R316. -/
def HRD_DESC_BAD : Nat := 2
/-- SEAT_CFG_BAD, R316. -/
def HRD_SEAT_CFG_BAD : Nat := 1
/-- STATS_WRITE, R316. -/
def HRD_STATS_WRITE : Nat := 0
/-- ROW_UE, R319. -/
def GATHER_ROW_UE : Nat := 10
/-- REPLACE_REFUSED, R319. -/
def GATHER_REPLACE_REFUSED : Nat := 9
/-- REMOTE_TIMEOUT, R319. -/
def GATHER_REMOTE_TIMEOUT : Nat := 8
/-- REMOTE_ERR, R319. -/
def GATHER_REMOTE_ERR : Nat := 7
/-- ROW_POISON, R319. -/
def GATHER_ROW_POISON : Nat := 6
/-- ROW_TORN, R319. -/
def GATHER_ROW_TORN : Nat := 5
/-- ROW_CHECK, R319. -/
def GATHER_ROW_CHECK : Nat := 4
/-- ID_RANGE, R319. -/
def GATHER_ID_RANGE : Nat := 3
/-- TABLE_INVALID, R319. -/
def GATHER_TABLE_INVALID : Nat := 2
/-- RING_FULL_FORM, R319. -/
def GATHER_RING_FULL_FORM : Nat := 1
/-- CMD_BAD, R319. -/
def GATHER_CMD_BAD : Nat := 0
/-- STEP_LATE, R374. -/
def BASE_STEP_LATE : Nat := 11
/-- ATOMIC_BAD, R374. -/
def BASE_ATOMIC_BAD : Nat := 10
/-- JOURNAL_REC_BAD, R374. -/
def BASE_JOURNAL_REC_BAD : Nat := 9
/-- JOURNAL_OVF, R374. -/
def BASE_JOURNAL_OVF : Nat := 8
/-- JOURNAL_STALL, R374. -/
def BASE_JOURNAL_STALL : Nat := 7
/-- RESTORE_FAIL, R374. -/
def BASE_RESTORE_FAIL : Nat := 6
/-- CATCH_TEAR, R374. -/
def BASE_CATCH_TEAR : Nat := 5
/-- ROW_POISON, R374. -/
def BASE_ROW_POISON : Nat := 4
/-- ROW_CHECK, R374. -/
def BASE_ROW_CHECK : Nat := 3
/-- ROW_TORN, R374. -/
def BASE_ROW_TORN : Nat := 2
/-- DUP_UPDATE, R374. -/
def BASE_DUP_UPDATE : Nat := 1
/-- RULE_BAD, R374. -/
def BASE_RULE_BAD : Nat := 0
/-- PROG_FAULT, R414. -/
def FIN_PROG_FAULT : Nat := 8
/-- RESTORE_FAIL, R414. -/
def FIN_RESTORE_FAIL : Nat := 7
/-- DJ_REC_BAD, R414. -/
def FIN_DJ_REC_BAD : Nat := 6
/-- DJ_OVF, R414. -/
def FIN_DJ_OVF : Nat := 5
/-- DJ_STALL, R414. -/
def FIN_DJ_STALL : Nat := 4
/-- STEP_LATE, R414. -/
def FIN_STEP_LATE : Nat := 3
/-- DUP_UPDATE, R414. -/
def FIN_DUP_UPDATE : Nat := 2
/-- NOTICE_BAD, R414. -/
def FIN_NOTICE_BAD : Nat := 1
/-- LAYER_BAD, R414. -/
def FIN_LAYER_BAD : Nat := 0
/-- CHAIN_CSUM, R455. -/
def ROUTER_CHAIN_CSUM : Nat := 27
/-- CHAIN_SEQ, R455. -/
def ROUTER_CHAIN_SEQ : Nat := 26
/-- CHAIN_TIMEOUT, R455. -/
def ROUTER_CHAIN_TIMEOUT : Nat := 25
/-- CHAIN_BAD, R455. -/
def ROUTER_CHAIN_BAD : Nat := 24
/-- CHAIN_DUP, R455. -/
def ROUTER_CHAIN_DUP : Nat := 23
/-- CHAIN_AREA_OVF, R455. -/
def ROUTER_CHAIN_AREA_OVF : Nat := 22
/-- CHAIN_STEP, R455. -/
def ROUTER_CHAIN_STEP : Nat := 21
/-- CHAIN_STREAMS, R455. -/
def ROUTER_CHAIN_STREAMS : Nat := 20
/-- NBR_LOST, R511. -/
def MOD_NBR_LOST : Nat := 11
/-- LEND_REFUSED, R511. -/
def MOD_LEND_REFUSED : Nat := 10
/-- LOAN_BAD, R511. -/
def MOD_LOAN_BAD : Nat := 9
/-- GEO_BAD, R511. -/
def MOD_GEO_BAD : Nat := 8
/-- TEMP_READ, R513. -/
def BASE_TEMP_READ : Nat := 18
/-- HASH_SKEW, R513. -/
def BASE_HASH_SKEW : Nat := 17
/-- TEMP_TRIP, R513. -/
def BASE_TEMP_TRIP : Nat := 16
/-- TEMP_THROTTLE, R513. -/
def BASE_TEMP_THROTTLE : Nat := 15
/-- CE_THRESH, R513. -/
def BASE_CE_THRESH : Nat := 14
/-- ECC_UE, R513. -/
def BASE_ECC_UE : Nat := 13
/-- ECC_CE, R513. -/
def BASE_ECC_CE : Nat := 12
/-- RETRY_THRESH, R563. -/
def PORT_RETRY_THRESH : Nat := 9
/-- MISCABLE, R563. -/
def PORT_MISCABLE : Nat := 8
/-- TRAIN_FAIL, R563. -/
def PORT_TRAIN_FAIL : Nat := 7
/-- ACK_TIMEOUT, R563. -/
def PORT_ACK_TIMEOUT : Nat := 6
/-- RETRAIN, R563. -/
def PORT_RETRAIN : Nat := 5
/-- FEC_UNCORR, R563. -/
def PORT_FEC_UNCORR : Nat := 4
/-- CRC_ERR, R563. -/
def PORT_CRC_ERR : Nat := 3
/-- CREDIT_ERR, R563. -/
def PORT_CREDIT_ERR : Nat := 2
/-- LINK_DOWN, R563. -/
def PORT_LINK_DOWN : Nat := 1
/-- LINK_FAULT, R563. -/
def PORT_LINK_FAULT : Nat := 0
/-- FAB_CFG_BAD, R566. -/
def ROUTER_FAB_CFG_BAD : Nat := 7
/-- TAKEOVER_BAD, R566. -/
def ROUTER_TAKEOVER_BAD : Nat := 6
/-- TSYNC_LOST, R566. -/
def ROUTER_TSYNC_LOST : Nat := 5
/-- ROUTE_MISS, R566. -/
def ROUTER_ROUTE_MISS : Nat := 4
/-- TTL_EXPIRED, R566. -/
def ROUTER_TTL_EXPIRED : Nat := 3
/-- HDR_BAD, R566. -/
def ROUTER_HDR_BAD : Nat := 2
/-- BARRIER_TIMEOUT, R566. -/
def ROUTER_BARRIER_TIMEOUT : Nat := 0
/-- COPY_UE, R614. -/
def COPY_COPY_UE : Nat := 3
/-- COPY_ADDR, R614. -/
def COPY_COPY_ADDR : Nat := 2
/-- COPY_TORN, R614. -/
def COPY_COPY_TORN : Nat := 1
/-- COPY_SLOT_BAD, R614. -/
def COPY_COPY_SLOT_BAD : Nat := 0
/-- RING_UE, R616. -/
def HOSTIF_RING_UE : Nat := 9
/-- WAIT_TIMEOUT, R616. -/
def HOSTIF_WAIT_TIMEOUT : Nat := 8
/-- D2D_FAIL, R616. -/
def HOSTIF_D2D_FAIL : Nat := 7
/-- D2D_RETRAIN, R616. -/
def HOSTIF_D2D_RETRAIN : Nat := 6
/-- PCIE_CTO, R616. -/
def HOSTIF_PCIE_CTO : Nat := 5
/-- PCIE_UNCORR, R616. -/
def HOSTIF_PCIE_UNCORR : Nat := 4
/-- PCIE_LINK_DOWN, R616. -/
def HOSTIF_PCIE_LINK_DOWN : Nat := 3
/-- DMA_REFUSED, R616. -/
def HOSTIF_DMA_REFUSED : Nat := 2
/-- DB_BAD, R616. -/
def HOSTIF_DB_BAD : Nat := 1
/-- SLOT_BAD, R616. -/
def HOSTIF_SLOT_BAD : Nat := 0
/-- GOAL_MISS, R664. -/
def REL_GOAL_MISS : Nat := 11
/-- HEAT_LATE, R664. -/
def REL_HEAT_LATE : Nat := 10
/-- STOPPED, R664. -/
def REL_STOPPED : Nat := 9
/-- UNRESOLVED, R664. -/
def REL_UNRESOLVED : Nat := 8
/-- FAIL_LIMIT, R664. -/
def REL_FAIL_LIMIT : Nat := 7
/-- CREW_SPLIT, R664. -/
def REL_CREW_SPLIT : Nat := 6
/-- CREW_ODD, R664. -/
def REL_CREW_ODD : Nat := 5
/-- ODD_TILE, R664. -/
def REL_ODD_TILE : Nat := 4
/-- HEAT_FAIL, R664. -/
def REL_HEAT_FAIL : Nat := 3
/-- UNATTRIB, R664. -/
def REL_UNATTRIB : Nat := 2
/-- ANOMALY, R664. -/
def REL_ANOMALY : Nat := 1
/-- ROLLBACK, R664. -/
def REL_ROLLBACK : Nat := 0
/-- STOP_TAKEN, R707. -/
def FLT_STOP_TAKEN : Nat := 5
/-- HOLD_TAKEN, R707. -/
def FLT_HOLD_TAKEN : Nat := 4
/-- WAKE_OVERWRITE, R707. -/
def FLT_WAKE_OVERWRITE : Nat := 3
/-- WAKE_DROP, R707. -/
def FLT_WAKE_DROP : Nat := 2
/-- WIRE_FAULT, R707. -/
def FLT_WIRE_FAULT : Nat := 1
/-- COLL_LINK, R707. -/
def FLT_COLL_LINK : Nat := 0
/-- THERM_TRIP, R753. -/
def PWR_THERM_TRIP : Nat := 6
/-- THERM_LIMIT, R753. -/
def PWR_THERM_LIMIT : Nat := 5
/-- SENSOR_FAIL, R753. -/
def PWR_SENSOR_FAIL : Nat := 4
/-- CAP_MISS, R753. -/
def PWR_CAP_MISS : Nat := 3
/-- UNDERVOLT, R753. -/
def PWR_UNDERVOLT : Nat := 2
/-- OVERVOLT, R753. -/
def PWR_OVERVOLT : Nat := 1
/-- RAIL_FAULT, R753. -/
def PWR_RAIL_FAULT : Nat := 0
/-- REF_LOST, R755. -/
def CLK_REF_LOST : Nat := 2
/-- PLL_UNLOCK, R755. -/
def CLK_PLL_UNLOCK : Nat := 1
/-- REF_DRIFT, R755. -/
def CLK_REF_DRIFT : Nat := 0
/-- START_FAIL, R757. -/
def MOD_START_FAIL : Nat := 7
/-- ATT_BAD, R757. -/
def MOD_ATT_BAD : Nat := 6
/-- SVN_BAD, R757. -/
def MOD_SVN_BAD : Nat := 5

end E

/-- The registers of every page (R51). -/
def rowsAll : List RegRow :=
  [⟨0x0, 1, 0, 4, 0x0, 0x0, 0x0, 0x0, 0x0⟩,
  ⟨0x4, 1, 0, 4, 0x1001000, 0x0, 0x0, 0x0, 0x0⟩,
  ⟨0x10, 1, 0, 4, 0x4, 0x207, 0x0, 0x100, 0x0⟩,
  ⟨0x14, 1, 0, 4, 0x0, 0x0, 0x0, 0x0, 0x10⟩,
  ⟨0x18, 1, 0, 4, 0x3E8, 0xFFFFFFFF, 0x0, 0x0, 0x0⟩,
  ⟨0x20, 1, 0, 4, 0x0, 0x0, 0xFFFFFFFF, 0x0, 0xFFFFFFFF⟩,
  ⟨0x24, 1, 0, 4, 0x0, 0xFFFFFFFF, 0x0, 0x0, 0x0⟩,
  ⟨0x28, 1, 0, 4, 0x0, 0x801FFFFF, 0x0, 0x0, 0x0⟩,
  ⟨0x30, 1, 0, 8, 0x0, 0x0, 0x1, 0x0, 0xFFFFFFFFFFFFFFFF⟩]

/-- The registers of a MOD page. -/
def rowsMod : List RegRow :=
  [⟨0x100, 1, 0, 8, 0x0, 0x0, 0x0, 0x0, 0xFFFFFFFFFFFFFFFF⟩,
  ⟨0x140, 1, 0, 8, 0x0, 0x0, 0x0, 0x0, 0xFFFFFFFFFFFFFFFF⟩,
  ⟨0x148, 1, 0, 8, 0x0, 0x0, 0x0, 0x0, 0xFFFFFFFFFFFFFFFF⟩,
  ⟨0x150, 1, 0, 8, 0x0, 0x0, 0x0, 0x0, 0xFFFFFFFFFFFFFFFF⟩,
  ⟨0x180, 1, 0, 8, 0x0, 0x0, 0x0, 0x0, 0xFFFFFFFFFFFFFFFF⟩,
  ⟨0x188, 1, 0, 8, 0x0, 0x0, 0x0, 0x0, 0xFFFFFFFFFFFFFFFF⟩,
  ⟨0x190, 1, 0, 8, 0x0, 0x0, 0x0, 0x0, 0xFFFFFFFFFFFFFFFF⟩,
  ⟨0x198, 1, 0, 8, 0x0, 0x0, 0x0, 0x0, 0xFFFFFFFFFFFFFFFF⟩,
  ⟨0x1A0, 1, 0, 8, 0x0, 0x0, 0x0, 0x0, 0xFFFFFFFFFFFFFFFF⟩,
  ⟨0x1000, 1, 0, 4, 0x0, 0x0, 0x0, 0x0, 0x0⟩,
  ⟨0x1008, 1, 0, 4, 0x0, 0x7, 0x0, 0x0, 0x0⟩,
  ⟨0x1010, 1, 0, 8, 0x0, 0x1FC00000000, 0x0, 0x0, 0x0⟩,
  ⟨0x1100, 1, 0, 8, 0x0, 0xFFFFFFFFFFFFFFFF, 0x0, 0x0, 0xFFFFFFFFFFFFFFFF⟩,
  ⟨0x1108, 1, 0, 4, 0x1, 0x1, 0x0, 0x0, 0x1⟩,
  ⟨0x1200, 1, 0, 8, 0x0, 0xFFFFFFFFFFFFFFFF, 0x0, 0x0, 0xFFFFFFFFFFFFFFFF⟩,
  ⟨0x1208, 1, 0, 4, 0x4, 0x1F, 0x0, 0x0, 0x1F⟩,
  ⟨0x1210, 1, 0, 4, 0x0, 0x100FF, 0x0, 0x0, 0x100FF⟩,
  ⟨0x1218, 1, 0, 4, 0x0, 0x0, 0x0, 0x1, 0x0⟩,
  ⟨0x1220, 1, 0, 8, 0x0, 0x0, 0x0, 0x0, 0x0⟩,
  ⟨0x1228, 1, 0, 4, 0x2, 0x3, 0x0, 0x0, 0x3⟩] ++
  [⟨0x1230, 1, 0, 8, 0x0, 0xFFFFFFFFFFFFFFFF, 0x0, 0x0, 0xFFFFFFFFFFFFFFFF⟩,
  ⟨0x1238, 1, 0, 4, 0x64, 0xFFFF, 0x0, 0x0, 0x0⟩,
  ⟨0x1300, 16, 8, 4, 0x0, 0xE70007FF, 0x0, 0x0, 0xE70007FF⟩,
  ⟨0x1400, 4, 16, 8, 0x0, 0x1FFFC000000, 0x0, 0x0, 0x0⟩,
  ⟨0x1408, 4, 16, 4, 0x0, 0xF7FFFFFF, 0x0, 0x0, 0x0⟩,
  ⟨0x1480, 1, 0, 8, 0x0, 0x1FFFC000000, 0x0, 0x0, 0x0⟩,
  ⟨0x1488, 1, 0, 4, 0x0, 0x3FFFFF, 0x0, 0x0, 0x0⟩,
  ⟨0x1500, 1, 0, 4, 0x0, 0x0, 0x0, 0x0, 0x7⟩,
  ⟨0x1508, 1, 0, 4, 0x0, 0x0, 0x0, 0x3, 0x0⟩,
  ⟨0x1510, 1, 0, 8, 0x0, 0x0, 0x0, 0x0, 0x0⟩,
  ⟨0x1518, 1, 0, 8, 0x0, 0x0, 0x0, 0x0, 0x0⟩,
  ⟨0x1520, 1, 0, 8, 0x0, 0x0, 0x0, 0x0, 0x0⟩,
  ⟨0x1528, 1, 0, 4, 0x0, 0x0, 0x0, 0x1, 0x0⟩,
  ⟨0x1530, 1, 0, 8, 0x0, 0xFFFFFFFFFFFFFFC0, 0x0, 0x0, 0x0⟩,
  ⟨0x1538, 1, 0, 4, 0x0, 0x0, 0x0, 0x1, 0x0⟩,
  ⟨0x1540, 4, 8, 8, 0x0, 0xFFFFFFFFFFFFFFFF, 0x0, 0x0, 0x0⟩,
  ⟨0x1600, 12, 8, 8, 0x0, 0x0, 0x0, 0x0, 0x0⟩]

/-- The registers of a PWR page. -/
def rowsPwr : List RegRow :=
  [⟨0x100, 1, 0, 8, 0x0, 0x0, 0x0, 0x0, 0xFFFFFFFFFFFFFFFF⟩,
  ⟨0x108, 1, 0, 8, 0x0, 0x0, 0x0, 0x0, 0xFFFFFFFFFFFFFFFF⟩,
  ⟨0x110, 1, 0, 8, 0x0, 0x0, 0x0, 0x0, 0xFFFFFFFFFFFFFFFF⟩,
  ⟨0x118, 1, 0, 8, 0x0, 0x0, 0x0, 0x0, 0xFFFFFFFFFFFFFFFF⟩,
  ⟨0x1000, 1, 0, 4, 0xAF00400, 0xFFF0F07, 0x0, 0x0, 0xFFF0000⟩,
  ⟨0x1008, 1, 0, 8, 0xAF000010, 0x0, 0x0, 0x0, 0x0⟩,
  ⟨0x1010, 1, 0, 4, 0x22222222, 0x0, 0x0, 0x0, 0x0⟩,
  ⟨0x1018, 1, 0, 8, 0x0, 0x0, 0x0, 0x0, 0x0⟩,
  ⟨0x1020, 1, 0, 4, 0x0, 0x0, 0x0, 0x0, 0x0⟩,
  ⟨0x1028, 1, 0, 8, 0x8421084210, 0x0, 0x0, 0x0, 0x0⟩]

/-- The registers of a CLK page. -/
def rowsClk : List RegRow :=
  [⟨0x100, 1, 0, 8, 0x0, 0x0, 0x0, 0x0, 0xFFFFFFFFFFFFFFFF⟩,
  ⟨0x1000, 1, 0, 8, 0x0, 0x0, 0x0, 0x0, 0x0⟩,
  ⟨0x1008, 1, 0, 4, 0x0, 0x0, 0x0, 0x0, 0x0⟩]

/-- The registers of a FLT page. -/
def rowsFlt : List RegRow :=
  [⟨0x100, 1, 0, 8, 0x0, 0x0, 0x0, 0x0, 0xFFFFFFFFFFFFFFFF⟩,
  ⟨0x108, 1, 0, 8, 0x0, 0x0, 0x0, 0x0, 0xFFFFFFFFFFFFFFFF⟩,
  ⟨0x110, 1, 0, 8, 0x0, 0x0, 0x0, 0x0, 0xFFFFFFFFFFFFFFFF⟩,
  ⟨0x118, 1, 0, 8, 0x0, 0x0, 0x0, 0x0, 0xFFFFFFFFFFFFFFFF⟩,
  ⟨0x120, 1, 0, 8, 0x0, 0x0, 0x0, 0x0, 0xFFFFFFFFFFFFFFFF⟩,
  ⟨0x128, 1, 0, 8, 0x0, 0x0, 0x0, 0x0, 0xFFFFFFFFFFFFFFFF⟩,
  ⟨0x130, 1, 0, 8, 0x0, 0x0, 0x0, 0x0, 0xFFFFFFFFFFFFFFFF⟩,
  ⟨0x138, 1, 0, 8, 0x0, 0x0, 0x0, 0x0, 0xFFFFFFFFFFFFFFFF⟩,
  ⟨0x140, 8, 8, 8, 0x0, 0x0, 0x0, 0x0, 0xFFFFFFFFFFFFFFFF⟩,
  ⟨0x1000, 1, 0, 4, 0x7, 0x7, 0x0, 0x0, 0x0⟩,
  ⟨0x1008, 1, 0, 4, 0x0, 0x0, 0x0, 0x0, 0xFFFFFFFFFFFFFFFF⟩,
  ⟨0x1010, 1, 0, 4, 0x0, 0xFFFFFFFF, 0x0, 0x0, 0xFFFFFFFFFFFFFFFF⟩,
  ⟨0x1018, 1, 0, 4, 0x0, 0x0, 0x0, 0x0, 0x1⟩,
  ⟨0x101C, 1, 0, 4, 0x0, 0x0, 0x0, 0x1, 0x0⟩,
  ⟨0x1020, 1, 0, 4, 0x0, 0x0, 0x1, 0x0, 0x0⟩,
  ⟨0x1028, 1, 0, 4, 0x0, 0x0, 0x0, 0x0, 0x0⟩,
  ⟨0x1030, 1, 0, 4, 0x3E80000, 0xFFFF0001, 0x0, 0x2, 0x0⟩,
  ⟨0x1038, 1, 0, 4, 0x0, 0x70FFF, 0x0, 0x80000000, 0x0⟩,
  ⟨0x1040, 1, 0, 8, 0x0, 0x0, 0x0, 0x0, 0xFFFFFFFFFFFFFFFF⟩,
  ⟨0x1048, 1, 0, 8, 0x0, 0x0, 0x0, 0x0, 0xFFFFFFFFFFFFFFFF⟩] ++
  [⟨0x1050, 1, 0, 8, 0x0, 0x0, 0x0, 0x0, 0xFFFFFFFFFFFFFFFF⟩,
  ⟨0x1100, 4, 8, 8, 0x0, 0x0, 0x0, 0x0, 0xFFFFFFFFFFFFFFFF⟩,
  ⟨0x1200, 1, 0, 4, 0x4, 0x7, 0x0, 0x0, 0x0⟩,
  ⟨0x2000, 256, 8, 8, 0x0, 0x0, 0x0, 0x0, 0xFFFFFFFFFFFFFFFF⟩,
  ⟨0x8040, 1, 0, 8, 0x0, 0x80000000FFFFFFFF, 0x0, 0x0, 0x0⟩]

/-- The registers of a REL page. -/
def rowsRel : List RegRow :=
  [⟨0x100, 1, 0, 8, 0x0, 0x0, 0x0, 0x0, 0xFFFFFFFFFFFFFFFF⟩,
  ⟨0x108, 1, 0, 8, 0x0, 0x0, 0x0, 0x0, 0xFFFFFFFFFFFFFFFF⟩,
  ⟨0x110, 1, 0, 8, 0x0, 0x0, 0x0, 0x0, 0xFFFFFFFFFFFFFFFF⟩,
  ⟨0x118, 1, 0, 8, 0x0, 0x0, 0x0, 0x0, 0xFFFFFFFFFFFFFFFF⟩,
  ⟨0x120, 1, 0, 8, 0x0, 0x0, 0x0, 0x0, 0xFFFFFFFFFFFFFFFF⟩,
  ⟨0x128, 1, 0, 8, 0x0, 0x0, 0x0, 0x0, 0xFFFFFFFFFFFFFFFF⟩,
  ⟨0x130, 1, 0, 8, 0x0, 0x0, 0x0, 0x0, 0xFFFFFFFFFFFFFFFF⟩,
  ⟨0x138, 1, 0, 8, 0x0, 0x0, 0x0, 0x0, 0xFFFFFFFFFFFFFFFF⟩,
  ⟨0x140, 1, 0, 8, 0x0, 0x0, 0x0, 0x0, 0xFFFFFFFFFFFFFFFF⟩,
  ⟨0x148, 1, 0, 8, 0x0, 0x0, 0x0, 0x0, 0xFFFFFFFFFFFFFFFF⟩,
  ⟨0x150, 1, 0, 8, 0x0, 0x0, 0x0, 0x0, 0xFFFFFFFFFFFFFFFF⟩,
  ⟨0x158, 1, 0, 8, 0x0, 0x0, 0x0, 0x0, 0xFFFFFFFFFFFFFFFF⟩,
  ⟨0x160, 1, 0, 8, 0x0, 0x0, 0x0, 0x0, 0xFFFFFFFFFFFFFFFF⟩,
  ⟨0x168, 1, 0, 8, 0x0, 0x0, 0x0, 0x0, 0xFFFFFFFFFFFFFFFF⟩,
  ⟨0x1F0, 1, 0, 8, 0x0, 0x0, 0x0, 0x0, 0xFFFFFFFFFFFFFFFF⟩,
  ⟨0x1F8, 1, 0, 8, 0x0, 0x0, 0x0, 0x0, 0xFFFFFFFFFFFFFFFF⟩,
  ⟨0x1010, 1, 0, 4, 0x200001, 0xF00003, 0x0, 0x0, 0x3⟩,
  ⟨0x1018, 1, 0, 4, 0x4, 0x0, 0x0, 0x0, 0x0⟩,
  ⟨0x1020, 1, 0, 4, 0x0, 0x0, 0x0, 0x7, 0x0⟩,
  ⟨0x1028, 1, 0, 8, 0x0, 0xFFFFFFFFFFFFFFFF, 0x0, 0x0, 0x0⟩] ++
  [⟨0x1030, 1, 0, 4, 0x0, 0xFFFFFFFF, 0x0, 0x0, 0x0⟩,
  ⟨0x1038, 1, 0, 8, 0x0, 0xFFFFFFFFFFFFFFFF, 0x0, 0x0, 0xFFFFFFFFFFFFFFFF⟩,
  ⟨0x1040, 1, 0, 8, 0x0, 0xFFFFFFFFFFFF, 0x0, 0x0, 0x0⟩,
  ⟨0x1048, 1, 0, 4, 0x1003F, 0x103FF, 0x0, 0x0, 0x0⟩,
  ⟨0x1050, 1, 0, 8, 0x98968007D00007, 0xFFFFFFFFFFFF0007, 0x0, 0x0, 0x0⟩,
  ⟨0x1058, 1, 0, 4, 0x3F0000, 0xC3FFFFFF, 0x0, 0x0, 0x0⟩,
  ⟨0x1060, 1, 0, 8, 0x28000500000000, 0x0, 0x0, 0x0, 0x0⟩,
  ⟨0x1068, 1, 0, 4, 0x5A0, 0x7FF, 0x0, 0x0, 0x0⟩,
  ⟨0x1070, 1, 0, 4, 0x76543210, 0x0, 0x0, 0x0, 0x0⟩,
  ⟨0x1078, 1, 0, 4, 0x0, 0x0, 0x0, 0x0, 0x0⟩,
  ⟨0x1080, 1, 0, 8, 0x0, 0x0, 0x0, 0x0, 0x0⟩,
  ⟨0x1088, 1, 0, 8, 0x0, 0x0, 0x0, 0x0, 0x0⟩,
  ⟨0x1090, 1, 0, 8, 0x0, 0x0, 0x0, 0x0, 0x0⟩,
  ⟨0x1098, 1, 0, 8, 0x0, 0x0, 0x0, 0x0, 0x0⟩,
  ⟨0x10A0, 1, 0, 8, 0x0, 0x0, 0x0, 0x0, 0x0⟩,
  ⟨0x1200, 27, 8, 8, 0x0, 0x0, 0x0, 0x0, 0x0⟩]

/-- The registers of a HRD page. -/
def rowsHrd : List RegRow :=
  [⟨0x100, 1, 0, 8, 0x0, 0x0, 0x0, 0x0, 0xFFFFFFFFFFFFFFFF⟩,
  ⟨0x108, 1, 0, 8, 0x0, 0x0, 0x0, 0x0, 0xFFFFFFFFFFFFFFFF⟩,
  ⟨0x110, 1, 0, 8, 0x0, 0x0, 0x0, 0x0, 0xFFFFFFFFFFFFFFFF⟩,
  ⟨0x118, 1, 0, 8, 0x0, 0x0, 0x0, 0x0, 0xFFFFFFFFFFFFFFFF⟩,
  ⟨0x120, 1, 0, 8, 0x0, 0x0, 0x0, 0x0, 0xFFFFFFFFFFFFFFFF⟩,
  ⟨0x128, 1, 0, 8, 0x0, 0x0, 0x0, 0x0, 0xFFFFFFFFFFFFFFFF⟩,
  ⟨0x130, 1, 0, 8, 0x0, 0x0, 0x0, 0x0, 0xFFFFFFFFFFFFFFFF⟩,
  ⟨0x138, 1, 0, 8, 0x0, 0x0, 0x0, 0x0, 0xFFFFFFFFFFFFFFFF⟩,
  ⟨0x140, 1, 0, 8, 0x0, 0x0, 0x0, 0x0, 0xFFFFFFFFFFFFFFFF⟩,
  ⟨0x148, 1, 0, 8, 0x0, 0x0, 0x0, 0x0, 0xFFFFFFFFFFFFFFFF⟩,
  ⟨0x150, 1, 0, 8, 0x0, 0x0, 0x0, 0x0, 0xFFFFFFFFFFFFFFFF⟩,
  ⟨0x158, 1, 0, 8, 0x0, 0x0, 0x0, 0x0, 0xFFFFFFFFFFFFFFFF⟩,
  ⟨0x160, 1, 0, 8, 0x0, 0x0, 0x0, 0x0, 0xFFFFFFFFFFFFFFFF⟩,
  ⟨0x200, 16, 8, 8, 0x0, 0x0, 0x0, 0x0, 0xFFFFFFFFFFFFFFFF⟩,
  ⟨0x1000, 1, 0, 8, 0x0, 0xFFFFFFFFFFFFF000, 0x0, 0x0, 0x0⟩,
  ⟨0x1008, 1, 0, 8, 0x0, 0xFFFFFFFFFFFFFFC0, 0x0, 0x0, 0x0⟩,
  ⟨0x1010, 1, 0, 8, 0x40001081401000, 0xFFFFFFFF8FF0FFFF, 0x0, 0x0, 0x0⟩,
  ⟨0x1100, 8, 16, 4, 0x0, 0xFFFFFFC0, 0x0, 0x0, 0x0⟩,
  ⟨0x1108, 8, 16, 8, 0x500000000, 0x3FF003FFFFF, 0x0, 0x0, 0x0⟩,
  ⟨0x8000, 1, 0, 4, 0x0, 0xFFF, 0x0, 0x0, 0x0⟩] ++
  [⟨0x8008, 1, 0, 8, 0x0, 0xFFFFFFFFFFFFFFFF, 0x0, 0x0, 0x0⟩,
  ⟨0x8010, 1, 0, 4, 0x0, 0x0, 0x0, 0x1, 0x0⟩,
  ⟨0x8020, 1, 0, 8, 0x0, 0xFFFFFFFFFFFFF, 0x0, 0x0, 0x0⟩,
  ⟨0x8028, 1, 0, 4, 0x0, 0x0, 0x0, 0xFF03, 0x0⟩,
  ⟨0x8100, 64, 8, 8, 0x0, 0x0, 0x0, 0x0, 0x0⟩]

/-- The registers of a COX page. -/
def rowsCox : List RegRow :=
  [⟨0x100, 1, 0, 8, 0x0, 0x0, 0x0, 0x0, 0xFFFFFFFFFFFFFFFF⟩,
  ⟨0x108, 1, 0, 8, 0x0, 0x0, 0x0, 0x0, 0xFFFFFFFFFFFFFFFF⟩,
  ⟨0x110, 1, 0, 8, 0x0, 0x0, 0x0, 0x0, 0xFFFFFFFFFFFFFFFF⟩,
  ⟨0x118, 1, 0, 8, 0x0, 0x0, 0x0, 0x0, 0xFFFFFFFFFFFFFFFF⟩,
  ⟨0x120, 1, 0, 8, 0x0, 0x0, 0x0, 0x0, 0xFFFFFFFFFFFFFFFF⟩,
  ⟨0x128, 1, 0, 8, 0x0, 0x0, 0x0, 0x0, 0xFFFFFFFFFFFFFFFF⟩,
  ⟨0x130, 1, 0, 8, 0x0, 0x0, 0x0, 0x0, 0xFFFFFFFFFFFFFFFF⟩,
  ⟨0x138, 1, 0, 8, 0x0, 0x0, 0x0, 0x0, 0xFFFFFFFFFFFFFFFF⟩,
  ⟨0x140, 1, 0, 8, 0x0, 0x0, 0x0, 0x0, 0xFFFFFFFFFFFFFFFF⟩,
  ⟨0x148, 1, 0, 8, 0x0, 0x0, 0x0, 0x0, 0xFFFFFFFFFFFFFFFF⟩,
  ⟨0x150, 1, 0, 8, 0x0, 0x0, 0x0, 0x0, 0xFFFFFFFFFFFFFFFF⟩,
  ⟨0x158, 1, 0, 8, 0x0, 0x0, 0x0, 0x0, 0xFFFFFFFFFFFFFFFF⟩,
  ⟨0x180, 1, 0, 8, 0x0, 0x0, 0x0, 0x0, 0xFFFFFFFFFFFFFFFF⟩,
  ⟨0x188, 1, 0, 8, 0x0, 0x0, 0x0, 0x0, 0xFFFFFFFFFFFFFFFF⟩,
  ⟨0x190, 1, 0, 8, 0x0, 0x0, 0x0, 0x0, 0xFFFFFFFFFFFFFFFF⟩,
  ⟨0x198, 1, 0, 8, 0x0, 0x0, 0x0, 0x0, 0xFFFFFFFFFFFFFFFF⟩,
  ⟨0x1A0, 1, 0, 8, 0x0, 0x0, 0x0, 0x0, 0xFFFFFFFFFFFFFFFF⟩,
  ⟨0x1A8, 1, 0, 8, 0x0, 0x0, 0x0, 0x0, 0xFFFFFFFFFFFFFFFF⟩,
  ⟨0x1B0, 1, 0, 8, 0x0, 0x0, 0x0, 0x0, 0xFFFFFFFFFFFFFFFF⟩,
  ⟨0x1B8, 1, 0, 8, 0x0, 0x0, 0x0, 0x0, 0xFFFFFFFFFFFFFFFF⟩] ++
  [⟨0x1000, 1, 0, 8, 0x0, 0x0, 0x0, 0x0, 0x0⟩,
  ⟨0x1008, 1, 0, 4, 0xFFFF, 0x0, 0x0, 0x0, 0x0⟩,
  ⟨0x1010, 1, 0, 4, 0x8, 0x1F, 0x0, 0x0, 0x0⟩,
  ⟨0x1040, 1, 0, 4, 0x0, 0x0, 0x0, 0x3, 0x0⟩,
  ⟨0x1080, 4, 32, 8, 0x0, 0xFFFFFFFFFFFFFFC0, 0x0, 0x0, 0x0⟩,
  ⟨0x1088, 4, 32, 4, 0x4, 0x8000001F, 0x0, 0x0, 0x0⟩,
  ⟨0x108C, 4, 32, 4, 0x0, 0x0, 0x0, 0x3, 0x0⟩,
  ⟨0x1090, 4, 32, 8, 0x0, 0x0, 0x0, 0x0, 0x0⟩,
  ⟨0x1098, 4, 32, 4, 0x0, 0x0, 0x0, 0xFFFFFFFF, 0x0⟩,
  ⟨0x109C, 4, 32, 4, 0x0, 0x0, 0x0, 0x0, 0x0⟩,
  ⟨0x1100, 1, 0, 4, 0x80080, 0xFFFFF, 0x0, 0x0, 0x0⟩]

/-- The registers of a CORE page. -/
def rowsCore : List RegRow :=
  [⟨0x100, 1, 0, 8, 0x0, 0x0, 0x0, 0x0, 0xFFFFFFFFFFFFFFFF⟩,
  ⟨0x108, 1, 0, 8, 0x0, 0x0, 0x0, 0x0, 0xFFFFFFFFFFFFFFFF⟩,
  ⟨0x110, 1, 0, 8, 0x0, 0x0, 0x0, 0x0, 0xFFFFFFFFFFFFFFFF⟩,
  ⟨0x118, 1, 0, 8, 0x0, 0x0, 0x0, 0x0, 0xFFFFFFFFFFFFFFFF⟩,
  ⟨0x120, 1, 0, 8, 0x0, 0x0, 0x0, 0x0, 0xFFFFFFFFFFFFFFFF⟩,
  ⟨0x128, 1, 0, 8, 0x0, 0x0, 0x0, 0x0, 0xFFFFFFFFFFFFFFFF⟩,
  ⟨0x1000, 1, 0, 4, 0xFF, 0xFF, 0x0, 0x0, 0x0⟩]

/-- The registers of a BASE page. -/
def rowsBase : List RegRow :=
  [⟨0x100, 1, 0, 8, 0x0, 0x0, 0x0, 0x0, 0xFFFFFFFFFFFFFFFF⟩,
  ⟨0x108, 1, 0, 8, 0x0, 0x0, 0x0, 0x0, 0xFFFFFFFFFFFFFFFF⟩,
  ⟨0x110, 1, 0, 8, 0x0, 0x0, 0x0, 0x0, 0xFFFFFFFFFFFFFFFF⟩,
  ⟨0x118, 1, 0, 8, 0x0, 0x0, 0x0, 0x0, 0xFFFFFFFFFFFFFFFF⟩,
  ⟨0x120, 1, 0, 8, 0x0, 0x0, 0x0, 0x0, 0xFFFFFFFFFFFFFFFF⟩,
  ⟨0x128, 1, 0, 8, 0x0, 0x0, 0x0, 0x0, 0xFFFFFFFFFFFFFFFF⟩,
  ⟨0x130, 1, 0, 8, 0x0, 0x0, 0x0, 0x0, 0xFFFFFFFFFFFFFFFF⟩,
  ⟨0x138, 1, 0, 8, 0x0, 0x0, 0x0, 0x0, 0xFFFFFFFFFFFFFFFF⟩,
  ⟨0x140, 1, 0, 8, 0x0, 0x0, 0x0, 0x0, 0xFFFFFFFFFFFFFFFF⟩,
  ⟨0x148, 1, 0, 8, 0x0, 0x0, 0x0, 0x0, 0xFFFFFFFFFFFFFFFF⟩,
  ⟨0x150, 1, 0, 8, 0x0, 0x0, 0x0, 0x0, 0xFFFFFFFFFFFFFFFF⟩,
  ⟨0x158, 1, 0, 8, 0x0, 0x0, 0x0, 0x0, 0xFFFFFFFFFFFFFFFF⟩,
  ⟨0x160, 1, 0, 8, 0x0, 0x0, 0x0, 0x0, 0xFFFFFFFFFFFFFFFF⟩,
  ⟨0x168, 1, 0, 8, 0x0, 0x0, 0x0, 0x0, 0xFFFFFFFFFFFFFFFF⟩,
  ⟨0x170, 1, 0, 8, 0x0, 0x0, 0x0, 0x0, 0xFFFFFFFFFFFFFFFF⟩,
  ⟨0x1F0, 1, 0, 8, 0x0, 0x0, 0x0, 0x0, 0xFFFFFFFFFFFFFFFF⟩,
  ⟨0x1F8, 1, 0, 8, 0x0, 0x0, 0x0, 0x0, 0xFFFFFFFFFFFFFFFF⟩,
  ⟨0x200, 1, 0, 8, 0x0, 0x0, 0x0, 0x0, 0xFFFFFFFFFFFFFFFF⟩,
  ⟨0x208, 1, 0, 8, 0x0, 0x0, 0x0, 0x0, 0xFFFFFFFFFFFFFFFF⟩,
  ⟨0x210, 1, 0, 8, 0x0, 0x0, 0x0, 0x0, 0xFFFFFFFFFFFFFFFF⟩] ++
  [⟨0x218, 1, 0, 8, 0x0, 0x0, 0x0, 0x0, 0xFFFFFFFFFFFFFFFF⟩,
  ⟨0x220, 1, 0, 8, 0x0, 0x0, 0x0, 0x0, 0xFFFFFFFFFFFFFFFF⟩,
  ⟨0x228, 1, 0, 8, 0x0, 0x0, 0x0, 0x0, 0xFFFFFFFFFFFFFFFF⟩,
  ⟨0x230, 1, 0, 8, 0x0, 0x0, 0x0, 0x0, 0xFFFFFFFFFFFFFFFF⟩,
  ⟨0x238, 1, 0, 8, 0x0, 0x0, 0x0, 0x0, 0xFFFFFFFFFFFFFFFF⟩,
  ⟨0x300, 32, 8, 8, 0x0, 0x0, 0x0, 0x0, 0xFFFFFFFFFFFFFFFF⟩,
  ⟨0x1000, 1, 0, 4, 0x4000, 0xFF13, 0x0, 0x0, 0x0⟩,
  ⟨0x1008, 1, 0, 8, 0x0, 0xFFFFFFFFFFFFFFFF, 0x0, 0x0, 0xFFFFFFFFFFFFFFFF⟩,
  ⟨0x1010, 1, 0, 4, 0x1000100, 0xFFFF, 0x0, 0x0, 0xFFFF⟩,
  ⟨0x1100, 1, 0, 4, 0x0, 0x0, 0x0, 0x0, 0x0⟩,
  ⟨0x1108, 1, 0, 4, 0x100008, 0xFFFF00FF, 0x0, 0x0, 0x0⟩,
  ⟨0x1110, 1, 0, 4, 0x40A, 0xFFFF, 0x0, 0x0, 0x0⟩]

/-- The registers of a PORT page. -/
def rowsPort : List RegRow :=
  [⟨0x100, 1, 0, 8, 0x0, 0x0, 0x0, 0x0, 0xFFFFFFFFFFFFFFFF⟩,
  ⟨0x108, 1, 0, 8, 0x0, 0x0, 0x0, 0x0, 0xFFFFFFFFFFFFFFFF⟩,
  ⟨0x110, 1, 0, 8, 0x0, 0x0, 0x0, 0x0, 0xFFFFFFFFFFFFFFFF⟩,
  ⟨0x118, 1, 0, 8, 0x0, 0x0, 0x0, 0x0, 0xFFFFFFFFFFFFFFFF⟩,
  ⟨0x120, 1, 0, 8, 0x0, 0x0, 0x0, 0x0, 0xFFFFFFFFFFFFFFFF⟩,
  ⟨0x128, 1, 0, 8, 0x0, 0x0, 0x0, 0x0, 0xFFFFFFFFFFFFFFFF⟩,
  ⟨0x130, 1, 0, 8, 0x0, 0x0, 0x0, 0x0, 0xFFFFFFFFFFFFFFFF⟩,
  ⟨0x138, 1, 0, 8, 0x0, 0x0, 0x0, 0x0, 0xFFFFFFFFFFFFFFFF⟩,
  ⟨0x140, 4, 8, 8, 0x0, 0x0, 0x0, 0x0, 0xFFFFFFFFFFFFFFFF⟩,
  ⟨0x1000, 1, 0, 4, 0x0, 0x0, 0x0, 0x0, 0x0⟩,
  ⟨0x1008, 1, 0, 4, 0x0, 0x0, 0x0, 0x0, 0x0⟩,
  ⟨0x1010, 1, 0, 4, 0x40, 0xFFFF, 0x0, 0x0, 0x0⟩,
  ⟨0x8000, 1, 0, 4, 0x200020, 0xFFFFFFFF, 0x0, 0x0, 0x0⟩,
  ⟨0x8008, 1, 0, 4, 0x2800280, 0xFFFFFFFF, 0x0, 0x0, 0x0⟩,
  ⟨0x8010, 1, 0, 4, 0x3800380, 0xFFFFFFFF, 0x0, 0x0, 0x0⟩,
  ⟨0x8018, 1, 0, 4, 0x1C001C0, 0xFFFFFFFF, 0x0, 0x0, 0x0⟩]

/-- The registers of a ROUTER page. -/
def rowsRouter : List RegRow :=
  [⟨0x100, 1, 0, 8, 0x0, 0x0, 0x0, 0x0, 0xFFFFFFFFFFFFFFFF⟩,
  ⟨0x108, 1, 0, 8, 0x0, 0x0, 0x0, 0x0, 0xFFFFFFFFFFFFFFFF⟩,
  ⟨0x110, 1, 0, 8, 0x0, 0x0, 0x0, 0x0, 0xFFFFFFFFFFFFFFFF⟩,
  ⟨0x118, 1, 0, 8, 0x0, 0x0, 0x0, 0x0, 0xFFFFFFFFFFFFFFFF⟩,
  ⟨0x120, 1, 0, 8, 0x0, 0x0, 0x0, 0x0, 0xFFFFFFFFFFFFFFFF⟩,
  ⟨0x128, 1, 0, 8, 0x0, 0x0, 0x0, 0x0, 0xFFFFFFFFFFFFFFFF⟩,
  ⟨0xC00, 1, 0, 8, 0x0, 0x0, 0x0, 0x0, 0xFFFFFFFFFFFFFFFF⟩,
  ⟨0xC08, 1, 0, 8, 0x0, 0x0, 0x0, 0x0, 0xFFFFFFFFFFFFFFFF⟩,
  ⟨0xC10, 1, 0, 8, 0x0, 0x0, 0x0, 0x0, 0xFFFFFFFFFFFFFFFF⟩,
  ⟨0xC18, 1, 0, 8, 0x0, 0x0, 0x0, 0x0, 0xFFFFFFFFFFFFFFFF⟩,
  ⟨0xC20, 1, 0, 8, 0x0, 0x0, 0x0, 0x0, 0xFFFFFFFFFFFFFFFF⟩,
  ⟨0xC28, 1, 0, 8, 0x0, 0x0, 0x0, 0x0, 0xFFFFFFFFFFFFFFFF⟩,
  ⟨0xC30, 1, 0, 8, 0x0, 0x0, 0x0, 0x0, 0xFFFFFFFFFFFFFFFF⟩,
  ⟨0xC38, 1, 0, 8, 0x0, 0x0, 0x0, 0x0, 0xFFFFFFFFFFFFFFFF⟩,
  ⟨0xC40, 1, 0, 8, 0x0, 0x0, 0x0, 0x0, 0xFFFFFFFFFFFFFFFF⟩,
  ⟨0xC48, 1, 0, 8, 0x0, 0x0, 0x0, 0x0, 0xFFFFFFFFFFFFFFFF⟩,
  ⟨0x1000, 1, 0, 4, 0x0, 0xFFF0FFF, 0x0, 0x0, 0xFFF0FFF⟩,
  ⟨0x1008, 1, 0, 4, 0x0, 0x8FFF0FFF, 0x0, 0x0, 0x8FFF0FFF⟩,
  ⟨0x1010, 1, 0, 4, 0x0, 0x0, 0x0, 0x1, 0x0⟩,
  ⟨0x1018, 1, 0, 4, 0x0, 0xFFF, 0x0, 0x80000000, 0x0⟩] ++
  [⟨0x1020, 1, 0, 4, 0x20608, 0xFFFFFF, 0x0, 0x0, 0x0⟩,
  ⟨0x1028, 1, 0, 4, 0x2710, 0xFFFFFFFF, 0x0, 0x0, 0x0⟩,
  ⟨0x1030, 1, 0, 4, 0x0, 0xFFF, 0x0, 0x0, 0xFFF⟩,
  ⟨0x1100, 1, 0, 8, 0x0, 0x0, 0x0, 0x0, 0x0⟩,
  ⟨0x1108, 1, 0, 8, 0xF4240, 0x80000000FFFFFFFF, 0x0, 0x0, 0x8000000000000000⟩,
  ⟨0x1110, 1, 0, 8, 0x0, 0x0, 0x0, 0x0, 0x0⟩,
  ⟨0x1118, 1, 0, 8, 0x0, 0x0, 0x0, 0xFFFFFFFFFFFFFFFF, 0x0⟩,
  ⟨0x4000, 1, 0, 8, 0x0, 0xFFFFFFFFFFFF0000, 0x0, 0x0, 0x0⟩,
  ⟨0x4008, 1, 0, 4, 0x0, 0xFFFF, 0x0, 0x0, 0x0⟩,
  ⟨0x4010, 1, 0, 4, 0x3E800FF, 0xFFFF00FF, 0x0, 0x0, 0x0⟩]

/-- The registers of a COPY page. -/
def rowsCopy : List RegRow :=
  [⟨0x100, 1, 0, 8, 0x0, 0x0, 0x0, 0x0, 0xFFFFFFFFFFFFFFFF⟩,
  ⟨0x108, 1, 0, 8, 0x0, 0x0, 0x0, 0x0, 0xFFFFFFFFFFFFFFFF⟩,
  ⟨0x110, 1, 0, 8, 0x0, 0x0, 0x0, 0x0, 0xFFFFFFFFFFFFFFFF⟩,
  ⟨0x118, 1, 0, 8, 0x0, 0x0, 0x0, 0x0, 0xFFFFFFFFFFFFFFFF⟩,
  ⟨0x138, 1, 0, 8, 0x0, 0x0, 0x0, 0x0, 0xFFFFFFFFFFFFFFFF⟩,
  ⟨0x140, 1, 0, 8, 0x0, 0x0, 0x0, 0x0, 0xFFFFFFFFFFFFFFFF⟩,
  ⟨0x150, 1, 0, 8, 0x0, 0x0, 0x0, 0x0, 0xFFFFFFFFFFFFFFFF⟩,
  ⟨0x1080, 1, 32, 8, 0x0, 0xFFFFFFFFFFFFFFC0, 0x0, 0x0, 0x0⟩,
  ⟨0x1088, 1, 32, 4, 0x4, 0x8000001F, 0x0, 0x0, 0x0⟩,
  ⟨0x108C, 1, 32, 4, 0x0, 0x0, 0x0, 0x3, 0x0⟩,
  ⟨0x1090, 1, 32, 8, 0x0, 0x0, 0x0, 0x0, 0x0⟩,
  ⟨0x1098, 1, 32, 4, 0x0, 0x0, 0x0, 0xFFFFFFFF, 0x0⟩,
  ⟨0x109C, 1, 32, 4, 0x0, 0x0, 0x0, 0x0, 0x0⟩,
  ⟨0x1100, 1, 0, 4, 0x80080, 0xFFFFF, 0x0, 0x0, 0x0⟩]

/-- The registers of a GATHER page. -/
def rowsGather : List RegRow :=
  [⟨0x100, 1, 0, 8, 0x0, 0x0, 0x0, 0x0, 0xFFFFFFFFFFFFFFFF⟩,
  ⟨0x108, 1, 0, 8, 0x0, 0x0, 0x0, 0x0, 0xFFFFFFFFFFFFFFFF⟩,
  ⟨0x110, 1, 0, 8, 0x0, 0x0, 0x0, 0x0, 0xFFFFFFFFFFFFFFFF⟩,
  ⟨0x118, 1, 0, 8, 0x0, 0x0, 0x0, 0x0, 0xFFFFFFFFFFFFFFFF⟩,
  ⟨0x120, 1, 0, 8, 0x0, 0x0, 0x0, 0x0, 0xFFFFFFFFFFFFFFFF⟩,
  ⟨0x128, 1, 0, 8, 0x0, 0x0, 0x0, 0x0, 0xFFFFFFFFFFFFFFFF⟩,
  ⟨0x130, 1, 0, 8, 0x0, 0x0, 0x0, 0x0, 0xFFFFFFFFFFFFFFFF⟩,
  ⟨0x138, 1, 0, 8, 0x0, 0x0, 0x0, 0x0, 0xFFFFFFFFFFFFFFFF⟩,
  ⟨0x1000, 1, 0, 4, 0xFF0064, 0xFFFFFF, 0x0, 0x0, 0x0⟩]

/-- The registers of a FIN page. -/
def rowsFin : List RegRow :=
  [⟨0x100, 1, 0, 8, 0x0, 0x0, 0x0, 0x0, 0xFFFFFFFFFFFFFFFF⟩,
  ⟨0x108, 1, 0, 8, 0x0, 0x0, 0x0, 0x0, 0xFFFFFFFFFFFFFFFF⟩,
  ⟨0x110, 1, 0, 8, 0x0, 0x0, 0x0, 0x0, 0xFFFFFFFFFFFFFFFF⟩,
  ⟨0x118, 1, 0, 8, 0x0, 0x0, 0x0, 0x0, 0xFFFFFFFFFFFFFFFF⟩,
  ⟨0x120, 1, 0, 8, 0x0, 0x0, 0x0, 0x0, 0xFFFFFFFFFFFFFFFF⟩,
  ⟨0x128, 1, 0, 8, 0x0, 0x0, 0x0, 0x0, 0xFFFFFFFFFFFFFFFF⟩,
  ⟨0x130, 1, 0, 8, 0x0, 0x0, 0x0, 0x0, 0xFFFFFFFFFFFFFFFF⟩,
  ⟨0x138, 1, 0, 8, 0x0, 0x0, 0x0, 0x0, 0xFFFFFFFFFFFFFFFF⟩,
  ⟨0x140, 1, 0, 8, 0x0, 0x0, 0x0, 0x0, 0xFFFFFFFFFFFFFFFF⟩,
  ⟨0x148, 1, 0, 8, 0x0, 0x0, 0x0, 0x0, 0xFFFFFFFFFFFFFFFF⟩,
  ⟨0x150, 1, 0, 8, 0x0, 0x0, 0x0, 0x0, 0xFFFFFFFFFFFFFFFF⟩,
  ⟨0x1F0, 1, 0, 8, 0x0, 0x0, 0x0, 0x0, 0xFFFFFFFFFFFFFFFF⟩,
  ⟨0x1F8, 1, 0, 8, 0x0, 0x0, 0x0, 0x0, 0xFFFFFFFFFFFFFFFF⟩,
  ⟨0x1000, 1, 0, 8, 0x0, 0xFFFFFFFFFFFFFF80, 0x0, 0x0, 0x0⟩,
  ⟨0x1008, 1, 0, 8, 0x0, 0xFFFFFFFFFFFFFFFF, 0x0, 0x0, 0xFFFFFFFFFFFFFFFF⟩,
  ⟨0x1010, 1, 0, 8, 0x0, 0xFFFFFFFFFFFFFFC0, 0x0, 0x0, 0xFFFFFFFFFFFFFFC0⟩,
  ⟨0x1018, 1, 0, 4, 0x100, 0xFFFF, 0x0, 0x0, 0xFFFF⟩,
  ⟨0x1020, 1, 0, 4, 0x0, 0x0, 0x0, 0x1, 0x0⟩]

/-- The registers of a HOSTIF page. -/
def rowsHostif : List RegRow :=
  [⟨0x100, 1, 0, 8, 0x0, 0x0, 0x0, 0x0, 0xFFFFFFFFFFFFFFFF⟩,
  ⟨0x108, 1, 0, 8, 0x0, 0x0, 0x0, 0x0, 0xFFFFFFFFFFFFFFFF⟩,
  ⟨0x110, 1, 0, 8, 0x0, 0x0, 0x0, 0x0, 0xFFFFFFFFFFFFFFFF⟩,
  ⟨0x118, 1, 0, 8, 0x0, 0x0, 0x0, 0x0, 0xFFFFFFFFFFFFFFFF⟩,
  ⟨0x120, 4, 16, 8, 0x0, 0x0, 0x0, 0x0, 0xFFFFFFFFFFFFFFFF⟩,
  ⟨0x128, 4, 16, 8, 0x0, 0x0, 0x0, 0x0, 0xFFFFFFFFFFFFFFFF⟩,
  ⟨0x1000, 1, 0, 4, 0x0, 0x0, 0x0, 0x1, 0x0⟩,
  ⟨0x1008, 1, 0, 4, 0x20, 0xFFF, 0x0, 0x0, 0x0⟩,
  ⟨0x1100, 4, 8, 4, 0x30, 0x33, 0x0, 0x0, 0x33⟩]

/-- A number as an index below n, where it is one. -/
def finOf (n i : Nat) : Option (Fin n) := if h : i < n then some ⟨i, h⟩ else none

/-- The row of the register that occupies offset off, with off inside the register. -/
def rowAt (rs : List RegRow) (off : Nat) : Option RegRow :=
  match rs with
  | [] => none
  | r :: rest =>
    let k := if r.stride = 0 then 0 else (off - r.off) / r.stride
    if decide (r.off ≤ off) && decide (k < r.count) && decide (off < r.off + k * r.stride + r.bytes) then some r
    else rowAt rest off

/-- The first byte of the register of row r that holds offset off. -/
def RegRow.start (r : RegRow) (off : Nat) : Nat :=
  if r.stride = 0 then r.off else r.off + (off - r.off) / r.stride * r.stride


end Sys2Proof.Machine

namespace Sys2Proof
open Machine

/-- The register rows of a page, its own after the shared ones. -/
def Page.rows : Page → List RegRow
  | .mod => rowsMod
  | .pwr => rowsPwr
  | .clk => rowsClk
  | .flt => rowsFlt
  | .rel => rowsRel
  | .hrd => rowsHrd
  | .cox _ => rowsCox
  | .core _ => rowsCore
  | .base _ => rowsBase
  | .port _ => rowsPort
  | .router => rowsRouter
  | .copy _ => rowsCopy
  | .gather _ => rowsGather
  | .fin _ => rowsFin
  | .hostif => rowsHostif

/-- R46: the offset of a page from 0x0300_0000_0000. -/
def Page.addr : Page → Nat
  | .mod => 0x0000000
  | .pwr => 0x0010000
  | .clk => 0x0020000
  | .flt => 0x0030000
  | .rel => 0x0040000
  | .hrd => 0x0050000
  | .cox t => 0x0100000 + t.val * 0x10000
  | .core c => 0x1000000 + c.val * 0x10000
  | .base s => 0x2000000 + s.val * 0x10000
  | .port p => 0x3000000 + p.val * 0x10000
  | .router => 0x3060000
  | .copy e => 0x4000000 + e.val * 0x10000
  | .gather g => 0x5000000 + g.val * 0x10000
  | .fin t => 0x6000000 + t.val * 0x10000
  | .hostif => 0x7000000

/-- R46: BLK_ID, the block type and the instance index. -/
def Page.blkId : Page → Nat
  | .mod => 0x00010000
  | .pwr => 0x00020000
  | .clk => 0x00030000
  | .flt => 0x00040000
  | .rel => 0x00050000
  | .hrd => 0x00060000
  | .cox t => 0x00100000 + t.val
  | .core c => 0x00110000 + c.val
  | .base s => 0x00200000 + s.val
  | .port p => 0x00300000 + p.val
  | .router => 0x00310000
  | .copy e => 0x00400000 + e.val
  | .gather g => 0x00500000 + g.val
  | .fin t => 0x00600000 + t.val
  | .hostif => 0x00700000

/-- R46: the block page that page number n of register space holds. -/
def Page.ofNumber (n : Nat) : Option Page :=
  if n = 0 then some .mod else if n = 1 then some .pwr else if n = 2 then some .clk
  else if n = 3 then some .flt else if n = 4 then some .rel else if n = 5 then some .hrd
  else if n < 0x10 then none
  else if n < 0x100 then (finOf 8 (n - 0x10)).map .cox
  else if n < 0x200 then (finOf 128 (n - 0x100)).map .core
  else if n < 0x300 then (finOf 32 (n - 0x200)).map .base
  else if n < 0x306 then (finOf 6 (n - 0x300)).map .port
  else if n = 0x306 then some .router
  else if n < 0x400 then none
  else if n < 0x500 then (finOf 16 (n - 0x400)).map .copy
  else if n < 0x600 then (finOf 32 (n - 0x500)).map .gather
  else if n < 0x700 then (finOf 8 (n - 0x600)).map .fin
  else if n = 0x700 then some .hostif else none

/-- The row of a register of a page. -/
def Page.rowOf (p : Page) (off : Nat) : Option RegRow :=
  match rowAt rowsAll off with
  | some r => some r
  | none => rowAt p.rows off

/-- The Reset column of the register at an offset of a page; 0 where no register is (R48). -/
def Page.resetOf (p : Page) (off : Nat) : Nat :=
  if off = R.SH_BLK_ID then p.blkId
  else match p.rowOf off with
    | some r => r.reset
    | none => 0

/-- R55: the status registers of 0x0100 to 0x0FFF, which are no counters. -/
def Page.isStatusReg (p : Page) (off : Nat) : Bool :=
  match p with
  | .base _ => off == 0x170 || off == 0x1F0 || off == 0x1F8
  | .fin _ => off == 0x130 || off == 0x1F0 || off == 0x1F8
  | .rel => off == 0x1F0 || off == 0x1F8
  | .hrd => decide (0x200 ≤ off) && decide (off ≤ 0x278)
  | _ => false

/-- R57: the pages that are always enabled. -/
def Page.always : Page → Bool
  | .mod => true
  | .pwr => true
  | .clk => true
  | .flt => true
  | _ => false

end Sys2Proof

namespace Sys2Proof.Machine

/-- What an unlisted register of register space reads as: its Reset column. -/
def regDefault (k : Nat) : W64 :=
  match Page.ofNumber (k / 0x10000) with
  | some p => BitVec.ofNat 64 (p.resetOf (k % 0x10000))
  | none => 0#64

end Sys2Proof.Machine
end

