-- ==== Sys2Proof/Config.lean ====
section
/-! DEFINITION. What one module's making fixes, and the free values that the spec leaves open. Each is an opaque constant:
nothing can be proved of it but what holds for every value. -/

namespace Sys2Proof.Config

/-- The free value number n (State.freeCtr numbers them): any 64-bit word. -/
opaque free : Nat → BitVec 64

/-- Which of the results within the bound of R224 an instruction returns, by opcode, operand and RND (R225: a function
of the operands): an index into the list of admissible results. -/
opaque approxPick : Nat → BitVec 32 → Nat → Nat

/-- The fused device number (R758, DEV_ID). -/
opaque deviceNumber : BitVec 64

/-- The fused security version numbers at manufacture, byte i - 1 for image type i (R749, R758). -/
opaque fusedSvn : BitVec 40

/-- The fused revocation bits of the four root keys (R746). -/
opaque revoked : BitVec 4

/-- The fused SHA-384 of each root key (R746). -/
opaque rootHash : Nat → BitVec 384

/-- The device public key, X then Y (R744, R750): derived from a secret that nothing can read. -/
opaque devPub : BitVec 768

/-- A signature of a digest by the device key, r then s (R752); the number tells signatures of one digest apart. -/
opaque devSign : Nat → BitVec 384 → BitVec 768

/-- The 64 KiB slot of a cache partition that a way of a set takes (R76, R491), by sets of the cache, set and way. -/
opaque cacheSlot : Nat → Nat → Nat → Nat

/-- What the Finish reservation holds after an update (R379), by the number of the update and the offset. -/
opaque reservation : Nat → Nat → BitVec 8

/-- The SCALE_TYPE that the array takes for a block scale that no load placed (R187, R233), by its scratch offset, format and byte. -/
opaque arrayScaleType : Nat → Nat → Nat → Nat

/-- The FP32 sum of a value and of stored values where a partial sum is not exact (R260, R261). -/
opaque inexactSum : BitVec 32 → List Int → BitVec 32

end Sys2Proof.Config
end

