-- ==== Sys2Proof/Machine/Float.lean ====
section
/-! DEFINITION. Number formats and rounding of "Number Formats, Accumulation and Rounding": the layouts of R184 to R187,
the values of R185, the rounding of R194 and R195, the canonical NaN of R191, and the exact arithmetic the units round once. -/

namespace Sys2Proof.Machine

/-- An exact value of a float format: NaN, a signed infinity, or (-1)^neg * m * 2^e (R185). -/
inductive Val where
  | nan
  | inf (neg : Bool)
  | fin (neg : Bool) (m : Nat) (e : Int)
deriving DecidableEq, Repr

/-- An exact positive magnitude before rounding: a quotient n/d * 2^e, or the square root of n * 2^e. -/
inductive Mag where
  | ratio (n d : Nat) (e : Int)
  | root (n : Nat) (e : Int)
deriving DecidableEq, Repr

/-- The event a result counts (R219): none, overflow, saturation or NaN. -/
inductive Ev where
  | none | ovf | sat | nan
deriving DecidableEq, Repr

/-- Event totals of a stream (R221) or of a unit. -/
structure Evs where
  ovf : Nat := 0
  sat : Nat := 0
  nan : Nat := 0
deriving DecidableEq, Repr

/-- One more event. -/
def Evs.add (t : Evs) : Ev → Evs
  | .none => t
  | .ovf => { t with ovf := t.ovf + 1 }
  | .sat => { t with sat := t.sat + 1 }
  | .nan => { t with nan := t.nan + 1 }

/-- Two totals together. -/
def Evs.plus (a b : Evs) : Evs := { ovf := a.ovf + b.ovf, sat := a.sat + b.sat, nan := a.nan + b.nan }

/-- A floating-point layout (R184): exponent bits, mantissa bits, bias, largest finite magnitude code, the infinity
code (none where the format has no infinity) and the canonical NaN code (none where it has no NaN). -/
structure FpSpec where
  eb : Nat
  mb : Nat
  bias : Nat
  maxCode : Nat
  infCode : Option Nat
  nanCode : Option Nat
deriving DecidableEq, Repr

/-- FP32, code 0x0. -/
def fp32 : FpSpec := ⟨8, 23, 127, 0x7F7FFFFF, some 0x7F800000, some 0x7FC00000⟩
/-- BF16, code 0x1. -/
def bf16 : FpSpec := ⟨8, 7, 127, 0x7F7F, some 0x7F80, some 0x7FC0⟩
/-- FP16, code 0x2. -/
def fp16 : FpSpec := ⟨5, 10, 15, 0x7BFF, some 0x7C00, some 0x7E00⟩
/-- FP8 E4M3, code 0x3, and the TB8-E4 element. -/
def e4m3 : FpSpec := ⟨4, 3, 7, 0x7E, none, some 0x7F⟩
/-- FP8 E5M2, code 0x4, and the TB8-E5 element. -/
def e5m2 : FpSpec := ⟨5, 2, 15, 0x7B, some 0x7C, some 0x7E⟩
/-- TB6-E2M3 element, code 0x7. -/
def e2m3 : FpSpec := ⟨2, 3, 1, 0x1F, none, none⟩
/-- TB6-E3M2 element, code 0x8. -/
def e3m2 : FpSpec := ⟨3, 2, 3, 0x1F, none, none⟩
/-- TB4-E2M1 element, code 0x9. -/
def e2m1 : FpSpec := ⟨2, 1, 1, 0x7, none, none⟩

/-- The float layout of a format code, where the code's elements are floats (R184). -/
def fpOf (code : Nat) : Option FpSpec :=
  match code with
  | 0 => some fp32 | 1 => some bf16 | 2 => some fp16 | 3 => some e4m3 | 4 => some e5m2
  | 5 => some e4m3 | 6 => some e5m2 | 7 => some e2m3 | 8 => some e3m2 | 9 => some e2m1
  | _ => none

/-- Bits of one element of a format code (R184, R186). -/
def elemBits (code : Nat) : Nat :=
  match code with
  | 0 => 32 | 1 => 16 | 2 => 16 | 3 => 8 | 4 => 8 | 5 => 8 | 6 => 8 | 7 => 6 | 8 => 6 | 9 => 4
  | 10 => 8 | 11 => 8 | 12 => 4 | 13 => 8 | 14 => 32 | _ => 16

/-- A block-scaled TB format (R187): codes 0x5 to 0xA. -/
def isTb (code : Nat) : Bool := decide (5 ≤ code) && decide (code ≤ 10)
/-- A format with a zero point (R186): codes 0xB to 0xD. -/
def isZp (code : Nat) : Bool := decide (11 ≤ code) && decide (code ≤ 13)
/-- An integer format code (R186): 0xA to 0xF. -/
def isInt (code : Nat) : Bool := decide (10 ≤ code)

/-- R185, R188: the value of a float element. -/
def fpDecode (f : FpSpec) (bits : Nat) : Val :=
  let mag := bits % 2 ^ (f.eb + f.mb)
  let neg := bits.testBit (f.eb + f.mb)
  let e := mag / 2 ^ f.mb
  let m := mag % 2 ^ f.mb
  if f.infCode = some mag then .inf neg
  else if mag > f.maxCode then .nan
  else if e = 0 then .fin neg m (1 - (f.bias : Int) - f.mb)
  else .fin neg (2 ^ f.mb + m) ((e : Int) - f.bias - f.mb)

/-- Integer square root by bits, high bit first. -/
def isqrtGo (n : Nat) : Nat → Nat → Nat
  | 0, r => r
  | k + 1, r => let c := r + 2 ^ k; if c * c ≤ n then isqrtGo n k c else isqrtGo n k r

/-- The integer square root, rounded down. -/
def isqrt (n : Nat) : Nat := isqrtGo n (Nat.log2 n / 2 + 1) 0

/-- floor(x / 2^k) and whether x / 2^k is that integer exactly. -/
def Mag.scaled (g : Mag) (k : Int) : Nat × Bool :=
  match g with
  | .ratio n d e =>
    let sh := e - k
    if sh ≥ 0 then
      let a := n * 2 ^ sh.toNat
      (a / d, a % d = 0)
    else
      let b := d * 2 ^ (-sh).toNat
      (n / b, n % b = 0)
  | .root n e =>
    let sh := e - 2 * k
    if sh ≥ 0 then
      let a := n * 2 ^ sh.toNat
      let r := isqrt a
      (r, r * r = a)
    else
      let p := 2 ^ (-sh).toNat
      let r := isqrt (n / p)
      (r, r * r * p = n)

/-- floor(log2 x) of a positive magnitude. -/
def Mag.log2 (g : Mag) : Int :=
  match g with
  | .ratio n d e =>
    let l : Int := (Nat.log2 n : Int) - (Nat.log2 d : Int)
    let ok := if l ≥ 0 then decide (d * 2 ^ l.toNat ≤ n) else decide (d ≤ n * 2 ^ (-l).toNat)
    (if ok then l else l - 1) + e
  | .root n e => ((Nat.log2 n : Int) + e) / 2

/-- Is the magnitude zero? -/
def Mag.isZero : Mag → Bool
  | .ratio n _ _ => n == 0
  | .root n _ => n == 0

/-- R194: the rounded integer n + up of |x| / 2^k under mode 0, 1 or 2, r being the draw of mode 2. -/
def roundAt (g : Mag) (k : Int) (mode : Nat) (r : W32) : Nat :=
  let (f, ex) := g.scaled (k - 33)
  let n := f / 2 ^ 33
  let d := f % 2 ^ 33
  let up :=
    if mode = 0 then decide (d > 2 ^ 32) || (decide (d = 2 ^ 32) && (!ex || n % 2 = 1))
    else if mode = 2 then decide (r.toNat < d / 2)
    else false
  if up then n + 1 else n

/-- R194 and R195 for a float target and a positive magnitude: the magnitude code and whether it was clamped or overflowed. -/
def fpRoundMag (f : FpSpec) (mode : Nat) (r : W32) (g : Mag) : Nat × Ev :=
  if g.isZero then (0, .none)
  else
    let emin : Int := 1 - (f.bias : Int)
    let l := g.log2
    let e := if l < emin then emin else l
    let k := e - f.mb
    let n := roundAt g k mode r
    let code : Int := ((e + f.bias) * ((2 ^ f.mb : Nat) : Int)) + (n : Int) - ((2 ^ f.mb : Nat) : Int)
    if code > (f.maxCode : Int) then
      match f.infCode with
      | some ic => if mode = 1 then (f.maxCode, .sat) else (ic, .ovf)
      | none => (f.maxCode, .sat)
    else (code.toNat, .none)

/-- The sign bit of a float code. -/
def fpSign (f : FpSpec) (neg : Bool) (mag : Nat) : Nat := if neg then 2 ^ (f.eb + f.mb) + mag else mag

/-- R195 and R197: one rounding of an exact value to a float format. For a format without NaN the code 0 stands
(R238: every element of such a block is written as 0). -/
def fpRound (f : FpSpec) (mode : Nat) (r : W32) (v : Val) : Nat × Ev :=
  match v with
  | .nan => (f.nanCode.getD 0, .none)
  | .inf neg =>
    match f.infCode with
    | some ic => (fpSign f neg ic, .none)
    | none => (fpSign f neg f.maxCode, .sat)
  | .fin neg m e => let (c, ev) := fpRoundMag f mode r (.ratio m 1 e); (fpSign f neg c, ev)

/-- R194 and R195 for an integer target of the range [lo, hi]: one rounding of (-1)^neg * g. -/
def intRoundMag (lo hi : Int) (mode : Nat) (r : W32) (neg : Bool) (g : Mag) : Int × Ev :=
  let n : Int := (roundAt g 0 mode r : Nat)
  let x := if neg then -n else n
  if x < lo then (lo, .sat) else if x > hi then (hi, .sat) else (x, .none)

/-- R195 for an integer target: NaN gives 0 and a saturation event. -/
def intRound (lo hi : Int) (mode : Nat) (r : W32) (v : Val) : Int × Ev :=
  match v with
  | .nan => (0, .sat)
  | .inf neg => (if neg then lo else hi, .sat)
  | .fin neg m e => intRoundMag lo hi mode r neg (.ratio m 1 e)

/-- The exact value of an integer. -/
def Val.ofInt (x : Int) : Val := .fin (decide (x < 0)) x.natAbs 0

/-- Negation. -/
def Val.neg : Val → Val
  | .nan => .nan
  | .inf s => .inf (!s)
  | .fin s m e => .fin (!s) m e

/-- Is it a NaN? -/
def Val.isNan : Val → Bool
  | .nan => true
  | _ => false

/-- Is it finite? -/
def Val.isFin : Val → Bool
  | .fin _ _ _ => true
  | _ => false

/-- Is it a zero? -/
def Val.isZero : Val → Bool
  | .fin _ 0 _ => true
  | _ => false

/-- Exact product under IEEE 754 special-value rules. -/
def Val.mul : Val → Val → Val
  | .nan, _ => .nan
  | _, .nan => .nan
  | .inf s, .inf t => .inf (s != t)
  | .inf s, .fin t m _ => if m = 0 then .nan else .inf (s != t)
  | .fin s m _, .inf t => if m = 0 then .nan else .inf (s != t)
  | .fin s m e, .fin t n f => .fin (s != t) (m * n) (e + f)

/-- The signed integer m * 2^(e-k) of a finite value at an exponent k not above e. -/
def Val.atExp (neg : Bool) (m : Nat) (e k : Int) : Int :=
  let a : Int := ((m * 2 ^ (e - k).toNat : Nat) : Int)
  if neg then -a else a

/-- Exact sum under IEEE 754 special-value rules; an exact zero sum is -0 only when both terms are -0. -/
def Val.add : Val → Val → Val
  | .nan, _ => .nan
  | _, .nan => .nan
  | .inf s, .inf t => if s = t then .inf s else .nan
  | .inf s, _ => .inf s
  | _, .inf t => .inf t
  | .fin s m e, .fin t n f =>
    let k := if e < f then e else f
    let x := Val.atExp s m e k + Val.atExp t n f k
    if x = 0 then .fin (s && t) 0 k else .fin (decide (x < 0)) x.natAbs k

/-- Exact comparison of two non-NaN values: -1, 0 or 1; zeros are equal. -/
def Val.cmp (a b : Val) : Int :=
  match a, b with
  | .inf s, .inf t => if s = t then 0 else if s then -1 else 1
  | .inf s, _ => if s then -1 else 1
  | _, .inf t => if t then 1 else -1
  | .fin s m e, .fin t n f =>
    let k := if e < f then e else f
    let x := Val.atExp s m e k - Val.atExp t n f k
    if x < 0 then -1 else if x = 0 then 0 else 1
  | _, _ => 0

/-- The value of an FP32 word. -/
def f32v (x : W32) : Val := fpDecode fp32 x.toNat

/-- The canonical FP32 NaN (R191). -/
def nan32 : W32 := 0x7FC00000#32

/-- R219: the event of a result, from the clamp of its rounding and its operands. -/
def resultEv (ops : List Val) (res : Val) (round : Ev) : Ev :=
  if res.isNan then (if ops.any Val.isNan then .none else .nan)
  else match res with
    | .inf _ => if ops.all Val.isFin then .ovf else .none
    | _ => if round = .sat then .sat else .none

/-- R144, R219: an exact result rounded once to FP32, with its event. -/
def toF32 (ops : List Val) (mode : Nat) (r : W32) (v : Val) : W32 × Ev :=
  let (c, ev) := fpRound fp32 mode r v
  let w := BitVec.ofNat 32 c
  (w, resultEv ops (f32v w) ev)

/-- An exact magnitude with a sign, rounded once to FP32, with its event. -/
def toF32Mag (ops : List Val) (mode : Nat) (r : W32) (neg : Bool) (g : Mag) : W32 × Ev :=
  let (c, ev) := fpRoundMag fp32 mode r g
  let w := BitVec.ofNat 32 (fpSign fp32 neg c)
  (w, resultEv ops (f32v w) ev)

/-- a + b, rounded once. -/
def fAdd (mode : Nat) (r : W32) (a b : W32) : W32 × Ev :=
  toF32 [f32v a, f32v b] mode r ((f32v a).add (f32v b))

/-- a - b, rounded once. -/
def fSub (mode : Nat) (r : W32) (a b : W32) : W32 × Ev :=
  toF32 [f32v a, f32v b] mode r ((f32v a).add (f32v b).neg)

/-- a * b, rounded once. -/
def fMul (mode : Nat) (r : W32) (a b : W32) : W32 × Ev :=
  toF32 [f32v a, f32v b] mode r ((f32v a).mul (f32v b))

/-- a * b + c, rounded once. -/
def fFma (mode : Nat) (r : W32) (a b c : W32) : W32 × Ev :=
  toF32 [f32v a, f32v b, f32v c] mode r (((f32v a).mul (f32v b)).add (f32v c))

/-- c - a * b, rounded once. -/
def fFnma (mode : Nat) (r : W32) (a b c : W32) : W32 × Ev :=
  toF32 [f32v a, f32v b, f32v c] mode r (((f32v a).mul (f32v b)).neg.add (f32v c))

/-- a + b + c, rounded once. -/
def fAdd3 (mode : Nat) (r : W32) (a b c : W32) : W32 × Ev :=
  toF32 [f32v a, f32v b, f32v c] mode r (((f32v a).add (f32v b)).add (f32v c))

/-- a / b, correctly rounded; a nonzero finite value over zero gives an infinity and an overflow event (R146). -/
def fDiv (mode : Nat) (r : W32) (a b : W32) : W32 × Ev :=
  let ops := [f32v a, f32v b]
  match f32v a, f32v b with
  | .nan, _ => (nan32, .none)
  | _, .nan => (nan32, .none)
  | .inf _, .inf _ => (nan32, .nan)
  | .inf s, .fin t _ _ => toF32 ops mode r (.inf (s != t))
  | .fin s _ _, .inf t => toF32 ops mode r (.fin (s != t) 0 0)
  | .fin s m e, .fin t n f =>
    if n = 0 then (if m = 0 then (nan32, .nan) else toF32 ops mode r (.inf (s != t)))
    else toF32Mag ops mode r (s != t) (.ratio m n (e - f))

/-- The square root, correctly rounded; a negative nonzero operand gives NaN. -/
def fSqrt (mode : Nat) (r : W32) (a : W32) : W32 × Ev :=
  match f32v a with
  | .nan => (nan32, .none)
  | .inf s => if s then (nan32, .nan) else (a, .none)
  | .fin s m e =>
    if m = 0 then (a, .none)
    else if s then (nan32, .nan)
    else toF32Mag [f32v a] mode r false (.root m e)

/-- The larger of a and b: +0 above -0, a NaN operand yields the other, two NaN yield NaN (R147, VMAX). -/
def fMax (a b : W32) : W32 :=
  match f32v a, f32v b with
  | .nan, .nan => nan32
  | .nan, _ => b
  | _, .nan => a
  | x, y => if x.cmp y = 1 then a else if x.cmp y = -1 then b else if a.getLsbD 31 then b else a

/-- The smaller of a and b, with the rules of fMax (R147, VMIN). -/
def fMin (a b : W32) : W32 :=
  match f32v a, f32v b with
  | .nan, .nan => nan32
  | .nan, _ => b
  | _, .nan => a
  | x, y => if x.cmp y = -1 then a else if x.cmp y = 1 then b else if a.getLsbD 31 then a else b

/-- An integer rounded to FP32, ties to even. -/
def f32OfInt (x : Int) : W32 := BitVec.ofNat 32 (fpRound fp32 0 0 (Val.ofInt x)).1

/-- The comparison codes of VCMP (R147): 0 EQ, 1 NE, 2 LT, 3 LE, 4 GT, 5 GE, 6 UNORD, 7 ORD. -/
def fCmp (sub : Nat) (a b : W32) : Bool :=
  let x := f32v a
  let y := f32v b
  if x.isNan || y.isNan then sub == 1 || sub == 6
  else
    let c := x.cmp y
    match sub with
    | 0 => c == 0 | 1 => c != 0 | 2 => c == -1 | 3 => c != 1
    | 4 => c == 1 | 5 => c != -1 | 6 => false | _ => true

end Sys2Proof.Machine
end

