-- ==== Sys2Proof/Machine/State.lean ====
section
/-! DEFINITION. The state of the module: every register, memory, queue, engine and pin the chapters give it, and the queue
of commands that wait. Plain data. -/

namespace Sys2Proof.Machine

/-- Why a step stops. -/
inductive Fault where
  /-- The damage of R780, the one outcome that the manual leaves without a behaviour. Raised by no command: the effect that R715
  gives an input above 60.5 V holds above the absolute maximum too (log entry 38). Safe: no run stops here. -/
  | beyondAbsoluteMaximum
deriving DecidableEq, Repr

/-- Why a step is refused. -/
inductive Refusal where
  /-- The command has no meaning in the model: raised by an arm of exec. Safe: the machine stops. -/
  | notModelled (mnemonic : String)
deriving DecidableEq, Repr

/-- One table of R66 to R73: the two banks as sparse lists over the cold-start contents, and the table group's fields. -/
structure TableSt where
  bank0 : List (Nat × W64)
  bank1 : List (Nat × W64)
  active : Bool
  held : Bool
  pending : Bool
  late : Bool
  crcFail : Bool
  readActive : Bool
  index : BitVec 16
  crcExp : W32
  step : W64
  /-- The low half that a 32-bit write left in the group (R781). -/
  heldLow : Option W32
  /-- The high half that a 32-bit read of the low half latched (R781). -/
  latchedHigh : Option W32
deriving DecidableEq, Repr

/-- A table as a cold start leaves it (R74). -/
def TableSt.init : TableSt :=
  { bank0 := [], bank1 := [], active := false, held := false, pending := false, late := false, crcFail := false,
    readActive := false, index := 0, crcExp := 0, step := 0, heldLow := none, latchedHigh := none }

/-- A report of a checker on its way to the module collector (R667). -/
structure Report where
  page : Page
  bit : Nat
  syndrome : W32
  addr : W64
  /-- Fabric time of the first sample (R680, TIME). -/
  time : W64
  injected : Bool
deriving DecidableEq, Repr

/-- The answer to an access: done with data, or an error response (R37, R39). -/
structure Resp where
  ok : Bool
  data : W64
deriving DecidableEq, Repr

/-- A ring entry that a thread holds: the ring's index in the train and the entry's number. -/
structure HeldEntry where
  ring : Nat
  entry : Nat
deriving DecidableEq, Repr

/-- The work item of a thread (R108): the train, its stage, the item index. -/
structure Item where
  train : Nat
  stage : Nat
  index : Nat
deriving DecidableEq, Repr

/-- A load in ring mode (R88): the operation number, its ring size, scratch offset and layout, the matrix operation that
took it, and once its data is placed the element codes and the scale bytes in scratch order. -/
structure RingLoad where
  op : Nat
  n : Nat
  off : Nat
  layout : Nat
  slices : Nat
  /-- SCALE_TYPE of its descriptor. -/
  ty : Nat
  taken : Bool
  done : Bool
  codes : List Nat
  scales : List Nat
deriving DecidableEq, Repr

/-- A thread context (R90, R131, R174, R202). Unlisted registers read 0. -/
structure Thread where
  item : Option Item
  pc : W64
  sreg : List (Nat × W64)
  vreg : List (Nat × List W32)
  mreg : List (Nat × W64)
  vgen : List Gen
  sgen : List Gen
  /-- Completion queue, oldest first (R157). -/
  cq : List (BitVec 16)
  /-- Outstanding asynchronous operations, in issue order: number, and whether it returns a tag (R156). -/
  outst : List (Nat × Bool)
  held : List HeldEntry
  resv : List HeldEntry
  ringLoads : List RingLoad
  /-- The thread waits for an instruction-cache line (R135). -/
  fillWait : Bool
deriving DecidableEq, Repr

/-- An idle thread context. -/
def Thread.init : Thread :=
  { item := none, pc := 0, sreg := [], vreg := [], mreg := [], vgen := [], sgen := [], cq := [], outst := [], held := [],
    resv := [], ringLoads := [], fillWait := false }

/-- A block-format descriptor (R126); AGE_M1 + 1 as age, BLOCK as a number of elements. -/
structure Bfd where
  fmt : Nat
  block : Nat
  scaleType : Nat
  scaleSel : Nat
  round : Nat
  age : Nat
  priv : Nat
deriving DecidableEq, Repr

/-- A matrix tile operation (R85) as the thread queued it, with the store of OUT 2 (R159) and the store-path generator
states it draws from (R202). -/
structure MOp where
  op : Nat
  thread : Nat
  aRing : Nat
  aOff : Nat
  bRing : Nat
  bOff : Nat
  k : Nat
  out : Nat
  bank : Nat
  accIn : Nat
  aFmt : Nat
  bFmt : Nat
  cOff : Nat
  aSc : Nat
  bSc : Nat
  tag : BitVec 16
  base : Nat
  stride : Nat
  scBase : Nat
  d : Nat
  bf : Bfd
  gens : List Gen
  /-- Loads that must have placed their bytes before the operation starts (R87). -/
  waits : List Nat
  aLoad : Option Nat
  bLoad : Option Nat
deriving DecidableEq, Repr

/-- A transfer of LPQ or SPQ (R160) with the number of its operation and the store-path generator states it draws from. -/
structure Xfer where
  op : Nat
  thread : Nat
  ext : Nat
  scale : Nat
  stashAddr : Nat
  scr : Nat
  sums : Nat
  rows : Nat
  elems : Nat
  stride : Nat
  extFmt : Nat
  scrFmt : Nat
  d : Nat
  bf : Bfd
  layout : Nat
  transpose : Bool
  stash : Nat
  sumsOn : Bool
  ring : Nat
  slope : W32
  tag : BitVec 16
  lo : W32
  hi : W32
  gens : List Gen
deriving DecidableEq, Repr

/-- A VOUT (R155): destination, descriptor, scale base, the lanes it read and the generator states it draws from. -/
structure VoutOp where
  op : Nat
  thread : Nat
  addr : Nat
  scBase : Nat
  d : Nat
  bf : Bfd
  lanes : List W32
  gens : List Gen
deriving DecidableEq, Repr

/-- What waits on a core's store path. -/
inductive StoreOp where
  | spq (x : Xfer)
  | vout (v : VoutOp)
deriving DecidableEq, Repr

/-- A tensor core: threads, scratch, array, paths, instruction cache. -/
structure Core where
  threads : List (Nat × Thread)
  scratch : List Host.Cell
  /-- 8-byte scratch words that hold an uncorrectable error. -/
  scratchUe : List Nat
  bank0 : List W32
  bank1 : List W32
  queue : List MOp
  running : Bool
  lpq : List Xfer
  spq : List StoreOp
  /-- Line numbers in the instruction cache, newest first (R134). -/
  icache : List Nat
  nextOp : Nat
  /-- The scratch bytes that loads placed block scales in and nothing has overwritten since: offset, number, SCALE_TYPE (R232; log entry
  26). -/
  scaleTy : List (Nat × Nat × Nat)
deriving DecidableEq, Repr

/-- An idle core. -/
def Core.init : Core :=
  { threads := [], scratch := [], scratchUe := [], bank0 := [], bank1 := [], queue := [], running := false, lpq := [], spq := [],
    icache := [], nextOp := 0, scaleTy := [] }

/-- A stage record (R100). -/
structure StageRec where
  mstate : Bool
  engine : Nat
  inRings : List Nat
  outRings : List Nat
  threads : Nat
  units : Nat
  prog : W64
  param : W64
  items : Nat
  after : Nat
deriving DecidableEq, Repr

/-- A ring record (R101). -/
structure RingRec where
  base : Nat
  entryBytes : Nat
  consumers : Nat
  producer : Nat
  credits : Nat
  entries : Nat
deriving DecidableEq, Repr

/-- A table descriptor in force (R267), SHARD_BASE as base, STRIDE_32 as stride. -/
structure TDesc where
  base : Nat
  rows : Nat
  blockRows : Nat
  gchk : Bool
  place : Nat
  fixY : Nat
  wfmt : Nat
  elems : Nat
  stride : Nat
  rule : Nat
  stateBytes : Nat
deriving DecidableEq, Repr

/-- How far a gather stage has come in its current command: the engine that runs it (R283), the descriptor of its table as the
command began (R313), IDs done, the output ring and the entry it fills with the slots filled (R282), entries filled whose remote
rows are still to come. -/
structure GatherCarry where
  engine : Nat
  desc : Option TDesc
  /-- The selector of its table as the command began. -/
  sel : Bool
  pos : Nat
  ring : Nat
  entry : Option Nat
  filled : Nat
  closed : List (Nat × Nat)
deriving DecidableEq, Repr

/-- A stage of a launched train: its record, progress, cores and event streams (R220, R221). -/
structure StageRun where
  desc : StageRec
  started : Bool
  done : Bool
  cores : List Nat
  /-- THREAD_EN of each core as read at the launch of the stage (R129). -/
  threadEn : List Nat
  nextItem : Nat
  doneItems : Nat
  matrix : Evs
  vector : Evs
  load : Evs
  store : List (Nat × Evs)
  carry : Option GatherCarry
deriving DecidableEq, Repr

/-- A ring of a launched train (R104 to R106): the next entry to reserve, entries published out of order, the number visible,
credits held, entries taken by each consumer stage, entries released but not yet returned, entries returned. -/
structure RingRun where
  desc : RingRec
  reserved : Nat
  published : List Nat
  visible : Nat
  credits : Nat
  taken : List (Nat × Nat)
  released : List (Nat × Nat)
  returned : Nat
deriving DecidableEq, Repr

/-- A train (R98 to R103): the command, the checked descriptor, its run. -/
structure Train where
  uid : Nat
  ring : Nat
  slot : W32
  step : W64
  noStep : Bool
  trainId : BitVec 16
  compl : W64
  user : W64
  timeoutUs : W32
  stages : List StageRun
  rings : List RingRun
  launched : Bool
  start : W64
  job : W64
  lockstep : Bool
  coresUsed : Nat
  /-- The command's IRQ bit (R590). -/
  irq : Bool
  /-- STATUS and FAIL_STAGE of the completion record once the train has failed. -/
  failed : Option (Nat × Nat)
deriving DecidableEq, Repr

/-- A command as its slots spell it (R576): the index of its first slot, opcode, ARG, IRQ, LEN and body bytes. -/
structure RingCmd where
  slot : W32
  opcode : Nat
  arg : Nat
  irq : Bool
  len : Nat
  body : List Byte
deriving DecidableEq, Repr

/-- A WAIT_FLAG in progress (R587). -/
structure FlagWait where
  arg : Nat
  value : Nat
  mask : Nat
  cmp : Nat
  timeoutUs : Nat
  irq : Bool
deriving DecidableEq, Repr

/-- A copy that an engine has accepted and whose flag it has not written (R596). -/
structure CopyJob where
  slot : W32
  arg : Nat
  flag : W64
  irq : Bool
deriving DecidableEq, Repr

/-- A command ring beyond its registers: a command of which some slots have been read, with the continuation slots still to
read; the command read and not yet started (R802); a slot to be read again and the re-reads done (R584); the WAIT_FLAG in
progress; a train of the ring that waits for its launch (R103, R588); the copies accepted (R596). -/
structure RingSt where
  first : Option (RingCmd × Nat)
  cmd : Option RingCmd
  reread : Bool
  retries : Nat
  wait : Option FlagWait
  hold : Bool
  copies : List CopyJob
deriving DecidableEq, Repr

/-- A ring that has read nothing. -/
def RingSt.init : RingSt := { first := none, cmd := none, reread := false, retries := 0, wait := none, hold := false, copies := [] }

/-- A 64 KiB tile in a tile cache (R491): its number a >> 16, its way in its set, valid and dirty 4 KiB sectors, a loan tile or not, bytes. -/
structure CacheTile where
  tag : Nat
  way : Nat
  valid : Nat
  dirty : Nat
  loan : Bool
  cells : List Host.Cell
deriving DecidableEq, Repr

/-- A class-3 request that waits for its response (R500, R506): its tag, the tile it fills for, the loan, the borrower
address of its 4 KiB sector, a write-back or a fill. -/
structure LoanReq where
  tag : BitVec 16
  tile : Nat
  loan : Nat
  addr : Nat
  write : Bool
deriving DecidableEq, Repr

/-- The Cox of a tile with its tile cache: trains waiting and running in slot order, the cache's tiles most recently used
first, the cache size in force (R78); the ring whose turn it is to start a command (R588). -/
structure Cox where
  trains : List Train
  nextUid : Nat
  cache : List CacheTile
  cacheSize : Nat
  turn : Nat
deriving DecidableEq, Repr

/-- An idle Cox. -/
def Cox.init : Cox := { trains := [], nextUid := 0, cache := [], cacheSize := 8, turn := 0 }

/-- Digests of one run of a step (R627 to R629): OUT of logical tiles 0 to 7, IN, and the tile map of the run. -/
structure RunDigest where
  outs : List W64
  inn : W64
  map : W32
deriving DecidableEq, Repr

/-- A digest set of a run that has done nothing. -/
def RunDigest.zero : RunDigest := { outs := [0, 0, 0, 0, 0, 0, 0, 0], inn := 0, map := 0x76543210 }

/-- An uncommitted step on this module (R618): closed or still executing; every unit has reported it ready (R357, R407); its verdict
token is sent; an abort for it has come down (R622); its own verdict bits (R619); the verdict word of its barrier; the run it is
in, its rotation here, the digests of each run so far; the numeric events of the current run and the corrected errors by tile (R625); the state digests
sent to peers, those held by crew (R644), its own once taken (R643); when it opened and closed. -/
structure StepSt where
  step : W64
  closed : Bool
  ready : Bool
  tokenSent : Bool
  aborted : Bool
  word : W32
  verdict : Option W32
  run : Nat
  rotation : Nat
  runs : List RunDigest
  evs : Evs
  ce : List (Nat × Nat)
  sent : Bool
  crew : List (Nat × W64)
  sd : Option W64
  openedAt : W64
  closedAt : W64
deriving DecidableEq, Repr

/-- The tests of a blamed tile (R635): the cores still to be tested, one has failed, the tile is exempt. -/
structure Blame where
  tile : Nat
  cores : List Nat
  failed : Bool
  exempt : Bool
deriving DecidableEq, Repr

/-- The Umpire's part in this module beyond the REL registers (R618 to R663): the step that runs again, its run and the digests of the
runs before (R630); the rotation of its run here; the step that failed last and how often in succession (R636); the audit choices of
uncommitted steps (R639); the step that the boundary or RESUME lets open (R301, R638); RD and DF at the close of uncommitted steps and of
COMMITTED_STEP (R643); steps not yet open here for which an abort has come
(R622); the step of the second exchange and the digests held (R645); a RESUME waits for its barrier; a SET_STEP must come
first (R637); a rescan runs; the times of the last 1,024 committed steps in ns (R665); the cores whose Heat test is due (R650); blamed
tiles; the rotation list as the last step opening took it (R631, R694); COMMITTED_STEP at each unit's last passing test (R654); SD of COMMITTED_STEP (R643). -/
structure UmpSt where
  rerun : Option (Nat × Nat)
  prior : List RunDigest
  rotation : Nat
  failed : Nat × Nat
  audits : List (Nat × Bool)
  mayOpen : Option Nat
  snaps : List (Nat × (List W64 × List W64))
  earlyAbort : List W64
  recheck : Option Nat
  second : List (Nat × W64)
  resuming : Bool
  needSet : Bool
  rescanning : Bool
  times : List Nat
  due : List Nat
  blames : List Blame
  tiles : List Nat
  passed : List (Nat × Nat)
  sd : W64
deriving DecidableEq, Repr

/-- An Umpire that has done nothing. -/
def UmpSt.init : UmpSt :=
  { rerun := none, prior := [], rotation := 0, failed := (0, 0), audits := [], mayOpen := none, snaps := [], earlyAbort := [], recheck := none, second := [],
    resuming := false, needSet := false, rescanning := false, times := [], due := [], blames := [], tiles := [0, 1, 2, 3, 4, 5, 6, 7], passed := [], sd := 0 }

/-- How far a row transaction has come (R342 to R345): it waits for the lock; the row is being read; it waits for journal
room; its record is on its way to DRAM; its row writes are. -/
inductive TxnPhase where
  | lock | read | room | record | write
deriving DecidableEq, Repr

/-- Who asks for a row lock (R351): a transaction by its number; the gather command of a train's stage on a tile; the Seat refresh of a
tile; a request of another module, by its source and tag. -/
inductive LockWho where
  | txn (id : Nat)
  | stage (tile train stage : Nat)
  | refresh (tile off : Nat)
  | remote (src : BitVec 12) (tag : BitVec 16)
deriving DecidableEq, Repr

/-- A request for the lock of the row at an address, or a lock held (R350, R352). -/
structure RowLock where
  addr : Nat
  who : LockWho
  granted : Bool
deriving DecidableEq, Repr

/-- An update request (R321) or a replacement being applied (R366), and the transaction that serves it, with a number of its own: the row as
read and as it will be. grads is empty for a replacement, image for an update. -/
structure Txn where
  id : Nat
  replace : Bool
  table : Nat
  row : Nat
  step : W64
  addr : Nat
  d : TDesc
  grads : List W32
  image : List Byte
  phase : TxnPhase
  old : List Byte
  new : List Byte
deriving DecidableEq, Repr

/-- What a base die knows of a journal record whose bytes lie in the ring (R354): its kind, step, row, stride and address, its position and
length in the ring, whether DRAM has acknowledged it, what those bytes held before it, and the transaction whose pre-image it is; for a
replacement its place in the order of R307. -/
structure JRec where
  kind : Nat
  step : W64
  table : Nat
  row : Nat
  d : Option TDesc
  addr : Nat
  pos : Nat
  len : Nat
  acked : Bool
  before : List Byte
  txn : Nat
  order : Nat × Nat × Nat
deriving DecidableEq, Repr

/-- A base die beyond its registers: requests not yet taken, rows named in the open step (R323), transactions in arrival
order and the number of the next one, the row-lock table with the requests that wait, in arrival order (R350, R352), the journal oldest
record first, its write position and the bytes of its ring (R353), a replacement waits for journal room (R356), RD (R641), and what a step
opening samples (R332, R333):
LR_ORIGIN and the rule-descriptor and learning-rate banks. The run of skewed windows (R476), the scrub position (R487), the
refresh-curve point in force (R481) and the action whose report it has made (R482), the correctable errors of the step and whether they
are reported (R488), the accesses of the window by pseudo-channel (R475), the activations by 48 pc + bank since the last
refresh-management command (R459), words of the reserves that hold an uncorrectable error, by their number in the stack (R487). -/
structure CatchSt where
  inbox : List Txn
  seen : List (Nat × Nat)
  txns : List Txn
  nextTxn : Nat
  locks : List RowLock
  journal : List JRec
  jpos : Nat
  ring : List Host.Cell
  stalled : Bool
  rd : W64
  origin : W64
  crd : List (Nat × W64)
  lrc : List (Nat × W64)
  skewRun : Nat
  scrub : Nat
  tempPoint : Nat
  tempAct : Nat
  ce : Nat
  ceTold : Bool
  window : List (Nat × Nat)
  acts : List (Nat × Nat)
  reserveUe : List Nat
deriving DecidableEq, Repr

/-- A base die that has done nothing. -/
def CatchSt.init : CatchSt :=
  { inbox := [], seen := [], txns := [], nextTxn := 0, locks := [], journal := [], jpos := 0, ring := [], stalled := false, rd := 0, origin := 0, crd := [], lrc := [],
    skewRun := 0, scrub := 0, tempPoint := 0, tempAct := 0, ce := 0, ceTold := false, window := [], acts := [], reserveUe := [] }

/-- A request for remote rows, or a replacement sent to a remote owner, that waits for its response (R289, R305): tag, engine
(4t + g), train, stage, table and form, the rows with the addresses in tile SRAM of their slots and scales, the ring and entry. A read for
a Seat (R300, R302) names the tile and the entry that it refreshes in place of a train. -/
structure RemoteRead where
  tag : W32
  engine : Nat
  train : Nat
  stage : Nat
  table : Nat
  form : Nat
  rows : List (Nat × Nat × Nat)
  slotBytes : Nat
  ring : Nat
  entry : Nat
  replace : Bool
  seat : Option (Nat × Nat)
deriving DecidableEq, Repr

/-- An armed flip (R309 to R311): its table and step, taken and awaiting the commit of its step or not. -/
structure Flip where
  table : Nat
  step : W64
  taken : Bool
deriving DecidableEq, Repr

/-- A queued SLIDE_CMD (R299): key, tiles, operation. -/
structure SlideReq where
  table : Nat
  row : Nat
  tiles : Nat
  op : Nat
deriving DecidableEq, Repr

/-- How far the boundary work of R300 has come. -/
inductive BPhase where
  /-- Action 2 is in progress. -/
  | replacing
  /-- Action 6 is in progress; refresh reads of other modules are served. -/
  | refreshing
  /-- The boundary-done token is sent. -/
  | done
deriving DecidableEq, Repr

/-- The boundary after a step: the closed step, its phase, and the slots still to be refreshed by tile and entry offset. -/
structure Boundary where
  step : Nat
  phase : BPhase
  refresh : List (Nat × Nat)
deriving DecidableEq, Repr

/-- The HRD beyond its registers: flips, queued SLIDE_CMDs, misses counted per tile (R297), lookups, Seat hits and remote lookups
per table since the last boundary (R314), tiles whose Seat pool is refused (R298), the boundary in progress. -/
structure HrdSt where
  flips : List Flip
  slides : List SlideReq
  misses : List (Nat × Nat)
  counts : List (Nat × (Nat × Nat × Nat))
  noSeat : List Nat
  boundary : Option Boundary
deriving DecidableEq, Repr

/-- An HRD that has done nothing. -/
def HrdSt.init : HrdSt := { flips := [], slides := [], misses := [], counts := [], noSeat := [], boundary := none }

/-- A record of a dense journal (R402): kind, step, layer, the addresses and lengths of its master and state, its position and
length in the ring, acknowledged by DRAM or not. -/
structure DRec where
  kind : Nat
  step : W64
  layerId : Nat
  layer : Nat
  master : Nat
  masterLen : Nat
  stateAddr : Nat
  stateLen : Nat
  pos : Nat
  len : Nat
  acked : Bool
deriving DecidableEq, Repr

/-- The update in progress in a Finish engine (R388, R401): its train, stage, ring and entry, the layer with its descriptor as read, its old
and new master and state and the step; recorded says whether its pre-image record is issued (R404). -/
structure FinJob where
  train : Nat
  stage : Nat
  ring : Nat
  entry : Nat
  layer : Nat
  step : W64
  oldMaster : List Byte
  oldState : List Byte
  newMaster : List Byte
  newState : List Byte
  desc : List Byte
  recorded : Bool
  /-- What the bytes of its record held before it. -/
  before : List Byte
deriving DecidableEq, Repr

/-- A FIN block beyond its registers: the update in progress, the layers noted by running stages (R387), the dense journal with
its base and size as sampled at the enable (R416), its write position, DF (R642), what the step opening sampled (R389), a rewrite
of copies in progress (R415), the step whose updates are abandoned because it exceeds the journal (R404), the number of the free contents of its reservation once an update has used it (R379). -/
structure FinSt where
  job : Option FinJob
  noted : List (Nat × Nat × Nat)
  journal : List DRec
  base : Nat
  size : Nat
  pos : Nat
  df : W64
  origin : W64
  lrc : List (Nat × W64)
  refreshing : Bool
  ovf : Option W64
  temp : Option Nat
deriving DecidableEq, Repr

/-- A FIN block that has done nothing. -/
def FinSt.init : FinSt :=
  { job := none, noted := [], journal := [], base := 0, size := 0x10000000, pos := 0, df := 0, origin := 0, lrc := [], refreshing := false, ovf := none, temp := none }

/-- A contribution record in the chain area (R421): key, ORD, its FP32 values. -/
structure CRec where
  key : Nat
  ord : Nat
  vals : List W32
deriving DecidableEq, Repr

/-- A record of a sparse stream (R431): key, FP32 sums, NUSE. -/
structure CVal where
  key : Nat
  vals : List W32
  nuse : Nat
deriving DecidableEq, Repr

/-- A sparse stream at this module (R432 to R435): its leg and number, sum or final; records received and not yet merged, the
module's own records, whether each input is complete; records merged for the next packet, records sent, closed. -/
structure SStream where
  leg : Nat
  no : Nat
  final : Bool
  inq : List CVal
  inClosed : Bool
  own : List CVal
  ownReady : Bool
  buf : List CVal
  sent : Nat
  closed : Bool
deriving DecidableEq, Repr

/-- A dense layer's or top-k group's chain at this module (R438 to R446): STREAM, ELEMS or K, NPARTS, SCOPE; the partials or lists
held, by PART; the local value in packet bodies once it is formed; packets that wait on the Y and X sum legs, crew sums; packets
combined on each leg; final packets that are here, and how many there have been (R442). -/
structure BChain where
  topk : Bool
  no : Nat
  size : Nat
  nparts : Nat
  scope : Bool
  parts : List (Nat × List Byte)
  own : Option (List (List Byte))
  yIn : List (List Byte)
  crew : List (List Byte)
  xIn : List (List Byte)
  yPos : Nat
  xPos : Nat
  fin : List (List Byte)
  got : Nat
deriving DecidableEq, Repr

/-- The chain unit: the area and SPARSE_TILES as the router enable sampled them, TIMEOUT_US as the step opening did (R457); the
step it works on; tiles that must send LAST and tiles that have (R425, R426); contribution records with their bytes in the area,
merged or not; streams; the chains whose final is complete, in the order in which they finished; the next PSEQ received and sent by
stream; the notice STATUS of a failed chain (R443). -/
structure ChainSt where
  base : Nat
  area : Nat
  sparse : Nat
  timeoutUs : Nat
  step : Option Nat
  need : List Nat
  last : List Nat
  recs : List CRec
  recBytes : Nat
  merged : Bool
  streams : List SStream
  blocks : List BChain
  finished : List (Bool × Nat)
  rx : List (Nat × Nat)
  tx : List (Nat × Nat)
  failed : Option Nat
deriving DecidableEq, Repr

/-- A chain unit that has no step. -/
def ChainSt.init : ChainSt :=
  { base := 0, area := 0, sparse := 0xFF, timeoutUs := 0x3E8, step := none, need := [], last := [], recs := [], recBytes := 0, merged := false,
    streams := [], blocks := [], finished := [], rx := [], tx := [], failed := none }

/-- A barrier that a node works on (R549): its own token, the words combined so far, the children whose up messages it holds, its
up message sent, completed at this root, reported overdue (R550). -/
structure Bar where
  kind : Nat
  step : W64
  own : Bool
  word : W32
  ups : List Nat
  sent : Bool
  complete : Bool
  reported : Bool
deriving DecidableEq, Repr

/-- A flit that a port sends: FTYPE, header, and what it carries: the message whose last flit it is; in an identity flit (R523), this
module's identity; in a time-sync flit (R553), the times of the last sync flit sent and of the last one received. -/
structure TxFlit where
  ftype : Nat
  flit : Flit
  msg : Option Msg
  ident : Option Ident := none
  sync : Option (Nat × Nat) := none
deriving DecidableEq, Repr

/-- A message in a port's receive buffers: class, VC, flits, the message. -/
structure RxMsg where
  cls : Nat
  vc : Bool
  flits : Nat
  msg : Msg
deriving DecidableEq, Repr

/-- A Selaz port beyond its registers (R519 to R540). Index 2c + v stands for class c on VC v: receive buffers as sampled (R565),
credits held, what the partner advertised, credits to return, flits queued. trained: its lanes have trained; attempts: training attempts
and retrains that failed in a row; the sequence counters; the replay buffer, oldest first; a NAK is out; a sequenced flit is yet to be
acknowledged; flits received of messages not yet whole; whole messages; flits left to each of classes 1 to 3 in the round (R539);
replays of the step; the sending time of the last time-sync flit and the arrival of the last one, in 100 ps; the flits that the last
command sent. -/
structure PortSt where
  bufs : List Nat
  credits : List Nat
  advertised : List Nat
  owed : List Nat
  queues : List (List TxFlit)
  trained : Bool
  failed : Nat
  txSeq : BitVec 12
  rxSeq : BitVec 12
  replay : List TxFlit
  nak : Bool
  ackDue : Bool
  partly : List Nat
  rx : List RxMsg
  round : List Nat
  replays : Nat
  syncSent : Nat
  syncRecv : Nat
  tx : List TxFlit
deriving DecidableEq, Repr

/-- A port that has sent nothing. -/
def PortSt.init : PortSt :=
  { bufs := [32, 32, 640, 640, 896, 896, 448, 448], credits := [0, 0, 0, 0, 0, 0, 0, 0], advertised := [0, 0, 0, 0, 0, 0, 0, 0],
    owed := [0, 0, 0, 0, 0, 0, 0, 0], queues := [[], [], [], [], [], [], [], []], trained := false, failed := 0, txSeq := 0, rxSeq := 0,
    replay := [], nak := false, ackDue := false, partly := [0, 0, 0, 0, 0, 0, 0, 0], rx := [], round := [0, 0, 0], replays := 0, syncSent := 0,
    syncRecv := 0, tx := [] }

/-- A Wake entry (R680), its four words. -/
structure WakeEnt where
  w0 : W64
  w1 : W64
  w2 : W64
  w3 : W64
deriving DecidableEq, Repr

/-- The fault collector beyond its registers: the entries that wait to be written, with the SEQ they have taken (R682, R684); the pairs
that it ignores, by source and instance (R669); the stroke toggles; what holds it low: 1 until EN is written 0 and then 1, 2 until the
next reset (R703, R705). -/
structure FltSt where
  queue : List WakeEnt
  ignored : List (Nat × Nat)
  stroke : Bool
  low : Nat
deriving DecidableEq, Repr

/-- A collector that has seen nothing. -/
def FltSt.init : FltSt := { queue := [], ignored := [], stroke := false, low := 0 }

/-- The rails and the power loop beyond the PWR registers (R713 to R726): the rails are up and pwr_ok is high; pwr_en is high; control
windows in a row above the cap, and below 97 % of it; an operating point changes; compute tiles and Idryn dies held since 105 °C;
therm_alert_n is driven low; the islands and physical layers whose PLL has lost lock (R15, R18); the input energy below 1 mJ that
ENERGY_MJ does not show yet, in µJ (R754). -/
structure PwrSt where
  on : Bool
  en : Bool
  above : Nat
  below : Nat
  moving : Bool
  held : List Nat
  idryn : List Nat
  alert : Bool
  lost : List Island
  micro : Nat
deriving DecidableEq, Repr

/-- Rails up, nothing held. -/
def PwrSt.init : PwrSt := { on := true, en := true, above := 0, below := 0, moving := false, held := [], idryn := [], alert := false, lost := [], micro := 0 }

/-- The start sequencer beyond START_STATUS (R736 to R752): a start is in progress; the SVN and the measurement of each accepted image, in
type order; the fused SVNs, where a commit has changed those of manufacture (R749); the attestation report in progress with its address
(R751); the contents of the boot flash on the board; the retained training coefficients of the HBM PHYs by stack and of the SerDes by port,
and the results of the SRAM repair (R739); PCIE_CFG of each root port as the last cold start sampled it (R599, R617). -/
structure StartSt where
  active : Bool
  images : List (Nat × List Byte)
  fused : Option (BitVec 40)
  att : Option (Nat × List Byte)
  flash : List Host.Cell
  phy : List W64
  serdes : List W64
  repair : Option W64
  pcie : List Nat
deriving DecidableEq, Repr

/-- A start sequencer that has done nothing, before an empty flash. -/
def StartSt.init : StartSt := { active := false, images := [], fused := none, att := none, flash := [], phy := [], serdes := [], repair := none, pcie := [0x30, 0x30, 0x30, 0x30] }

/-- The TAP (R770 to R774): its instruction register, the data register of the instruction, data and STATUS of the most recent
REG_ACCESS. -/
structure TapSt where
  ir : Byte
  dr : BitVec 96
  data : W64
  status : BitVec 2
deriving DecidableEq, Repr

/-- A TAP in test-logic reset. -/
def TapSt.init : TapSt := { ir := 0x01, dr := 0x1483274B, data := 0, status := 0 }

/-- The management target (R768, R769): its dynamic address, and the answer to the last access, none where it was not acknowledged. -/
structure MgmtSt where
  dynamic : Option (BitVec 7)
  answer : Option W64
deriving DecidableEq, Repr

/-- A target without a dynamic address. -/
def MgmtSt.init : MgmtSt := { dynamic := none, answer := none }

/-- An access of this module to another one (R41, R44): its tag, register space or aperture, the target, the message; sent or held. -/
structure RemoteAcc where
  tag : BitVec 16
  reg : Bool
  dst : Nat
  body : MsgBody
  sent : Bool
deriving DecidableEq, Repr

/-- The state of the module. -/
structure State where
  /-- Commands that wait, first in, first out. -/
  pending : List Instr
  /-- The model's own counter of free values (Config.free). -/
  freeCtr : Nat
  /-- Registers by offset in register space; an unlisted one reads its Reset column. -/
  regs : List (Nat × W64)
  /-- High halves latched by 32-bit reads of counters, by the offset of the register (R56). -/
  latches : List (Nat × W32)
  /-- The answer to the last access of a requester in this module. -/
  lastResp : Resp
  /-- Tables by the offset of their group in register space. -/
  tables : List (Nat × TableSt)
  /-- HBM by module address (R36). -/
  mem : List Host.Cell
  /-- The symbols in error of the HBM words of 32 bytes, by address / 32: data symbols 0 to 31, check symbols 32 to 35 (R484). -/
  memErr : List (Nat × BitVec 36)
  /-- Tile SRAM: physical tile p's byte at window offset o is cell p * 2^31 + o (R76). -/
  tsram : List Host.Cell
  /-- Tile SRAM words of 32 bytes that hold an uncorrectable error (R79). -/
  tsramUe : List Nat
  cores : List (Nat × Core)
  coxes : List (Nat × Cox)
  /-- Largest magnitudes that the open steps' stores named, by step * 32 + descriptor index (R242). -/
  featherOpen : List (Nat × W32)
  /-- History entries of the closed steps, newest first, at most 20: step and 32 magnitudes (R243). -/
  featherHist : List (W64 × List W32)
  /-- JOB_SEED and LOCKSTEP as sampled when each uncommitted step first opened (R207). -/
  seeds : List (W64 × W64 × Bool)
  /-- Reports on their way to the module collector. -/
  reports : List Report
  /-- Fabric time in ns (R552). -/
  fabTime : W64
  /-- Uncommitted steps in rising order (R618). -/
  steps : List StepSt
  ump : UmpSt
  flt : FltSt
  /-- Steps that failed before they opened on this module (R118). -/
  earlyFail : List W64
  /-- Class-3 requests outstanding at the borrower. -/
  loanReqs : List LoanReq
  /-- The tag of the next request message. -/
  nextTag : BitVec 16
  /-- Command rings: Cox ring 4t + r, copy engine 32 + e. -/
  rings : List (Nat × RingSt)
  /-- Interrupts raised to the Idryn interrupt controller, oldest first (R590, R689). -/
  irqs : List Nat
  /-- Root ports whose link is down (R599, R787). -/
  linkDown : List Nat
  /-- Die-to-die links that retrain, with the attempts that have failed (R611). -/
  d2d : List (Nat × Nat)
  /-- The answer to the last device read: completed, its bytes, and the Poisoned bit (R600, R788). -/
  lastDevice : Bool × List Byte × Bool
  /-- The answer to the last HBM_READ: its bytes, or none for a poisoned or error response (R485). -/
  lastRead : Option (List Byte)
  /-- Messages injected by this module that the router has not yet forwarded (R541). -/
  inject : List Msg
  /-- The base dies by stack. -/
  catches : List (Nat × CatchSt)
  /-- The HRD's descriptor store: the valid tables (R265). -/
  tdescs : List (Nat × TDesc)
  hrd : HrdSt
  /-- Remote rows and replacements outstanding. -/
  remoteReads : List RemoteRead
  /-- Tree children by coordinate with the TOKENS of their latest registration (R548, R786). -/
  children : List (Nat × Nat)
  bars : List Bar
  /-- Messages the router delivered to this module whose arrival no unit has acted on. -/
  arrived : List Msg
  /-- The FIN blocks by tile. -/
  fins : List (Nat × FinSt)
  chain : ChainSt
  ports : List (Nat × PortSt)
  /-- Time-sync exchanges in a row within 0.8 ns of the parent (R554). -/
  syncRun : Nat
  /-- Rising edges driven on tsync_out (R557). -/
  tsyncEdges : Nat
  pwr : PwrSt
  start : StartSt
  tap : TapSt
  mgmt : MgmtSt
  /-- FAB_SIZE as the first lock of the fabric after a cold start fixed it (R19, R558). -/
  fabSize : Option W32
  /-- Remote-window accesses outstanding or held, oldest first (R44). -/
  remotes : List RemoteAcc
deriving DecidableEq, Repr

/-- The module right after reset. -/
def State.reset : State :=
  { pending := [], freeCtr := 0, regs := [], latches := [], lastResp := ⟨true, 0⟩, tables := [], mem := [], memErr := [],
    tsram := [], tsramUe := [], cores := [], coxes := [], featherOpen := [], featherHist := [], seeds := [], reports := [], fabTime := 0, steps := [],
    ump := UmpSt.init, flt := FltSt.init, earlyFail := [], loanReqs := [], nextTag := 0, rings := [], irqs := [], linkDown := [0, 1, 2, 3], d2d := [],
    lastDevice := (true, [], false), lastRead := none, inject := [], catches := [], tdescs := [],
    hrd := HrdSt.init, remoteReads := [], children := [], bars := [], arrived := [], fins := [],
    chain := ChainSt.init, ports := [], syncRun := 0, tsyncEdges := 0, pwr := PwrSt.init, start := StartSt.init, tap := TapSt.init,
    mgmt := MgmtSt.init, fabSize := none, remotes := [] }

end Sys2Proof.Machine
end

