-- ==== Sys2Proof/Machine/Ops.lean ====
section
/-! DEFINITION. The named operations over registers, memories, threads, trains, counters and error reports that every
command uses. -/

namespace Sys2Proof.Machine

/-- What a command answers. -/
abbrev Out := Host.Outcome State Fault Refusal

/-- State r with the queue, the rails, the start sequencer, the TAP and the management target as they are in s: no unit but their own
reaches them. -/
def State.kept (s r : State) : State :=
  { r with pending := s.pending, pwr := s.pwr, start := s.start, tap := s.tap, mgmt := s.mgmt }

/-- R711: a module without power does nothing; a powered one goes on in state r. -/
def State.live (s r : State) : Out := .next (if s.pwr.on then s.kept r else s)

/-- R14 to R18: is the module powered, and has the PLL of an island or physical layer lock? -/
def State.up (s : State) (x : Island) : Bool := s.pwr.on && !s.pwr.lost.contains x

/-- R15, R18: a unit of an island or physical layer that has lost lock writes nothing towards another one: what it would do there waits. -/
def State.liveIn (s : State) (x : Island) (r : State) : Out := .next (if s.up x then s.kept r else s)

/-- The same for a command that reaches the rails, the start sequencer or the pins. -/
def State.liveAll (s r : State) : Out := .next (if s.pwr.on then { r with pending := s.pending } else s)

/-! Registers. -/

/-- The stored 64 bits of the register at offset off of page p. -/
def State.rd (s : State) (p : Page) (off : Nat) : Nat := (SMap.get regDefault s.regs (p.addr + off)).toNat

/-- The register at offset off of page p takes a value. -/
def State.wr (s : State) (p : Page) (off v : Nat) : State :=
  { s with regs := SMap.set regDefault s.regs (p.addr + off) (BitVec.ofNat 64 v) }

/-- Bits [hi:lo] of a register. -/
def State.rf (s : State) (p : Page) (off hi lo : Nat) : Nat := fld (s.rd p off) hi lo

/-- Bits [hi:lo] of a register take a value. -/
def State.wf (s : State) (p : Page) (off hi lo v : Nat) : State := s.wr p off (setFld (s.rd p off) hi lo v)

/-- One bit of a register. -/
def State.rb (s : State) (p : Page) (off n : Nat) : Bool := (s.rd p off).testBit n

/-- One bit of a register takes a value. -/
def State.wb (s : State) (p : Page) (off n : Nat) (b : Bool) : State := s.wf p off n n (b2n b)

/-- R55: a counter counts n up, saturating, unless CNT_FREEZE holds the counters of its page. -/
def State.count (s : State) (p : Page) (off n : Nat) : State :=
  if s.rb p R.SH_CTRL 9 then s else s.wr p off (min (s.rd p off + n) (2 ^ 64 - 1))

/-- R57, R61: does STATUS of the page read ENABLED 1? -/
def State.enabled (s : State) (p : Page) : Bool := p.always || s.rb p R.SH_STATUS 3

/-- CTRL.EXPERT of a page (R51, R58). -/
def State.expert (s : State) (p : Page) : Bool := s.rb p R.SH_CTRL 1

/-- A fresh free value. -/
def State.fresh (s : State) : W64 × State := (Config.free s.freeCtr, { s with freeCtr := s.freeCtr + 1 })

/-! Errors (R51 to R53). -/

/-- FIRST_ERR after one more event (R53). -/
def firstErr (v : Nat) (bitNo : Nat) (syn : W32) : Nat :=
  if v.testBit 0 then setFld v 31 16 (min (fld v 31 16 + 1) 0xFFFF)
  else syn.toNat * 2 ^ 32 + bitNo * 2 ^ 8 + 1

/-- R805: FLT bits 2 to 5 are set without a report. -/
def noReport (p : Page) (bitNo : Nat) : Bool :=
  match p with
  | .flt => decide (2 ≤ bitNo) && decide (bitNo ≤ 5)
  | _ => false

/-- ERR_STICKY and FIRST_ERR take an event (R51 to R53). -/
def State.setErr (s : State) (p : Page) (bitNo : Nat) (syn : W32) : State :=
  let s := s.wb p R.SH_ERR_STICKY bitNo true
  s.wr p R.SH_FIRST_ERR (firstErr (s.rd p R.SH_FIRST_ERR) bitNo syn)

/-- R674: the report of an event to the collector, unless masked. -/
def State.report (s : State) (p : Page) (bitNo : Nat) (syn : W32) (addr : W64) (inj : Bool) : State :=
  if s.rb p R.SH_ERR_MASK bitNo || noReport p bitNo then s
  else { s with reports := s.reports ++ [{ page := p, bit := bitNo, syndrome := syn, addr := addr, time := s.fabTime, injected := inj }] }

/-- A checker records an event and reports it (R51 to R53, R674). -/
def State.raiseWith (s : State) (p : Page) (bitNo : Nat) (syn : W32) (addr : W64) (inj : Bool) : State :=
  (s.setErr p bitNo syn).report p bitNo syn addr inj

/-- R54, R699: is an injection armed at the checker of a bit? Bits 28 to 31 take none. -/
def State.injArmed (s : State) (p : Page) (bitNo : Nat) : Bool :=
  decide (bitNo ≤ 27) && s.rb p R.SH_ERR_INJECT 31 && s.rf p R.SH_ERR_INJECT 20 16 == bitNo && decide (0 < s.rf p R.SH_ERR_INJECT 15 0)

/-- R51: one injected access less; ARM clears with the last. -/
def State.useInject (s : State) (p : Page) : State :=
  let n := s.rf p R.SH_ERR_INJECT 15 0 - 1
  (s.wf p R.SH_ERR_INJECT 15 0 n).wb p R.SH_ERR_INJECT 31 (decide (0 < n))

/-- R699, R700: what an ECC checker sees: the error of an armed injection, else what the access meets. -/
def State.seenEcc (s : State) (p : Page) (ue ce : Nat) (ecc : Ecc) : Ecc :=
  if s.injArmed p ue then .uncorrectable else if s.injArmed p ce then .corrected else ecc

/-- An event whose syndrome the spec gives; the report of an injected one says so (R701). -/
def State.raise (s : State) (p : Page) (bitNo : Nat) (syn : W32) (addr : W64) : State :=
  if s.injArmed p bitNo then (s.useInject p).raiseWith p bitNo syn addr true else s.raiseWith p bitNo syn addr false

/-- An event whose syndrome no chapter gives: the syndrome is a free value. -/
def State.err (s : State) (p : Page) (bitNo : Nat) : State :=
  let (v, s) := s.fresh
  s.raise p bitNo (v.setWidth 32) 0

/-- The same, with the physical address involved (R670). -/
def State.errAt (s : State) (p : Page) (bitNo : Nat) (addr : Nat) : State :=
  let (v, s) := s.fresh
  s.raise p bitNo (v.setWidth 32) (BitVec.ofNat 64 addr)

/-- A refused or malformed control access of a page. -/
def State.ctlAccess (s : State) (p : Page) : State := s.err p E.CTL_ACCESS

/-! The numbers of the module. -/

/-- R567: the fabric configuration is in force. -/
def State.fabLocked (s : State) : Bool := s.rb .router R.ROUTER_FAB_LOCK 1

/-- R567: this module is a spare. -/
def State.isSpare (s : State) : Bool := s.rb .router R.ROUTER_FAB_POS 31

/-- R19: the torus sizes in force, as FAB_SIZE spells them: those of the first lock since the cold start. -/
def State.fabSizes (s : State) : Nat :=
  match s.fabSize with
  | some v => v.toNat
  | none => s.rd .router R.ROUTER_FAB_SIZE

/-- R45: MOD_COORD, which reads 0 until the fabric is locked. -/
def State.modCoord (s : State) : Nat :=
  if s.fabLocked then fld s.fabSizes 11 0 * 2 ^ 20 + s.rf .router R.ROUTER_FAB_POS 27 16 else 0

/-- Own coordinate, x | y << 4 | z << 8. -/
def State.coord (s : State) : Nat := s.modCoord % 2 ^ 12
/-- Own x. -/
def State.ownX (s : State) : Nat := fld s.modCoord 3 0
/-- Own y. -/
def State.ownY (s : State) : Nat := fld s.modCoord 7 4
/-- Own z. -/
def State.ownZ (s : State) : Nat := fld s.modCoord 11 8
/-- NX (R45). -/
def State.nx (s : State) : Nat := fld s.modCoord 23 20 + 1
/-- NY. -/
def State.ny (s : State) : Nat := fld s.modCoord 27 24 + 1
/-- NZ. -/
def State.nz (s : State) : Nat := fld s.modCoord 31 28 + 1

/-- R631: the physical tile of a logical tile. -/
def State.physTile (s : State) (l : Nat) : Nat := s.rf .rel R.REL_ROT_MAP (4 * l + 2) (4 * l)

/-- R631: the logical tile that runs on a physical tile; the tile itself where none does. -/
def State.logTile (s : State) (p : Nat) : Nat :=
  ((List.range 8).find? (fun l => s.physTile l == p)).getD p

/-- A number below n as an index of n, by its remainder. -/
def tileOf (n : Nat) : TileId := Fin.ofNat 8 n
/-- The tile of a core (R4). -/
def tileOfCore (c : CoreId) : TileId := Fin.ofNat 8 (c.val / 16)
/-- The core number 16t + c. -/
def coreOf (t : TileId) (c : Nat) : CoreId := Fin.ofNat 128 (t.val * 16 + c)
/-- A stack by its number. -/
def stackOf (n : Nat) : StackId := Fin.ofNat 32 n

/-! Byte memories: lists of cells in canonical form, an unlisted byte reading 0. -/

/-- What a byte that nothing has written reads as. -/
def zeroByte (_ : Nat) : Byte := 0#8

/-- One byte. -/
def Mem.get (m : List Host.Cell) (a : Nat) : Byte := SMap.get zeroByte m a

/-- n bytes from address a. -/
def Mem.read (m : List Host.Cell) (a n : Nat) : List Byte := (List.range n).map (fun i => Mem.get m (a + i))

/-- Cells of consecutive bytes from address a, less the bytes that read as unlisted. -/
def Mem.cellsOf (a : Nat) : List Byte → List Host.Cell
  | [] => []
  | b :: bs => if b = 0#8 then Mem.cellsOf (a + 1) bs else (a, b) :: Mem.cellsOf (a + 1) bs

/-- Bytes stored from address a on. -/
def Mem.write (m : List Host.Cell) (a : Nat) (bs : List Byte) : List Host.Cell :=
  m.filter (fun c => decide (c.1 < a)) ++ Mem.cellsOf a bs ++ m.filter (fun c => decide (a + bs.length ≤ c.1))

/-- The canonical form of a memory. -/
def Memory.wf (m : List Host.Cell) : Bool := SMap.wf zeroByte m

/-! Addresses (R36, R37). -/

/-- What an address names. -/
inductive Loc where
  | hbm (a : Nat)
  /-- A byte of a physical tile's SRAM window. -/
  | tsram (tile off : Nat)
  | reg (off : Nat)
  | remote (a : Nat)
  /-- Between HBM_TOP and the end of the HBM range: loan addresses or nothing (R472, R505). -/
  | above (a : Nat)
  | unmapped
deriving DecidableEq, Repr

/-- HBM_TOP, 0 until the geometry is locked (R472, R512); it lies within the HBM range of R36. -/
def State.hbmTop (s : State) : Nat := min (s.rd .mod R.MOD_HBM_TOP) 0x012000000000

/-- R36: decode a 48-bit physical address. -/
def State.locate (s : State) (a : Nat) : Loc :=
  if a < s.hbmTop then .hbm a
  else if a < 0x012000000000 then .above a
  else if a < 0x020000000000 then .unmapped
  else if a < 0x020400000000 then
    .tsram (s.physTile ((a - 0x020000000000) / 0x80000000)) ((a - 0x020000000000) % 0x80000000)
  else if a < 0x030000000000 then .unmapped
  else if a < 0x030010000000 then .reg (a - 0x030000000000)
  else if a < 0x800000000000 then .unmapped
  else if a < 0x1000000000000 then .remote a
  else .unmapped

/-- The base address of the SRAM window of logical tile l. -/
def windowBase (l : Nat) : Nat := 0x020000000000 + l * 0x80000000

/-- Words of w bytes that n bytes from a touch. -/
def wordsOf (w a n : Nat) : List Nat := (List.range (if n = 0 then 0 else (a + n - 1) / w - a / w + 1)).map (fun i => a / w + i)

/-- n bytes of HBM. -/
def State.hbmRead (s : State) (a n : Nat) : List Byte := Mem.read s.mem a n

/-- R484: how many symbols of a word are in error. -/
def symbolErrs (v : BitVec 36) : Nat := (List.range 36).countP v.getLsbD

/-- The symbols in error of HBM word w. -/
def State.errOf (s : State) (w : Nat) : BitVec 36 := SMap.get (fun _ => 0#36) s.memErr w

/-- R484, R485: an error of one symbol is corrected, one of more is detected (of more than three: log entry 202). -/
def State.wordUe (s : State) (w : Nat) : Bool := decide (2 ≤ symbolErrs (s.errOf w))

/-- Symbols of word w go bad. -/
def State.spoil (s : State) (w : Nat) (v : BitVec 36) : State := { s with memErr := SMap.set (fun _ => 0#36) s.memErr w (s.errOf w ||| v) }

/-- R485: does a word of the range hold an uncorrectable error? -/
def State.hbmPoisoned (s : State) (a n : Nat) : Bool := (wordsOf 32 a n).any (fun w => s.wordUe w)

/-- Words [lo, hi) written whole: no symbol of them is in error. -/
def healed (m : List (Nat × BitVec 36)) (lo hi : Nat) : List (Nat × BitVec 36) := m.filter (fun e => !(decide (lo ≤ e.1) && decide (e.1 < hi)))

/-- A store to HBM. Words written whole lose their errors. -/
def State.hbmWrite (s : State) (a : Nat) (bs : List Byte) : State :=
  { s with mem := Mem.write s.mem a bs, memErr := healed s.memErr (cdiv a 32) ((a + bs.length) / 32) }

/-- The cell of a byte of a physical tile's SRAM. -/
def tsramCell (tile off : Nat) : Nat := tile * 0x80000000 + off

/-- n bytes of a physical tile's SRAM. -/
def State.tsramRead (s : State) (tile off n : Nat) : List Byte := Mem.read s.tsram (tsramCell tile off) n

/-- R79: does a word of the range hold an uncorrectable error? -/
def State.tsramPoisoned (s : State) (tile off n : Nat) : Bool :=
  (wordsOf 32 (tsramCell tile off) n).any (fun w => s.tsramUe.contains w)

/-- A store to tile SRAM by any unit that may write there. -/
def State.tsramWrite (s : State) (tile off : Nat) (bs : List Byte) : State :=
  let a := tsramCell tile off
  { s with tsram := Mem.write s.tsram a bs, tsramUe := NSet.drop s.tsramUe (cdiv a 32) ((a + bs.length) / 32) }

/-! Base dies. -/

/-- A base die. -/
def State.catchSt (s : State) (st : StackId) : CatchSt := SMap.get (fun _ => CatchSt.init) s.catches st.val
/-- A base die changes. -/
def State.setCatch (s : State) (st : StackId) (x : CatchSt) : State :=
  { s with catches := SMap.set (fun _ => CatchSt.init) s.catches st.val x }

/-- R485: an uncorrectable word of a stack is read. -/
def State.stackUe (s : State) (st : StackId) (addr : Nat) : State :=
  (s.count (.base st) R.BASE_ECC_UE_CNT 1).errAt (.base st) E.BASE_ECC_UE addr

/-! FIN blocks. -/

/-- A FIN block. -/
def State.fin (s : State) (t : TileId) : FinSt := SMap.get (fun _ => FinSt.init) s.fins t.val
/-- A FIN block changes. -/
def State.setFin (s : State) (t : TileId) (x : FinSt) : State := { s with fins := SMap.set (fun _ => FinSt.init) s.fins t.val x }

/-! Tiles, cores, threads, trains. -/

/-- The Cox of a tile. -/
def State.cox (s : State) (t : TileId) : Cox := SMap.get (fun _ => Cox.init) s.coxes t.val
/-- The Cox of a tile changes. -/
def State.setCox (s : State) (t : TileId) (x : Cox) : State :=
  { s with coxes := SMap.set (fun _ => Cox.init) s.coxes t.val x }

/-- A core. -/
def State.core (s : State) (c : CoreId) : Core := SMap.get (fun _ => Core.init) s.cores c.val
/-- A core changes. -/
def State.setCore (s : State) (c : CoreId) (x : Core) : State :=
  { s with cores := SMap.set (fun _ => Core.init) s.cores c.val x }

/-- A thread of a core. -/
def Core.thread (x : Core) (t : Nat) : Thread := SMap.get (fun _ => Thread.init) x.threads t
/-- A thread of a core changes. -/
def Core.setThread (x : Core) (t : Nat) (th : Thread) : Core :=
  { x with threads := SMap.set (fun _ => Thread.init) x.threads t th }

/-- A thread. -/
def State.thread (s : State) (c : CoreId) (t : Nat) : Thread := (s.core c).thread t
/-- A thread changes. -/
def State.setThread (s : State) (c : CoreId) (t : Nat) (th : Thread) : State := s.setCore c ((s.core c).setThread t th)

/-- R92: bytes of scratch. -/
def scratchBytes : Nat := 0x40000

/-- The cache size in force in a tile: CACHE_64M as the last COX enable read it (R78), 24 for larger values (R125). -/
def State.cacheSize (s : State) (tile : Nat) : Nat := min (s.cox (tileOf tile)).cacheSize 24

/-- R76: the end of the software area of a tile's window. -/
def State.softEnd (s : State) (tile : Nat) : Nat := 0x7A000000 - s.cacheSize tile * 0x4000000

/-- A train by its number. -/
def Cox.train (x : Cox) (uid : Nat) : Option Train := x.trains.find? (fun t => t.uid == uid)
/-- A train of a Cox changes. -/
def Cox.modTrain (x : Cox) (uid : Nat) (f : Train → Train) : Cox :=
  { x with trains := x.trains.map (fun t => if t.uid == uid then f t else t) }
/-- A train of a tile changes. -/
def State.modTrain (s : State) (t : TileId) (uid : Nat) (f : Train → Train) : State := s.setCox t ((s.cox t).modTrain uid f)
/-- A stage of a train changes. -/
def Train.modStage (t : Train) (k : Nat) (f : StageRun → StageRun) : Train := { t with stages := modNth f t.stages k }
/-- A ring of a train changes. -/
def Train.modRing (t : Train) (k : Nat) (f : RingRun → RingRun) : Train := { t with rings := modNth f t.rings k }

/-! Event counters (R219 to R222). -/

/-- The three counters of a page, overflow first, 8 bytes apart, count events. -/
def State.countEvs (s : State) (p : Page) (off : Nat) (e : Evs) : State :=
  let s := if e.ovf = 0 then s else s.count p off e.ovf
  let s := if e.sat = 0 then s else s.count p (off + 8) e.sat
  if e.nan = 0 then s else s.count p (off + 16) e.nan

/-- A stream of a stage (R220). -/
inductive Stream where
  | matrix | vector | load | store (bfd : Nat)
deriving DecidableEq, Repr

/-- R221: 32-bit counters that saturate. -/
def Evs.sat32 (e : Evs) : Evs := { ovf := min e.ovf 0xFFFFFFFF, sat := min e.sat 0xFFFFFFFF, nan := min e.nan 0xFFFFFFFF }

/-- Events added to a store stream of a list by descriptor index. -/
def addStore (l : List (Nat × Evs)) (d : Nat) (e : Evs) : List (Nat × Evs) :=
  match l with
  | [] => [(d, e.sat32)]
  | (d', e') :: r => if d' = d then (d', (e'.plus e).sat32) :: r else (d', e') :: addStore r d e

/-- A stage's stream counts events (R220). -/
def StageRun.addEvs (g : StageRun) (st : Stream) (e : Evs) : StageRun :=
  match st with
  | .matrix => { g with matrix := (g.matrix.plus e).sat32 }
  | .vector => { g with vector := (g.vector.plus e).sat32 }
  | .load => { g with load := (g.load.plus e).sat32 }
  | .store d => { g with store := addStore g.store d e }

/-- R220, R222: events of a work item's stage count in its stream and in the MOD page. -/
def State.addEvs (s : State) (t : TileId) (it : Item) (st : Stream) (e : Evs) : State :=
  if e = {} then s
  else
    let s := s.modTrain t it.train (fun tr => tr.modStage it.stage (fun g => g.addEvs st e))
    s.countEvs .mod R.MOD_NUM_OVERFLOW e

/-! Steps (R618, R622, R625). -/

/-- The step most recently opened, as OPEN_STEP of the REL page holds it. -/
def State.openStep (s : State) : Nat := s.rd .rel R.REL_OPEN_STEP
/-- COMMITTED_STEP of the REL page. -/
def State.committedStep (s : State) : Nat := s.rd .rel R.REL_COMMITTED_STEP

/-- The record of an uncommitted step. -/
def State.stepSt (s : State) (n : Nat) : Option StepSt := s.steps.find? (fun x => x.step.toNat == n)
/-- The record of an uncommitted step changes. -/
def State.modStep (s : State) (n : Nat) (f : StepSt → StepSt) : State :=
  { s with steps := s.steps.map (fun x => if x.step.toNat == n then f x else x) }

/-- R110, R361, R638: has step n opened here, and not only before a start that left it to open again? -/
def State.opened (s : State) (n : Nat) : Bool := decide (n ≤ s.openStep) && (decide (n ≤ s.committedStep) || (s.stepSt n).isSome)

/-- A message from this module. -/
def State.send (s : State) (dst : Nat) (tag : Nat) (b : MsgBody) : State :=
  { s with inject := s.inject ++ [{ dst := BitVec.ofNat 12 dst, src := BitVec.ofNat 12 s.coord, hops := 0, tag := BitVec.ofNat 16 tag, body := b }] }

/-- The coordinate of the tree root (R567). -/
def State.rootCoord (s : State) : Nat := s.rf .router R.ROUTER_ROOT_CFG 11 0

/-- R622: the module fails step n: FAILED in its verdict word and, the first time, an abort to the tree root. A step that
has not opened on the module fails at its opening (R118; DEDUCED, log entry 20). -/
def State.failStep (s : State) (n : Nat) : State :=
  match s.stepSt n with
  | none =>
    if !s.opened n then { s with earlyFail := if s.earlyFail.contains (BitVec.ofNat 64 n) then s.earlyFail else s.earlyFail ++ [BitVec.ofNat 64 n] }
    else s
  | some x =>
    if x.word.getLsbD 2 then s
    else
      let s := s.modStep n (fun x => { x with word := x.word ||| 4#32 })
      s.send s.rootCoord 0 (.abort (BitVec.ofNat 64 n) false)

/-- R625: a trigger marks the step most recently opened SUSPECT until it commits; a report marks none while no step is open
(R692, State.marks). -/
def State.suspect (s : State) : State :=
  match s.stepSt s.openStep with
  | none => s
  | some x =>
    if x.word.getLsbD 1 then s
    else (s.modStep s.openStep (fun x => { x with word := x.word ||| 2#32 })).count .rel R.REL_SUSPECT_STEPS 1

/-- R625: one more corrected error in the tile SRAM or a scratch of tile t in the open step; the first beyond CE_THRESH of stack
S(4t) marks the step. -/
def State.tileCe (s : State) (t : Nat) : State :=
  match s.stepSt s.openStep with
  | none => s
  | some x =>
    let n := SMap.get (fun _ => 0) x.ce t + 1
    let s := s.modStep s.openStep (fun x => { x with ce := SMap.set (fun _ => 0) x.ce t n })
    if s.rf (.base (stackOf (4 * t))) R.BASE_ECC_CFG 31 16 < n then s.suspect else s

/-- R485, R488: a stack has corrected a word; more than CE_THRESH in a step are reported to the Umpire (R625), once. -/
def State.countCe (s : State) (st : StackId) (addr : Nat) : State :=
  let s := (s.count (.base st) R.BASE_ECC_CE_CNT 1).errAt (.base st) E.BASE_ECC_CE addr
  let x := s.catchSt st
  let n := x.ce + 1
  let told := x.ceTold || decide (s.rf (.base st) R.BASE_ECC_CFG 31 16 < n)
  let s := s.setCatch st { x with ce := n, ceTold := told }
  if told && !x.ceTold then (s.err (.base st) E.BASE_CE_THRESH).suspect else s

/-- A digest list with a term added at index i. -/
def addAt (l : List W64) (i : Nat) (v : W64) : List W64 := modNth (fun x => x + v) l i

/-- R627: terms added to the OUT digest of logical tile l in the current run of step n. -/
def State.addOut (s : State) (n l : Nat) (v : W64) : State :=
  s.modStep n (fun x => { x with runs := modNth (fun r => { r with outs := addAt r.outs l v }) x.runs (x.run - 1) })

/-- R628: terms added to the IN digest of the current run of step n. -/
def State.addIn (s : State) (n : Nat) (v : W64) : State :=
  s.modStep n (fun x => { x with runs := modNth (fun r => { r with inn := r.inn + v }) x.runs (x.run - 1) })

/-- R626: the terms of the 8-byte words that bytes written at address a fill, unwritten bytes entering as 0. -/
def wordTerms (a : Nat) (bs : List Byte) : W64 :=
  let lead := a % 8
  let padded := List.replicate lead 0#8 ++ bs
  ((words64 padded).zip (List.range (cdiv padded.length 8))).foldl
    (fun acc w => acc + wordTerm (BitVec.ofNat 64 (a - lead + 8 * w.2)) (BitVec.ofNat 64 w.1)) 0

/-! Host region. -/

/-- R489: the end of the host region, which starts at address 0. -/
def State.hostEnd (s : State) : Nat := s.rf .mod R.MOD_HOST_CFG 4 0 * 0x800000000

end Sys2Proof.Machine
end

