-- ==== Sys2Proof/Machine/Operands.lean ====
section
/-! DEFINITION. Operand forms: packed elements of every format code (R184 to R189), block scales (R187, R188, R229, R236),
channel records (R247 to R253, R797), and the conversion of one element to a target format (R197). -/

namespace Sys2Proof.Machine

/-- R189: bytes that n elements of a row take: 6-bit elements in groups of 4, 4-bit elements in pairs. -/
def rowBytes (code n : Nat) : Nat :=
  match elemBits code with
  | 6 => cdiv n 4 * 3
  | 4 => cdiv n 2
  | b => n * (b / 8)

/-- R189: element number k of packed bytes. -/
def elemAt (code : Nat) (bs : List Byte) (k : Nat) : Nat :=
  match elemBits code with
  | 6 => fld (ofLe ((bs.drop (3 * (k / 4))).take 3)) (6 * (k % 4) + 5) (6 * (k % 4))
  | 4 => fld (ofLe ((bs.drop (k / 2)).take 1)) (4 * (k % 2) + 3) (4 * (k % 2))
  | b => ofLe ((bs.drop (k * (b / 8))).take (b / 8))

/-- Elements of packed bytes, n of them, taken in one pass. -/
def unpack (code n : Nat) (bs : List Byte) : List Nat :=
  let v := ofLe bs
  let b := elemBits code
  match b with
  | 6 => (List.range n).map (fun k => fld v (24 * (k / 4) + 6 * (k % 4) + 5) (24 * (k / 4) + 6 * (k % 4)))
  | _ => (List.range n).map (fun k => fld v (b * k + b - 1) (b * k))

/-- R189: elements packed into bytes, the last group padded with zero bits. -/
def pack (code : Nat) (es : List Nat) : List Byte :=
  let b := elemBits code
  let v := (es.reverse).foldl (fun acc e => acc * 2 ^ b + e % 2 ^ b) 0
  leBytes (rowBytes code es.length) v

/-- The number that one stored element holds, as a value before any scale: R185 for floats, q for the integer codes. -/
def elemInt (code q : Nat) : Int :=
  match code with
  | 10 => sgn 8 q
  | 11 => sgn 8 q
  | 12 => sgn 4 q
  | 13 => (q : Int)
  | 14 => sgn 32 q
  | _ => sgn 16 q

/-- R185, R186: the value of an element without block scale or channel record; TBI8 is q * 2^-6. -/
def elemVal (code q : Nat) : Val :=
  match fpOf code with
  | some f => fpDecode f q
  | none =>
    if code = 10 then
      let x := sgn 8 q
      .fin (decide (x < 0)) x.natAbs (-6)
    else Val.ofInt (elemInt code q)

/-- R187: the value of a scale code; none is NaN. SCALE_TYPE 0 is E8M0, 1 is UE5M3. -/
def scaleVal (ty c : Nat) : Val :=
  if c = 0xFF then .nan
  else if ty = 0 then .fin false 1 ((c : Int) - 127)
  else
    let e := c / 8
    let m := c % 8
    if e = 0 then .fin false m (-17) else .fin false (8 + m) ((e : Int) - 18)

/-- R187, R188: the value of a TB element under its block's scale. -/
def tbVal (code q ty c : Nat) : Val :=
  match scaleVal ty c with
  | .nan => .nan
  | sc =>
    if sc.isZero then .fin (q.testBit (elemBits code - 1)) 0 0 else (elemVal code q).mul sc

/-- R184, R236: the largest finite element value of a TB format, 127/64 for TBI8. -/
def tbMax (code : Nat) : Val :=
  match fpOf code with
  | some f => fpDecode f f.maxCode
  | none => .fin false 127 (-6)

/-- The magnitude of a value. -/
def Val.abs : Val → Val
  | .nan => .nan
  | .inf _ => .inf false
  | .fin _ m e => .fin false m e

/-- Is a at most b? -/
def Val.le (a b : Val) : Bool := a.cmp b != 1
/-- The smaller of two values. -/
def Val.min (a b : Val) : Val := if a.cmp b == 1 then b else a
/-- The larger of two values. -/
def Val.max (a b : Val) : Val := if a.cmp b == -1 then b else a

/-- R236: the scale Feather chooses for a block whose largest finite magnitude is m. -/
def featherScale (m vmax : Val) (ty : Nat) : Nat :=
  if m.isZero then (if ty = 0 then 0x7F else 0x78)
  else if ty = 0 then
    match (List.range 255).find? (fun c => m.le (vmax.mul (scaleVal 0 c))) with
    | some c => c
    | none => 254
  else
    match (List.range 254).find? (fun i => m.le (vmax.mul (scaleVal 1 (i + 1)))) with
    | some i => i + 1
    | none => 0xFE

/-- R247: a channel record: FP32 scale and zero point. -/
structure ChanRec where
  scale : W32
  zp : Int
deriving DecidableEq, Repr

/-- R247: a channel record from its 8 bytes. -/
def ChanRec.ofBytes (bs : List Byte) : ChanRec :=
  { scale := BitVec.ofNat 32 (recFld bs 0 4 31 0), zp := sgn 16 (recFld bs 4 2 15 0) }

/-- The 8 bytes of a channel record. -/
def ChanRec.bytes (r : ChanRec) : List Byte := leBytes 4 r.scale.toNat ++ leBytes 4 (wrap 16 r.zp)

/-- R249: qmin of an integer format. -/
def qMin (code : Nat) : Int :=
  match code with
  | 11 => -128 | 12 => -8 | 13 => 0 | 14 => -2147483648 | 15 => -32768 | _ => -128
/-- R249: qmax of an integer format. -/
def qMax (code : Nat) : Int :=
  match code with
  | 11 => 127 | 12 => 7 | 13 => 255 | 14 => 2147483647 | 15 => 32767 | _ => 127

/-- The exact quotient of a finite value by a positive finite value, as sign and magnitude. -/
def Val.quot (a b : Val) : Bool × Mag :=
  match a, b with
  | .fin s m e, .fin _ n f => (s, .ratio m (if n = 0 then 1 else n) (e - f))
  | _, _ => (false, .ratio 0 1 0)

/-- A positive exact magnitude rounded up to FP32 (R250, toward plus infinity). -/
def roundUp32 (g : Mag) : W32 :=
  let (c, _) := fpRoundMag fp32 1 0 g
  let below := f32v (BitVec.ofNat 32 c)
  match below, g with
  | .fin _ m e, .ratio n d k =>
    -- the truncated value equals the quotient exactly, or the next code is the rounding up
    let exact : Bool := decide (Val.cmp (.fin false (m * d) e) (.fin false n k) = 0)
    if exact then BitVec.ofNat 32 c else BitVec.ofNat 32 (c + 1)
  | _, _ => BitVec.ofNat 32 c

/-- R250: the record that a row's finite range [lo, hi] gives, lo at most 0 and hi at least 0. -/
def recordOf (code : Nat) (lo hi : Val) : ChanRec :=
  let sc : W32 :=
    if hi.cmp lo == 1 then
      match hi.add lo.neg with
      | .fin _ m e => roundUp32 (.ratio m (qMax code - qMin code).toNat e)
      | _ => 0x3F800000#32
    else 0x3F800000#32
  let (_, g) := lo.neg.quot (f32v sc)
  let r : Int := (roundAt g 0 0 0 : Nat)
  let zp := qMin code + r
  { scale := sc, zp := if zp < qMin code then qMin code else if zp > qMax code then qMax code else zp }

/-- R250: the first pass over a row of FP32 values. -/
def firstPass (code : Nat) (xs : List Val) : ChanRec :=
  let z : Val := .fin false 0 0
  let fin := xs.filter Val.isFin
  recordOf code (fin.foldl Val.min z) (fin.foldl Val.max z)

/-- R251, R797: q := round(x / SCALE) + ZP, clamped (R195); a NaN gives ZP and a saturation event. A record whose SCALE is zero, infinite or
NaN divides as IEEE 754 does (DEDUCED, log entry 198). -/
def quantise (code : Nat) (r : ChanRec) (mode : Nat) (draw : W32) (x : Val) : Nat × Ev :=
  let bits := elemBits code
  let put (q : Int) : Nat × Ev :=
    if q < qMin code then (wrap bits (qMin code), .sat)
    else if q > qMax code then (wrap bits (qMax code), .sat)
    else (wrap bits q, .none)
  let limit (neg : Bool) : Nat × Ev := (wrap bits (if neg then qMin code else qMax code), .sat)
  match x, f32v r.scale with
  | .nan, _ => (wrap bits r.zp, .sat)
  | _, .nan => (wrap bits r.zp, .sat)
  | .inf _, .inf _ => (wrap bits r.zp, .sat)
  | .inf s, .fin t _ _ => limit (s != t)
  | .fin _ _ _, .inf _ => put r.zp
  | .fin s m e, .fin t n f =>
    if n = 0 then (if m = 0 then (wrap bits r.zp, .sat) else limit (s != t))
    else
      let a : Int := (roundAt (.ratio m n (e - f)) 0 mode draw : Nat)
      put ((if s != t then -a else a) + r.zp)

/-- R186: scale * (q - zp), exact. -/
def dequant (code : Nat) (r : ChanRec) (q : Nat) : Val := (f32v r.scale).mul (Val.ofInt (elemInt code q - r.zp))

/-- R197, R195, R219: one rounding of an exact value to an element of a format that has no scale and no record:
codes 0x0 to 0x4, and 0xD raw, 0xE and 0xF. -/
def toPlain (code mode : Nat) (draw : W32) (x : Val) : Nat × Ev :=
  match fpOf code with
  | some f =>
    let (c, ev) := fpRound f mode draw x
    (c, ev)
  | none =>
    let (n, ev) := intRound (qMin code) (qMax code) mode draw x
    (wrap (elemBits code) n, ev)

/-- The sign of a value that has one. -/
def Val.negative : Val → Bool
  | .nan => false
  | .inf s => s
  | .fin s _ _ => s

/-- R192, R195, R197, R238: one rounding of x / scale to an element of a TB format. Under a scale of 0 every element is a zero of its
sign; under the NaN scale no quotient exists: every element is the format's NaN, or 0 where it has none (DEDUCED; log entry 207), and a NaN is
mapped as R195 maps it. -/
def toTb (code mode : Nat) (draw : W32) (ty c : Nat) (x : Val) : Nat × Ev :=
  match scaleVal ty c with
  | .nan =>
    match fpOf code with
    | some f => (f.nanCode.getD 0, .none)
    | none => (0, if x.isNan then .sat else .none)
  | sc =>
    let quotVal : Bool × Mag := x.quot sc
    match fpOf code with
    | some f =>
      match x with
      | .fin _ _ _ =>
        if sc.isZero then (fpSign f x.negative 0, .none)
        else
          let (m, ev) := fpRoundMag f mode draw quotVal.2
          (fpSign f quotVal.1 m, ev)
      | _ => fpRound f mode draw x
    | none =>
      match x with
      | .fin _ _ _ =>
        if sc.isZero then (0, .none)
        else
        let (n, ev) := intRoundMag (-128) 127 mode draw quotVal.1
          (match quotVal.2 with | .ratio a d e => .ratio a d (e + 6) | .root a e => .root a e)
        (wrap 8 n, ev)
      | .inf s => (wrap 8 (if s then -128 else 127), .sat)
      | .nan => (0, .sat)

/-- R219: the event that an element conversion counts: a rounding that clamped or overflowed, a NaN that nothing brought. -/
def convEv (src : Val) (ev : Ev) : Ev :=
  match ev with
  | .ovf => if src.isFin then .ovf else .none
  | e => e

/-- The FP32 value nearest to an exact value, for the registers and sums that hold FP32. -/
def toW32 (x : Val) : W32 := BitVec.ofNat 32 (fpRound fp32 0 0 x).1

end Sys2Proof.Machine
end

