-- ==== Sys2Proof/Machine/Access.lean ====
section
/-! DEFINITION. The placement of module addresses (R464 to R468), the accesses of units to memory (R36 to R38, R485, R486)
and the tile cache with its loans (R491 to R507). -/

namespace Sys2Proof.Machine

/-! Geometry. -/

/-- An interleave region in force: index, start and size in bytes, near or wide, tile, tile-cached. -/
structure Region where
  index : Nat
  start : Nat
  size : Nat
  near : Bool
  tile : Nat
  cached : Bool
deriving DecidableEq, Repr

/-- 1 GiB. -/
def gib : Nat := 0x40000000

/-- J: the journal size in MiB that a geometry in force uses (R462). -/
def State.journalMib (s : State) : Nat := s.rf (.base 0) R.BASE_JOURNAL_CFG 31 16

/-- R375: NEXT_MIB as it takes effect: a multiple of 64 from 64 to 2,048, the nearest valid value at or below. -/
def effNextMib (v : Nat) : Nat := if v < 64 then 64 else if v > 2048 then 2048 else v / 64 * 64

/-- R462: the usable part of a stack in MiB, for a journal of j MiB. -/
def usableMib (j : Nat) : Nat := 36800 - j

/-- R467, R464: the enabled regions as (index, near, tile, size in GiB, cached), from the registers, for a journal of j MiB. -/
def State.regionSpecs (s : State) (j : Nat) : List (Nat × Bool × Nat × Int × Bool) :=
  let h : Int := 32 * (s.rf .mod R.MOD_HOST_CFG 4 0 : Nat)
  let r0 : Nat × Bool × Nat × Int × Bool := (0, false, 0, h, false)
  if s.rb .mod R.MOD_MEM_LAYOUT 16 then
    r0 :: ((List.range 15).filterMap (fun k =>
      let i := k + 1
      let v := s.rd .mod (R.MOD_REGION + 8 * i)
      if v.testBit 31 then some (i, v.testBit 30, fld v 26 24, ((fld v 10 0 : Nat) : Int), v.testBit 29) else none))
  else
    let n : Int := (s.rf .mod R.MOD_MEM_LAYOUT 7 0 : Nat)
    -- C = 1,150 - J/32 GiB; the last region takes what is left; J is a multiple of 64 MiB (R375)
    let c : Int := 1150 - (j / 32 : Nat)
    if n > 0 then
      r0 :: ((List.range 8).map (fun t => (t + 1, true, t, n, true)) ++ [(9, false, 0, c - h - 8 * n, false)])
    else [r0, (1, false, 0, c - h, false)]

/-- R464: regions laid from address 0 in index order. -/
def layRegions (start : Nat) : List (Nat × Bool × Nat × Int × Bool) → List Region
  | [] => []
  | (i, near, t, sz, ca) :: r =>
    { index := i, start := start, size := sz.toNat * gib, near := near, tile := t, cached := ca } ::
      layRegions (start + sz.toNat * gib) r

/-- The regions in force. -/
def State.regions (s : State) : List Region := layRegions 0 (s.regionSpecs s.journalMib)

/-- The region that contains an address. -/
def State.regionOf (s : State) (a : Nat) : Option Region :=
  s.regions.find? (fun r => decide (r.start ≤ a) && decide (a < r.start + r.size))

/-- R465: bytes of a stack that a region occupies. -/
def Region.part (r : Region) (st : Nat) : Nat :=
  if r.near then (if st / 4 = r.tile then r.size / 4 else 0) else r.size / 32

/-- R465: soff[i][st], in 4 KiB frames. -/
def soff (rs : List Region) (i st : Nat) : Nat :=
  (rs.filter (fun r => decide (r.index < i))).foldl (fun a r => a + r.part st / 4096) 0

/-- Where a byte lies (R468). -/
structure Place where
  stack : Nat
  pc : Nat
  bank : Nat
  row : Nat
  col : Nat
deriving DecidableEq, Repr

/-- mix64 over natural numbers. -/
def mixN (v : Nat) : Nat := (mix64 (BitVec.ofNat 64 v)).toNat

/-- R468, R469: pseudo-channel, bank, row and column of byte o of local frame lf of stack st under a key. -/
def placeLocal (key st lf o : Nat) : Place :=
  let pr := lf / 2
  let h2 := mixN (key ^^^ ((0x80 ||| st) <<< 56) ^^^ pr)
  let pc := (((lf % 2) * 16) ||| (fld o 11 8)) ^^^ (h2 % 32)
  let v := pr / 4
  let row := v / 48
  let h3 := mixN (key ^^^ ((0xC0 ||| st) <<< 56) ^^^ (pc <<< 48) ^^^ row)
  { stack := st, pc := pc, bank := (v % 48 + h3 % 48) % 48, row := row, col := (pr % 4) * 256 + o % 256 }

/-- R468: the place of an address below HBM_TOP. -/
def State.place (s : State) (a : Nat) : Place :=
  let key := s.rd .mod R.MOD_HASH_KEY
  let rs := s.regions
  match s.regionOf a with
  | none => placeLocal key 0 0 a
  | some r =>
    let o := a - r.start
    let f := o / 4096
    if r.near then
      let g := f / 4
      let h := mixN (key ^^^ (r.index <<< 56) ^^^ g)
      let st := 4 * r.tile + ((f % 4) ^^^ (h % 4))
      placeLocal key st (soff rs r.index st + g) o
    else
      let g := f / 32
      let h := mixN (key ^^^ (r.index <<< 56) ^^^ g)
      let st := (f % 32) ^^^ (h % 32)
      placeLocal key st (soff rs r.index st + g) o

/-- The stack of an address. -/
def State.stackOfAddr (s : State) (a : Nat) : StackId := stackOf (s.place a).stack

/-- R693: is a stack fenced? -/
def State.stackFenced (s : State) (st : StackId) : Bool := s.rb (.base st) R.SH_STATUS 4

/-- R693: does the frame of an address lie in a fenced stack? -/
def State.frameFenced (s : State) (a : Nat) : Bool := s.stackFenced (s.stackOfAddr a)

/-- The stacks that n bytes of HBM from a touch (R468: a 4 KiB frame lies in one stack). -/
def State.stacksAt (s : State) (a n : Nat) : List StackId := ((wordsOf 4096 a n).map (fun f => s.stackOfAddr (4096 * f))).eraseDups

/-- R15, R18: do the base dies, with their HBM PHYs, that hold n bytes of HBM from a have lock? -/
def State.stacksUp (s : State) (a n : Nat) : Bool := (s.stacksAt a n).all (fun st => !s.pwr.lost.contains (.base st))

/-- R18: the island that answers an access to an address: the base die of its stack; what is no memory is answered in the mesh. -/
def State.islandOf (s : State) (a : Nat) : Island := if a < s.hbmTop then .base (s.stackOfAddr a) else .mesh

/-- R485, R693, R700: does a read of n bytes of HBM at a return a poisoned response? A word is uncorrectable, a stack is fenced, or an
injection is armed at its checker. -/
def State.hbmBad (s : State) (a n : Nat) : Bool :=
  s.hbmPoisoned a n || (s.stacksAt a n).any (fun st => s.stackFenced st || s.injArmed (.base st) E.BASE_ECC_UE)

/-! What accesses do to a stack (R459, R475, R485, R514). -/

/-- A count of a list one up. -/
def bump (l : List (Nat × Nat)) (k : Nat) : List (Nat × Nat) := SMap.set (fun _ => 0) l k (SMap.get (fun _ => 0) l k + 1)

/-- R459, R475, R514: a 256 B access: PC_ACCESS, the window's count of its pseudo-channel, the activations of its bank. -/
def State.countStripe (s : State) (p : Place) : State :=
  let st := stackOf p.stack
  let x := s.catchSt st
  (s.setCatch st { x with window := bump x.window p.pc, acts := bump x.acts (48 * p.pc + p.bank) }).count (.base st) (R.BASE_PC_ACCESS + 8 * p.pc) 1

/-- R514: the accesses of n bytes at a counted: one per 256 B touched in its pseudo-channel, and the bytes of the stack. A fenced stack
performs none (R693). -/
def State.countAccess (s : State) (a n off : Nat) : State :=
  (wordsOf 256 a n).foldl (fun s k =>
    let p := s.place (256 * k)
    if s.stackFenced (stackOf p.stack) then s
    else (s.countStripe p).count (.base (stackOf p.stack)) off (min (a + n) (256 * k + 256) - max a (256 * k))) s

/-- R469, R514: the same for n bytes at byte o of the DRAM of a stack, in its reserves. -/
def State.countReserve (s : State) (st : StackId) (o n off : Nat) : State :=
  (wordsOf 256 o n).foldl (fun s k =>
    (s.countStripe (placeLocal (s.rd .mod R.MOD_HASH_KEY) st.val (k / 16) (256 * k))).count (.base st) off
      (min (o + n) (256 * k + 256) - max o (256 * k))) s

/-- R485: the ECC of a stack meets a word. -/
def State.seenWord (s : State) (w : Nat) : State :=
  let st := s.stackOfAddr (32 * w)
  match symbolErrs (s.errOf w) with
  | 0 => s
  | 1 => s.countCe st (32 * w)
  | _ => s.stackUe st (32 * w)

/-- The words of a range that hold an error, in rising order, those of fenced stacks left out. -/
def State.errWords (s : State) (a n : Nat) : List Nat :=
  if n = 0 then []
  else (s.memErr.filter (fun e => decide (a / 32 ≤ e.1) && decide (32 * e.1 < a + n) && !s.frameFenced (32 * e.1))).map Prod.fst

/-- R699, R700: an access of a stack meets an armed injection. -/
def State.seenInject (s : State) (a : Nat) (st : StackId) : State :=
  if s.stackFenced st then s
  else if s.injArmed (.base st) E.BASE_ECC_UE then s.stackUe st a
  else if s.injArmed (.base st) E.BASE_ECC_CE then s.countCe st a
  else s

/-- What a read of n bytes of HBM at a does: the ECC of its words, injections, the counters. -/
def State.hbmSeen (s : State) (a n : Nat) : State :=
  let ws := (s.errWords a n).filter (fun w => !s.injArmed (.base (s.stackOfAddr (32 * w))) E.BASE_ECC_UE)
  let s := (s.stacksAt a n).foldl (fun s st => s.seenInject a st) s
  (ws.foldl State.seenWord s).countAccess a n R.BASE_RD_BYTES

/-- The words that a write of n bytes at a covers in part (R460). -/
def edgeWords (a n : Nat) : List Nat := (wordsOf 32 a n).filter (fun w => decide (32 * w < a) || decide (a + n < 32 * w + 32))

/-- The bytes of a write that reach their stacks: those of a fenced stack keep their contents (R693). -/
def State.hbmPut (s : State) (a : Nat) (bs : List Byte) : State :=
  if (s.stacksAt a bs.length).any s.stackFenced then
    (wordsOf 4096 a bs.length).foldl (fun r f =>
      let lo := max a (4096 * f)
      let hi := min (a + bs.length) (4096 * f + 4096)
      if s.frameFenced lo then r else r.hbmWrite lo ((bs.drop (lo - a)).take (hi - lo))) s
  else s.hbmWrite a bs

/-- R460, R485, R514: a write to HBM. A word written in part is read, corrected and merged; an uncorrectable one stays so. -/
def State.hbmStore (s : State) (a : Nat) (bs : List Byte) : State :=
  let es := (edgeWords a bs.length).filter (fun w => s.errOf w != 0#36 && !s.frameFenced (32 * w))
  let s := es.foldl State.seenWord s
  let s := es.foldl (fun s w => if s.wordUe w then s else { s with memErr := SMap.erase s.memErr w }) s
  (s.hbmPut a bs).countAccess a bs.length R.BASE_WR_BYTES

/-! Tile SRAM (R76, R79, R491). -/

/-- R79, R700: does a read of a tile's SRAM return poisoned data? -/
def State.tsramBad (s : State) (tile off n : Nat) : Bool :=
  s.tsramPoisoned tile off n || (decide (0 < n) && s.injArmed (.cox (tileOf tile)) E.COX_TSRAM_UE)

/-- R79: one more corrected word of a tile's SRAM. -/
def State.tsramCe (s : State) (tile addr : Nat) : State :=
  ((s.count (.cox (tileOf tile)) R.COX_TSRAM_CE_CNT 1).errAt (.cox (tileOf tile)) E.COX_TSRAM_CE addr).tileCe tile

/-- What a read of n bytes of a tile's SRAM does: its ECC, injections (R79, R699, R700). -/
def State.tsramSeen (s : State) (tile off n : Nat) : State :=
  let t := tileOf tile
  let a := windowBase (s.logTile tile) + off
  if n = 0 then s
  else if s.tsramBad tile off n then s.errAt (.cox t) E.COX_TSRAM_UE a
  else if s.injArmed (.cox t) E.COX_TSRAM_CE then s.tsramCe tile a
  else s

/-- Sets of a tile cache of c × 64 MiB (R491). -/
def cacheSets (c : Nat) : Nat := 64 * c

/-- A byte of the cache partition of a tile, at offset k from its start: that of the cached tile that lies there. Which 64 KiB slot of the
partition a set and way take no rule says: that is a constant of Config (log entry 203). -/
def State.cacheByte (s : State) (tile k : Nat) : Option Byte :=
  let sets := cacheSets (s.cacheSize tile)
  ((s.cox (tileOf tile)).cache.find? (fun e => Config.cacheSlot sets (e.tag % sets) e.way == k / 0x10000)).map (fun e => Mem.get e.cells (k % 0x10000))

/-- A byte of a tile's window as a unit reads it (R77): the cache partition holds the cached tiles, the Finish reservation what the engine
last placed there, in an order that no rule gives (R379; log entry 204). -/
def State.tsramByte (s : State) (tile o : Nat) : Byte :=
  let raw := Mem.get s.tsram (tsramCell tile o)
  if 0x7C000000 ≤ o then (match (s.fin (tileOf tile)).temp with | some v => Config.reservation v (o - 0x7C000000) | none => raw)
  else if s.softEnd tile ≤ o ∧ o < 0x7A000000 then (s.cacheByte tile (o - s.softEnd tile)).getD raw
  else raw

/-- n bytes of a tile's window as a unit reads them. -/
def State.tsramView (s : State) (tile off n : Nat) : List Byte :=
  if off + n ≤ s.softEnd tile then s.tsramRead tile off n else (List.range n).map (fun i => s.tsramByte tile (off + i))

/-! Accesses of units. -/

/-- The answer to a unit's read: bytes, a poisoned response, or an error response. -/
inductive RdRes where
  | ok (bs : List Byte)
  | poison
  | error
deriving DecidableEq, Repr

/-- An error response to a unit or an unmapped access sets CTL_ACCESS in the MOD page (R37, R38). -/
def State.unmapped (s : State) : State := s.ctlAccess .mod

/-- What a read of n bytes by a unit of the module other than the load and store paths returns (R36 to R38, R485). -/
def State.unitRead (s : State) (a n : Nat) : RdRes :=
  match s.locate a with
  | .hbm _ => if a + n ≤ s.hbmTop then (if s.hbmBad a n then .poison else .ok (s.hbmRead a n)) else .error
  | .tsram t o => if o + n ≤ 0x80000000 then (if s.tsramBad t o n then .poison else .ok (s.tsramView t o n)) else .error
  | _ => .error

/-- What that read does: the ECC of the memory that holds the bytes reports, the stack counts; an access that is not to memory sets
CTL_ACCESS (R37, R38, R79, R485, R514). -/
def State.seen (s : State) (a n : Nat) : State :=
  match s.locate a with
  | .hbm _ => if a + n ≤ s.hbmTop then s.hbmSeen a n else s.unmapped
  | .tsram t o => if o + n ≤ 0x80000000 then s.tsramSeen t o n else s.unmapped
  | _ => s.unmapped

/-- A unit's read: its answer and what it does. -/
def State.readUnit (s : State) (a n : Nat) : RdRes × State := (s.unitRead a n, s.seen a n)

/-- A write of a unit; none where the address is not memory. -/
def State.unitWrite (s : State) (a : Nat) (bs : List Byte) : Option State :=
  match s.locate a with
  | .hbm _ => if a + bs.length ≤ s.hbmTop then some (s.hbmStore a bs) else none
  | .tsram t o => if o + bs.length ≤ 0x80000000 then some (s.tsramWrite t o bs) else none
  | _ => none

/-- R77: does a byte range of a tile's window meet the cache partition, the directory area or the Finish reservation? -/
def State.tsramProtected (s : State) (tile off n : Nat) : Bool := decide (off + n > s.softEnd tile)

/-- R77: a write by a tensor core, a Cox or an Idryn core to tile SRAM; into a protected area it is discarded, all of it where it meets one
in part (DEDUCED; log entry 205). -/
def State.tsramWriteProt (s : State) (tile off : Nat) (bs : List Byte) : State :=
  if s.tsramProtected tile off bs.length then s.errAt (.cox (tileOf tile)) E.COX_TSRAM_PROT (windowBase (s.logTile tile) + off)
  else s.tsramWrite tile off bs

/-- A write by a Cox or an Idryn core: memory, under R77. None where the address is not memory. -/
def State.coreWrite (s : State) (a : Nat) (bs : List Byte) : Option State :=
  match s.locate a with
  | .hbm _ => if a + bs.length ≤ s.hbmTop then some (s.hbmStore a bs) else none
  | .tsram t o => if o + bs.length ≤ 0x80000000 then some (s.tsramWriteProt t o bs) else none
  | _ => none

/-! Loans (R500 to R507). -/

/-- LOAN_ADDR_k. -/
def State.loanBase (s : State) (k : Nat) : Nat := s.rf .mod (R.MOD_LOAN_ADDR + 16 * k) 40 26 * 0x4000000
/-- SIZE_64M of loan k in bytes. -/
def State.loanSize (s : State) (k : Nat) : Nat := s.rf .mod (R.MOD_LOAN_CFG + 16 * k) 26 16 * 0x4000000
/-- EN of loan k. -/
def State.loanOn (s : State) (k : Nat) : Bool := s.rb .mod (R.MOD_LOAN_CFG + 16 * k) 31
/-- LOST of loan k. -/
def State.loanLost (s : State) (k : Nat) : Bool := s.rb .mod (R.MOD_LOAN_CFG + 16 * k) 27

/-- R502: the enabled loan that maps an address. -/
def State.loanOf (s : State) (a : Nat) : Option Nat :=
  (List.range 4).find? (fun k => s.loanOn k && decide (s.loanBase k ≤ a) && decide (a < s.loanBase k + s.loanSize k))

/-- A class-3 request for the 4 KiB sector at a borrower address: its message to the lender, and the record of it. -/
def State.loanRequest (s : State) (tile k a : Nat) (wr : Option (List Byte)) : State :=
  let port : PortId := Fin.ofNat 6 (s.rf .mod (R.MOD_LOAN_CFG + 16 * k) 30 28)
  let off := s.rf .mod (R.MOD_LOAN_CFG + 16 * k) 15 0 * 0x4000000 + (a - s.loanBase k)
  let dst := s.rf (.port port) R.PORT_PORT_STATUS 11 0
  let tag := s.nextTag
  let body : MsgBody := match wr with
    | none => .loanRead (BitVec.ofNat 64 off) 4096
    | some bs => .loanWrite (BitVec.ofNat 64 off) bs
  let s := s.send dst tag.toNat body
  { s with nextTag := tag + 1, loanReqs := s.loanReqs ++ [{ tag := tag, tile := tile, loan := k, addr := a, write := wr.isSome }] }

/-! The tile cache (R491 to R499). -/

/-- Bytes of a 4 KiB sector of a cached tile. -/
def CacheTile.sector (x : CacheTile) (k : Nat) : List Byte := Mem.read x.cells (4096 * k) 4096

/-- R494: a tile written back: an HBM tile as all its valid sectors, a loan tile as its dirty sectors; the tile is then clean. -/
def State.writeBack (s : State) (tile : TileId) (x : CacheTile) : State :=
  if x.dirty = 0 then s
  else
    let base := x.tag * 0x10000
    (List.range 16).foldl (fun s k =>
      if x.loan then
        if x.dirty.testBit k then
          match s.loanOf (base + 4096 * k) with
          | none => s
          | some ln =>
            if s.loanLost ln then s
            else ((s.loanRequest tile.val ln (base + 4096 * k) (some (x.sector k))).count (.cox tile) R.COX_TCACHE_NBR_WB_BYTES 4096).count
              .mod R.MOD_NBR_WB_BYTES 4096
        else s
      else if x.valid.testBit k then (s.hbmStore (base + 4096 * k) (x.sector k)).count (.cox tile) R.COX_TCACHE_WB_BYTES 4096
      else s) s

/-- The cached tile of an address. -/
def Cox.cached (x : Cox) (tag : Nat) : Option CacheTile := x.cache.find? (fun e => e.tag == tag)

/-- A cached tile put first: most recently used. -/
def Cox.putTile (x : Cox) (e : CacheTile) : Cox := { x with cache := e :: x.cache.filter (fun y => !(y.tag == e.tag)) }

/-- R491: a tile gets an entry in its set, in the lowest way that is free; the least recently used of 16 is evicted, written back first
(R494), and gives up its way. -/
def State.cacheAlloc (s : State) (tile : TileId) (tag : Nat) (loan : Bool) : State :=
  match (s.cox tile).cached tag with
  | some e => s.setCox tile ((s.cox tile).putTile e)
  | none =>
    let sets := cacheSets (s.cacheSize tile.val)
    let mine := (s.cox tile).cache.filter (fun e => e.tag % sets == tag % sets)
    let free := ((List.range 16).find? (fun w => mine.all (fun e => e.way != w))).getD 0
    let (s, way) :=
      if mine.length < 16 then (s, free)
      else
        match mine.getLast? with
        | none => (s, free)
        | some e =>
          let s := s.writeBack tile e
          (s.setCox tile { s.cox tile with cache := (s.cox tile).cache.filter (fun y => !(y.tag == e.tag)) }, e.way)
    s.setCox tile ((s.cox tile).putTile { tag := tag, way := way, valid := 0, dirty := 0, loan := loan, cells := [] })

/-- Bytes put in a cached tile at an offset, their sectors marked. -/
def CacheTile.put (x : CacheTile) (off : Nat) (bs : List Byte) (validMask dirtyMask : Nat) : CacheTile :=
  { x with cells := Mem.write x.cells off bs, valid := x.valid ||| validMask, dirty := x.dirty ||| dirtyMask }

/-- How an access through the tile cache stands. -/
inductive CacheRes where
  | ready (s : State)
  | wait (s : State)
  | fail (s : State)
deriving Repr

/-- R486, R493: the sector of address a made valid for a read or a partial write: filled from HBM, or requested from the lender. A poisoned
fill fails. -/
def State.fillSector (s : State) (tile : TileId) (a : Nat) (loan : Option Nat) : CacheRes :=
  let tag := a / 0x10000
  let k := a / 4096 % 16
  let s := s.cacheAlloc tile tag loan.isSome
  match (s.cox tile).cached tag with
  | none => .ready s
  | some e =>
    if e.valid.testBit k then .ready (s.count (.cox tile) R.COX_TCACHE_HITS 1)
    else
      match loan with
      | none =>
        let base := a / 4096 * 4096
        if !s.stacksUp base 4096 then .wait s
        else if s.hbmBad base 4096 then .fail (s.hbmSeen base 4096)
        else
          let e := e.put (4096 * k) (s.hbmRead base 4096) (2 ^ k) 0
          .ready (((s.hbmSeen base 4096).setCox tile ((s.cox tile).putTile e)).count (.cox tile) R.COX_TCACHE_FILLS 1)
      | some ln =>
        if s.loanLost ln then .fail s
        else if s.loanReqs.any (fun q => q.addr == a / 4096 * 4096 && q.tile == tile.val) then .wait s
        else .wait (s.loanRequest tile.val ln (a / 4096 * 4096) none)

/-- How a path serves an address (R492, R499, R505 to R507): through the tile cache, directly, not at all because nothing is mapped there,
or not because the loan is lost or there is no cache to hold it. -/
inductive Route where
  | cached (loan : Option Nat)
  | direct
  | unmapped
  | lost
deriving DecidableEq, Repr

/-- R15, R18: does an access of n bytes at a find the island of its memory locked? -/
def State.memUp (s : State) (a n : Nat) : Bool :=
  match s.locate a with
  | .hbm _ => s.stacksUp a n
  | .tsram t _ => !s.pwr.lost.contains (.tile (tileOf t))
  | _ => true

/-- The route of a path access of n bytes at a that lies within one 64 MiB unit of the HBM range, or in a tile's window. -/
def State.pathRoute (s : State) (tile : TileId) (a n : Nat) : Route :=
  match s.locate a with
  | .hbm _ =>
    if a + n ≤ s.hbmTop then
      (if s.cacheSize tile.val > 0 && (match s.regionOf a with | some r => r.cached | none => false) then .cached none else .direct)
    else .unmapped
  | .above _ =>
    match s.loanOf a with
    | none => .unmapped
    | some k => if s.cacheSize tile.val = 0 || s.loanLost k then .lost else .cached (some k)
  | .tsram _ o => if o + n ≤ 0x80000000 then .direct else .unmapped
  | _ => .unmapped

/-- The pieces of a path access, cut at the 64 MiB units in which regions and loans lie (R464, R502). -/
def pieces (a n : Nat) : List (Nat × Nat) :=
  if a < 0x012000000000 then
    (wordsOf 0x4000000 a n).map (fun k =>
      let lo := max a (0x4000000 * k)
      (lo, min (a + n) (0x4000000 * k + 0x4000000) - lo))
  else [(a, n)]

/-- The sectors that n bytes from a touch. -/
def sectorsOf (a n : Nat) : List Nat := (wordsOf 4096 a n).map (fun k => k * 4096)

/-- Every listed sector made valid; the first that waits or fails ends it. -/
def State.fillSectors (s : State) (tile : TileId) (loan : Option Nat) : List Nat → CacheRes
  | [] => .ready s
  | a :: r =>
    match s.fillSector tile a loan with
    | .ready s => s.fillSectors tile loan r
    | x => x

/-- n bytes of cached tiles from address a. -/
def Cox.cacheRead (x : Cox) (a n : Nat) : List Byte :=
  (List.range n).map (fun i =>
    match x.cached ((a + i) / 0x10000) with
    | some e => Mem.get e.cells ((a + i) % 0x10000)
    | none => 0)

/-- The result of a path access. -/
inductive PathRes (α : Type) where
  | ok (s : State) (x : α)
  | wait (s : State)
  | fail (s : State)
deriving Repr

/-- One piece of a load-path read. -/
def State.pieceRead (s : State) (tile : TileId) (a n : Nat) : PathRes (List Byte) :=
  match s.pathRoute tile a n with
  | .unmapped => .fail s.unmapped
  | .lost => .fail s
  | .direct =>
    if !s.memUp a n then .wait s
    else
      match s.unitRead a n with
      | .ok bs => .ok (s.seen a n) bs
      | _ => .fail (s.seen a n)
  | .cached loan =>
    match s.fillSectors tile loan (sectorsOf a n) with
    | .ready s => .ok s ((s.cox tile).cacheRead a n)
    | .wait s => .wait s
    | .fail s => .fail s

/-- The pieces of a load-path read, in order. -/
def State.piecesRead (s : State) (tile : TileId) : List (Nat × Nat) → PathRes (List Byte)
  | [] => .ok s []
  | (a, n) :: r =>
    match s.pieceRead tile a n with
    | .wait s => .wait s
    | .fail s => .fail s
    | .ok s b =>
      match s.piecesRead tile r with
      | .wait s => .wait s
      | .fail s => .fail s
      | .ok s bs => .ok s (b ++ bs)

/-- A load-path read of n bytes at a (R94, R492, R486). A poisoned or unmapped read fails the stage that asked. -/
def State.pathRead (s : State) (tile : TileId) (a n : Nat) : PathRes (List Byte) :=
  if n = 0 then .ok s [] else s.piecesRead tile (pieces a n)

/-- Bytes written into cached tiles from address a, split at 64 KiB tiles. -/
def State.cachePut (s : State) (tile : TileId) (loan : Bool) (a : Nat) (bs : List Byte) : State :=
  (wordsOf 0x10000 a bs.length).foldl (fun s tag =>
    let lo := max a (tag * 0x10000)
    let hi := min (a + bs.length) (tag * 0x10000 + 0x10000)
    let s := s.cacheAlloc tile tag loan
    match (s.cox tile).cached tag with
    | none => s
    | some e =>
      let mask := (sectorsOf lo (hi - lo)).foldl (fun m x => m ||| 2 ^ (x / 4096 % 16)) 0
      s.setCox tile ((s.cox tile).putTile (e.put (lo % 0x10000) ((bs.drop (lo - a)).take (hi - lo)) mask mask))) s

/-- One piece of a store-path write. -/
def State.pieceWrite (s : State) (tile : TileId) (a : Nat) (bs : List Byte) : PathRes Unit :=
  match s.pathRoute tile a bs.length with
  | .unmapped => .fail s.unmapped
  | .lost => .fail s
  | .direct =>
    if !s.memUp a bs.length then .wait s
    else
    match s.locate a with
    | .tsram t o => .ok (s.tsramWriteProt t o bs) ()
    | _ => .ok (s.hbmStore a bs) ()
  | .cached loan =>
    let part := (sectorsOf a bs.length).filter (fun x => decide (x < a) || decide (a + bs.length < x + 4096))
    match s.fillSectors tile loan part with
    | .ready s => .ok (s.cachePut tile loan.isSome a bs) ()
    | .wait s => .wait s
    | .fail s => .fail s

/-- The pieces of a store-path write of bytes that start at address b, in order. -/
def State.piecesWrite (s : State) (tile : TileId) (b : Nat) (bs : List Byte) : List (Nat × Nat) → PathRes Unit
  | [] => .ok s ()
  | (a, n) :: r =>
    match s.pieceWrite tile a ((bs.drop (a - b)).take n) with
    | .wait s => .wait s
    | .fail s => .fail s
    | .ok s _ => s.piecesWrite tile b bs r

/-- A store-path write of bytes at a (R77, R492, R493). The address of another tile's window was refused at issue (R163). -/
def State.pathWrite (s : State) (tile : TileId) (a : Nat) (bs : List Byte) : PathRes Unit :=
  if bs.length = 0 then .ok s () else s.piecesWrite tile a bs (pieces a bs.length)

/-- Several path writes in order. -/
def State.pathWrites (s : State) (tile : TileId) : List (Nat × List Byte) → PathRes Unit
  | [] => .ok s ()
  | (a, bs) :: r =>
    match s.pathWrite tile a bs with
    | .ok s _ => s.pathWrites tile r
    | .wait s => .wait s
    | .fail s => .fail s

/-- R495: every dirty tile of a tile cache written back; dirty marks cleared. -/
def State.flushCache (s : State) (tile : TileId) : State :=
  let es := (s.cox tile).cache
  let s := es.foldl (fun s e => s.writeBack tile e) s
  s.setCox tile { s.cox tile with cache := (s.cox tile).cache.map (fun e => { e with dirty := 0 }) }

/-- R495: written back, then every entry invalidated. -/
def State.invalCache (s : State) (tile : TileId) : State :=
  let s := s.flushCache tile
  s.setCox tile { s.cox tile with cache := [] }

end Sys2Proof.Machine
end

