-- ==== Sys2Proof/Machine/Rings.lean ====
section
/-! DEFINITION. Command rings (R574 to R588, R801, R802): doorbells, slot reads with their phase and form, INLINE, WAIT_FLAG,
DRAIN and NOP, and the ring registers' actions. -/

namespace Sys2Proof

/-- The page of a ring (R612). -/
def RingId.page : RingId → Page
  | .cox t _ => .cox t
  | .copy e => .copy e

/-- The offset of a ring group beyond ring 0's (R612). -/
def RingId.delta : RingId → Nat
  | .cox _ r => 32 * r.val
  | .copy _ => 0

/-- The number of a ring among the module's rings. -/
def RingId.num : RingId → Nat
  | .cox t r => 4 * t.val + r.val
  | .copy e => 32 + e.val

/-- The clock island of the unit that reads a ring (R14). -/
def RingId.island : RingId → Island
  | .cox t _ => .tile t
  | .copy _ => .mesh

/-- Is it a Cox ring? -/
def RingId.isCox : RingId → Bool
  | .cox _ _ => true
  | .copy _ => false

end Sys2Proof

namespace Sys2Proof.Machine

/-- A ring's state. -/
def State.ring (s : State) (g : RingId) : RingSt := SMap.get (fun _ => RingSt.init) s.rings g.num
/-- A ring's state changes. -/
def State.setRing (s : State) (g : RingId) (x : RingSt) : State :=
  { s with rings := SMap.set (fun _ => RingSt.init) s.rings g.num x }

/-- A register of a ring group. -/
def State.ringRd (s : State) (g : RingId) (off : Nat) : Nat := s.rd g.page (off + g.delta)
/-- A register of a ring group changes. -/
def State.ringWr (s : State) (g : RingId) (off v : Nat) : State := s.wr g.page (off + g.delta) v

/-- HEAD. -/
def State.head (s : State) (g : RingId) : Nat := fld (s.ringRd g R.RING_HEAD) 31 0
/-- ANNOUNCED. -/
def State.announced (s : State) (g : RingId) : Nat := fld (s.ringRd g R.RING_HEAD) 63 32
/-- HEAD and ANNOUNCED take values. -/
def State.setHead (s : State) (g : RingId) (head ann : Nat) : State :=
  s.ringWr g R.RING_HEAD (ann % 2 ^ 32 * 2 ^ 32 + head % 2 ^ 32)
/-- The number of slots (R574, R612). -/
def State.ringSize (s : State) (g : RingId) : Nat := 2 ^ (min (max (fld (s.ringRd g R.RING_CFG) 4 0) 4) 16)
/-- RING_CFG.ENABLE. -/
def State.ringOn (s : State) (g : RingId) : Bool := (s.ringRd g R.RING_CFG).testBit 31
/-- HALTED. -/
def State.halted (s : State) (g : RingId) : Bool := (s.ringRd g R.RING_STATUS).testBit 0

/-- R590: an interrupt to the Idryn interrupt controller; lost while the host is in reset (R605). -/
def State.raiseIrq (s : State) (n : Nat) : State :=
  if s.rb .hostif R.HOSTIF_HOST_CTL 1 then s else { s with irqs := s.irqs ++ [s.rf .hostif R.HOSTIF_INT_BASE 11 0 + n] }

/-- R590: a command with IRQ 1 of a ring completes. -/
def State.cmdIrq (s : State) (g : RingId) (irq : Bool) : State := if irq then s.raiseIrq g.num else s

/-- A ring halts with a cause: it reads no slot; what it had read of a command not yet whole is read again from HEAD. -/
def State.haltRing (s : State) (g : RingId) (cause : Nat) : State :=
  (s.ringWr g R.RING_STATUS (cause * 2 ^ 28 + 1)).setRing g { s.ring g with first := none, reread := false, retries := 0 }

/-! Doorbells and controls. -/

/-- R582, R613: a write of TAIL to RING_DB. -/
def State.doorbell (s : State) (g : RingId) (tail : Nat) : State :=
  if !s.ringOn g then (if g.isCox then s.count g.page R.COX_DB_IGNORED 1 else s)
  else
    let d := (tail + 2 ^ 32 - s.announced g) % 2 ^ 32
    if d = 0 ∨ 2 ^ 31 ≤ d then s
    else if (tail + 2 ^ 32 - s.head g) % 2 ^ 32 > s.ringSize g then s.err .hostif E.HOSTIF_DB_BAD
    else s.setHead g (s.head g) tail

/-- R575, R612: a write of RING_CFG. LOG2_SIZE reads as the nearest limit. -/
def State.ringCfg (s : State) (g : RingId) (v : Nat) : State :=
  let lg := min (max (fld v 4 0) 4) 16
  let base := s.ringRd g R.RING_BASE
  let bytes := 64 * 2 ^ lg
  if v.testBit 31 then
    if base % bytes = 0 ∧ base + bytes ≤ s.hostEnd then s.ringWr g R.RING_CFG (2 ^ 31 + lg)
    else (s.ringWr g R.RING_CFG lg).ctlAccess g.page
  else s.ringWr g R.RING_CFG lg

/-- R802: RESUME clears HALTED; the ring reads again from HEAD with a fresh count of retries. -/
def State.ringResume (s : State) (g : RingId) : State :=
  (s.ringWr g R.RING_STATUS 0).setRing g { s.ring g with first := none, reread := false, retries := 0 }

/-- R612, R802: RESET sets HEAD and ANNOUNCED to 0 while the ring is halted or disabled. -/
def State.ringReset (s : State) (g : RingId) : State :=
  if s.halted g || !s.ringOn g then
    ((s.setHead g 0 0).ringWr g R.RING_STATUS 0).setRing g { s.ring g with first := none, reread := false, retries := 0 }
  else s.ctlAccess g.page

/-! The form of a command (R576 to R578). -/

/-- R587, R586, R577, R594: what a slot's form is: legal, malformed (cause 2), or outside the address limits of R594 (cause 5). -/
inductive SlotForm where
  | ok | bad | addr
deriving DecidableEq, Repr

/-- Does a byte range lie wholly in the software area of a tile SRAM window; own says of tile t's own? -/
def State.inSoftware (s : State) (own : Option TileId) (a n : Nat) : Bool :=
  match s.locate a with
  | .tsram p o => decide (o + n ≤ s.softEnd p) && (match own with | none => true | some t => p == t.val)
  | _ => false

/-- Does a byte range lie in HBM below HBM_TOP and outside the host region? -/
def State.inTensorHbm (s : State) (a n : Nat) : Bool := decide (s.hostEnd ≤ a) && decide (a + n ≤ s.hbmTop)

/-- Does a byte range lie in the host region? -/
def State.inHost (s : State) (a n : Nat) : Bool := decide (a + n ≤ s.hostEnd) && decide (a + n ≤ s.hbmTop)

/-- The fields of a COPY body (R592). -/
structure CopyDesc where
  src : Nat
  dst : Nat
  rowBytes : Nat
  rows : Nat
  srcStride : Nat
  dstStride : Nat
  blkRows : Nat
  blk64 : Nat
  mode : Nat
  flag : Nat
  reserved : Bool
deriving DecidableEq, Repr

/-- R592: a COPY from its body. -/
def CopyDesc.ofBytes (b : List Byte) : CopyDesc :=
  { src := recFld b 0 8 63 0, dst := recFld b 8 8 63 0, rowBytes := recFld b 0x10 4 31 0, rows := recFld b 0x14 4 31 0,
    srcStride := recFld b 0x18 4 31 0, dstStride := recFld b 0x1C 4 31 0, blkRows := recFld b 0x20 4 31 16, blk64 := recFld b 0x20 4 15 0,
    mode := recFld b 0x24 4 1 0, flag := recFld b 0x28 8 63 0, reserved := recFld b 0x24 4 31 2 != 0 }

/-- R800: is a COPY well formed? -/
def CopyDesc.ok (d : CopyDesc) (arg : Nat) : Bool :=
  !d.reserved && decide (1 ≤ d.rowBytes) && decide (1 ≤ d.rows) && arg % 8 == 0 &&
    (match d.mode with
     | 0 => d.rows == 1 && d.srcStride == 0 && d.dstStride == 0 && d.blkRows == 0 && d.blk64 == 0
     | 1 => d.blkRows == 0 && d.blk64 == 0
     | 2 => d.dst % 64 == 0 && d.dstStride == 0 && decide (1 ≤ d.blkRows) && decide (1 ≤ d.blk64) && decide (d.blk64 ≤ 4096)
     | _ => false)

/-- R593: the source pieces of a COPY: address and length of each row. -/
def CopyDesc.sources (d : CopyDesc) : List (Nat × Nat) := (List.range d.rows).map (fun r => (d.src + r * d.srcStride, d.rowBytes))

/-- R593: the bytes that a COPY writes, as one range per row of MODE 0 and 1 and per block row of MODE 2. -/
def CopyDesc.targets (d : CopyDesc) : List (Nat × Nat) :=
  if d.mode = 2 then
    let bw := 64 * d.blk64
    [(d.dst, cdiv d.rows d.blkRows * cdiv d.rowBytes bw * d.blkRows * bw)]
  else (List.range d.rows).map (fun r => (d.dst + r * d.dstStride, d.rowBytes))

/-- R594: do a COPY's data and flag lie where the engine may read and write? -/
def State.copyAddrOk (s : State) (e : CopyId) (d : CopyDesc) (arg : Nat) : Bool :=
  let tensor (x : Nat × Nat) : Bool := s.inTensorHbm x.1 x.2 || s.inSoftware none x.1 x.2
  let host (x : Nat × Nat) : Bool := s.inHost x.1 x.2
  (if e.val < 8 then d.sources.all host && d.targets.all tensor else d.sources.all tensor && d.targets.all host) &&
    (arg == 0 || decide (arg + 8 ≤ s.hbmTop) || s.inSoftware none arg 8)

/-- The reserved fields and ranges of a TRAIN body (R98). -/
def trainBodyOk (b : List Byte) : Bool :=
  recFld b 0x10 4 31 21 == 0 && decide (recFld b 0x10 4 19 16 ≤ 3) && recFld b 0x14 4 31 16 == 0 && recFld b 0x28 8 63 0 == 0 &&
    recFld b 0x18 8 63 0 % 64 == 0

/-- R578: the form of a command, its slots whole in index order. ring is the ring that read it. -/
def State.slotForm (s : State) (g : RingId) (hdr : Nat) (c : RingCmd) : SlotForm :=
  let chain := fld hdr 15 12
  let fields := fld hdr 61 32 == 0 && fld hdr 11 8 == 0
  let plain := chain == 0 && c.len == 0
  if !fields then .bad
  else
    match c.opcode with
    | 0x01 => if g.isCox && plain && c.arg == 0 && trainBodyOk c.body then .ok else .bad
    | 0x02 =>
      match g with
      | .cox t _ =>
        if decide (1 ≤ c.len) && decide (c.len ≤ 256) && decide (chain + 1 = cdiv c.len 48) &&
            (s.inSoftware (some t) c.arg c.len || s.inTensorHbm c.arg c.len) then .ok else .bad
      | _ => .bad
    | 0x03 =>
      let inWin := match g, s.locate c.arg with | .cox t _, .tsram p _ => p == t.val | _, _ => false
      if plain && c.arg % 8 == 0 && (decide (c.arg + 8 ≤ s.hbmTop) || inWin) && recFld c.body 0x10 4 31 2 == 0 &&
          recFld c.body 0x10 4 1 0 != 3 && ((c.body.drop 0x18).all (fun b => b == 0#8)) then .ok else .bad
    | 0x04 => if plain && c.arg == 0 && c.body.all (fun b => b == 0#8) then .ok else .bad
    | 0x05 => if plain && c.arg == 0 && c.body.all (fun b => b == 0#8) then .ok else .bad
    | 0x10 =>
      match g with
      | .copy e =>
        let d := CopyDesc.ofBytes c.body
        if !(plain && d.ok c.arg) then .bad
        else if s.copyAddrOk e d c.arg then .ok else .addr
      | _ => .bad
    | _ => .bad

/-! Reading slots (R583 to R585, R801, R802). -/

/-- R579: the expected phase of slot n. -/
def State.phaseOf (s : State) (g : RingId) (n : Nat) : Bool := (n / s.ringSize g) % 2 == 0

/-- May the ring read a slot (R583, R791, R802)? -/
def State.mayRead (s : State) (g : RingId) : Bool :=
  s.enabled g.page && s.ringOn g && !s.halted g && (s.ring g).cmd.isNone && (s.ring g).wait.isNone && !(s.ring g).hold

/-- A malformed command: its ring halts, HEAD at its first slot (R578, R594). -/
def State.badSlot (s : State) (g : RingId) (f : SlotForm) : State :=
  let s := if f = .addr then s.haltRing g 5 else s.haltRing g 2
  if g.isCox then s.err .hostif E.HOSTIF_SLOT_BAD
  else s.err g.page (if f = .addr then E.COPY_COPY_ADDR else E.COPY_COPY_SLOT_BAD)

/-- R801: a poisoned or error response to a ring's read. -/
def State.ringUe (s : State) (g : RingId) : State :=
  let s := s.haltRing g 6
  if g.isCox then s.err .hostif E.HOSTIF_RING_UE else s.err g.page E.COPY_COPY_UE

/-- A command read whole: HEAD passes it and it waits to start (R585, R802). -/
def State.acceptCmd (s : State) (g : RingId) (c : RingCmd) (slots : Nat) : State :=
  (s.setHead g (s.head g + slots) (s.announced g)).setRing g { s.ring g with first := none, cmd := some c, reread := false, retries := 0 }

/-- A slot read with its expected phase. -/
def State.goodSlot (s : State) (g : RingId) (bs : List Byte) : State :=
  let s := if g.isCox then s.count g.page R.COX_SLOTS_READ 1 else s
  let s := s.setRing g { s.ring g with reread := false, retries := 0 }
  let hdr := recFld bs 8 8 63 0
  match (s.ring g).first with
  | none =>
    let chain := fld hdr 15 12
    let ready := (s.announced g + 2 ^ 32 - s.head g) % 2 ^ 32
    if ready ≤ chain then s
    else
      let c : RingCmd := { slot := BitVec.ofNat 32 (s.head g), opcode := fld hdr 7 0, arg := recFld bs 0 8 63 0, irq := hdr.testBit 62,
                           len := fld hdr 31 16, body := bs.drop 16 }
      match s.slotForm g hdr c with
      | .ok => if chain = 0 then s.acceptCmd g c 1 else s.setRing g { s.ring g with first := some (c, chain) }
      | f => s.badSlot g f
  | some (c, k) =>
    if recFld bs 0 8 63 0 ≠ 0 ∨ hdr % 2 ^ 63 ≠ 0 then s.badSlot g .bad
    else
      let c := { c with body := c.body ++ bs.drop 16 }
      if k = 1 then s.acceptCmd g c (cdiv c.len 48) else s.setRing g { s.ring g with first := some (c, k - 1) }

/-- The index of the slot that a ring reads next: HEAD, past the slots of the command already read. -/
def State.nextSlot (s : State) (g : RingId) : Nat :=
  match (s.ring g).first with
  | none => s.head g
  | some (c, k) => (s.head g + (cdiv c.len 48 - k)) % 2 ^ 32

/-- R584: the retries that TORN_CFG allows. -/
def State.tornRetries (s : State) (g : RingId) : Nat := max 1 (s.rf g.page R.COX_TORN_CFG 19 16)

/-- One read of the next slot, the first or after a backoff. -/
def State.readSlot (s : State) (g : RingId) : State :=
  let n := s.nextSlot g
  match s.readUnit (s.ringRd g R.RING_BASE / 64 * 64 + 64 * (n % s.ringSize g)) 64 with
  | (.ok bs, s) =>
    if (recFld bs 8 8 63 63 == 1) = s.phaseOf g n then s.goodSlot g bs
    else if (s.ring g).reread && decide (s.tornRetries g ≤ (s.ring g).retries) then
      ((s.haltRing g 1).count g.page R.COX_TORN_CMDS 1).err g.page (if g.isCox then E.COX_TORN_CMD else E.COPY_COPY_TORN)
    else s.setRing g { s.ring g with reread := true }
  | (_, s) => s.ringUe g

/-! Commands of a ring. -/

/-- R588: has every earlier command of a ring completed? -/
def State.ringIdle (s : State) (g : RingId) : Bool :=
  (s.ring g).copies.isEmpty &&
    (match g with
     | .cox t r => !(s.cox t).trains.any (fun tr => tr.ring == r.val)
     | .copy _ => true)

/-- R588: has a ring a command that may start? A DRAIN waits for its ring's earlier commands; a spare starts no train that names a
step (R559). -/
def State.mayStart (s : State) (g : RingId) : Bool :=
  match (s.ring g).cmd with
  | none => false
  | some c =>
    match c.opcode with
    | 0x01 => !s.isSpare || recFld c.body 0x10 4 20 20 == 1
    | 0x04 => s.ringIdle g
    | _ => true

/-- R588: is it a ring's turn? A Cox takes commands from its rings in round-robin order: those before it, from the ring after the last one
served, have none that may start. -/
def State.hasTurn (s : State) (g : RingId) : Bool :=
  match g with
  | .copy _ => true
  | .cox t r =>
    let first := (s.cox t).turn
    (List.range ((r.val + 4 - first % 4) % 4)).all (fun k => !s.mayStart (.cox t (Fin.ofNat 4 (first + k))))

/-- The command that a ring starts, where it has this opcode and it is the ring's turn. -/
def State.cmdOf (s : State) (g : RingId) (op : Nat) : Option RingCmd :=
  match (s.ring g).cmd with
  | some c => if c.opcode = op ∧ s.hasTurn g = true then some c else none
  | none => none

/-- The command of a ring has started: the next ring of its Cox has the turn (R588). -/
def State.started (s : State) (g : RingId) : State :=
  let s := match g with
    | .cox t r => s.setCox t { s.cox t with turn := (r.val + 1) % 4 }
    | .copy _ => s
  s.setRing g { s.ring g with cmd := none }

/-- R586, R77: INLINE writes its bytes. -/
def State.runInline (s : State) (g : RingId) : State :=
  match s.cmdOf g 0x02 with
  | none => s
  | some c =>
    match (s.started g).coreWrite c.arg (c.body.take c.len) with
    | none => (s.started g).unmapped
    | some s => (s.count g.page R.COX_INLINE_BYTES c.len).cmdIrq g c.irq

/-- R587: WAIT_FLAG starts polling. -/
def State.runWait (s : State) (g : RingId) : State :=
  match s.cmdOf g 0x03 with
  | none => s
  | some c =>
    let s := s.started g
    s.setRing g { s.ring g with wait := some {
      arg := c.arg, value := recFld c.body 0 8 63 0, mask := recFld c.body 8 8 63 0, cmp := recFld c.body 0x10 4 1 0,
      timeoutUs := recFld c.body 0x14 4 31 0, irq := c.irq } }

/-- R587: does a flag meet a WAIT_FLAG's condition? -/
def FlagWait.holds (w : FlagWait) (flag : Nat) : Bool :=
  let x := flag &&& w.mask
  match w.cmp with
  | 0 => x == w.value
  | 1 => decide (w.value ≤ x)
  | _ => x != w.value

/-- R587, R801: one poll of the flag. -/
def State.pollFlag (s : State) (g : RingId) : State :=
  match (s.ring g).wait with
  | none => s
  | some w =>
    let s := s.count g.page R.COX_FLAG_POLLS 1
    match s.readUnit w.arg 8 with
    | (.ok bs, s) => if w.holds (ofLe bs) then (s.setRing g { s.ring g with wait := none }).cmdIrq g w.irq else s
    | (_, s) => (s.setRing g { s.ring g with wait := none }).ringUe g

/-- R577, R590: a command that performs nothing of its own completes. -/
def State.finishCmd (s : State) (g : RingId) (op : Nat) : State :=
  match s.cmdOf g op with
  | none => s
  | some c => (s.started g).cmdIrq g c.irq


/-- DOORBELL (R582). -/
def execDoorbell (g : RingId) (tail : W32) (s : State) : Out := s.live (s.doorbell g tail.toNat)

/-- SLOT_READ (R583): an announced slot is read, unless the ring waits for a re-read of one. -/
def execSlotRead (g : RingId) (s : State) : Out :=
  s.liveIn g.island (if s.mayRead g && !(s.ring g).reread && decide (s.head g ≠ s.announced g) then s.readSlot g else s)

/-- SLOT_REREAD (R584): after the backoff. -/
def execSlotReread (g : RingId) (s : State) : Out :=
  s.liveIn g.island (
    if s.mayRead g && (s.ring g).reread then
      ((s.count g.page R.COX_SLOT_REREADS 1).setRing g { s.ring g with retries := (s.ring g).retries + 1 }).readSlot g
    else s)

/-- INLINE (R586). -/
def execInlineBody (g : RingId) (s : State) : Out := s.liveIn g.island (s.runInline g)
/-- WAIT_FLAG (R587). -/
def execWaitFlag (g : RingId) (s : State) : Out := s.live (s.runWait g)
/-- FLAG_POLL (R587). -/
def execFlagPoll (g : RingId) (s : State) : Out := s.liveIn g.island (s.pollFlag g)

/-- WAIT_TIMEOUT (R587): cause 4, WAIT_TIMEOUT in the HOSTIF page. -/
def execWaitTimeout (g : RingId) (s : State) : Out :=
  s.live (
    match (s.ring g).wait with
    | none => s
    | some w =>
      if w.timeoutUs = 0 then s
      else ((s.setRing g { s.ring g with wait := none }).haltRing g 4).err .hostif E.HOSTIF_WAIT_TIMEOUT)

/-- DRAIN (R588): completes once every earlier command of its ring has. -/
def execDrainCommand (g : RingId) (s : State) : Out := s.live (if s.ringIdle g then s.finishCmd g 0x04 else s)
/-- NOP (R577). -/
def execNopCommand (g : RingId) (s : State) : Out := s.live (s.finishCmd g 0x05)
/-- RING_ENABLE: a write of RING_CFG with ENABLE 1 (R575). -/
def execRingEnable (g : RingId) (v : W32) (s : State) : Out := s.live (s.ringCfg g (setFld v.toNat 31 31 1))
/-- RESUME (R802). -/
def execRingResume (g : RingId) (s : State) : Out := s.live (s.ringResume g)
/-- RESET (R612). -/
def execRingReset (g : RingId) (s : State) : Out := s.live (s.ringReset g)

end Sys2Proof.Machine
end

