-- ==== Sys2Proof/Machine/HostIo.lean ====
section
/-! DEFINITION. Copy engines (R592 to R597), PCIe devices (R599 to R603, R788), host reset (R604 to R607, R787) and die-to-die
links (R610, R611). -/

namespace Sys2Proof.Machine

/-! Recalls (R571). -/

/-- R571: a dirty line of the host region that an Idryn cache gives up; the address and its 64 bytes. -/
def State.recall (s : State) (d : Option (Addr × List Byte)) : State :=
  match d with
  | none => s
  | some (a, bs) =>
    if a.toNat % 64 = 0 ∧ bs.length = 64 ∧ s.inHost a.toNat 64 then
      (s.hbmStore a.toNat bs).count .hostif R.HOSTIF_DIR_RECALLS 1
    else s

/-! Copies. -/

/-- One piece of a copy: source, bytes read there, destination, bytes written (the rest are 0). -/
structure Move where
  src : Nat
  n : Nat
  dst : Nat
  width : Nat
deriving DecidableEq, Repr

/-- A run of bytes cut into moves of at most 64 B. -/
def movesOf (src dst n : Nat) : List Move :=
  (List.range (cdiv n 64)).map (fun i =>
    let k := min 64 (n - 64 * i)
    { src := src + 64 * i, n := k, dst := dst + 64 * i, width := k })

/-- R593: the moves of a COPY in the order of its pseudocode. -/
def CopyDesc.moves (d : CopyDesc) : List Move :=
  if d.mode = 2 then
    let bw := 64 * d.blk64
    let nc := cdiv d.rowBytes bw
    (List.range (cdiv d.rows d.blkRows)).flatMap (fun rb =>
      (List.range nc).flatMap (fun cb =>
        (List.range d.blkRows).map (fun k =>
          let r := rb * d.blkRows + k
          { src := d.src + r * d.srcStride + cb * bw, n := if r < d.rows then min bw (d.rowBytes - cb * bw) else 0,
            dst := d.dst + (rb * nc + cb) * d.blkRows * bw + k * bw, width := bw })))
  else (List.range d.rows).flatMap (fun r => movesOf (d.src + r * d.srcStride) (d.dst + r * d.dstStride) d.rowBytes)

/-- The read of a move's source: its bytes with the zeros behind them, none where it is poisoned or fails, and what the read does. -/
def State.moveBytes (s : State) (m : Move) : Option (List Byte) × State :=
  if m.n = 0 then (some (List.replicate m.width 0#8), s)
  else
    match s.readUnit m.src m.n with
    | (.ok bs, s) => (some (bs ++ List.replicate (m.width - m.n) 0#8), s)
    | (_, s) => (none, s)

/-- Moves read in order, as far as the first whose source fails: its place among them, if any. Those whose place is below lim are written. -/
def State.doMoves (s : State) (lim k : Nat) : List Move → Option Nat × State
  | [] => (none, s)
  | m :: ms =>
    match s.moveBytes m with
    | (some bs, s) => (if k < lim then (s.unitWrite m.dst bs).getD s else s).doMoves lim (k + 1) ms
    | (none, s) => (some k, s)

/-- The bytes that moves read and write, counted (R615). -/
def State.countMoves (s : State) (e : CopyId) (ms : List Move) : State :=
  (s.count (.copy e) R.COPY_BYTES_READ (ms.foldl (fun n m => n + m.n) 0)).count (.copy e) R.COPY_BYTES_WRITTEN (ms.foldl (fun n m => n + m.width) 0)

/-- COPY (R593, R596, R597): the engine's command starts and its data moves. On a poisoned source the ring halts with cause 6 at
the command after the copy; how many of the moves before the poisoned one were made is a free value. -/
def execCopyData (e : CopyId) (dirty : Option (Addr × List Byte)) (s : State) : Out :=
  s.liveIn .mesh (
    let g := RingId.copy e
    match s.cmdOf g 0x10 with
    | none => s
    | some c =>
      let s := (s.recall dirty).started g
      let ms := (CopyDesc.ofBytes c.body).moves
      match s.doMoves ms.length 0 ms with
      | (none, s) =>
        let s := s.countMoves e ms
        s.setRing g { s.ring g with copies := (s.ring g).copies ++ [CopyJob.mk c.slot c.arg (BitVec.ofNat 64 (CopyDesc.ofBytes c.body).flag) c.irq] }
      | (some k, _) =>
        let (v, s) := s.fresh
        let n := v.toNat % (k + 1)
        let s := (s.doMoves n 0 ms).2.countMoves e (ms.take n)
        let s := s.setRing g { s.ring g with cmd := none, first := none, wait := none }
        ((s.setHead g (c.slot.toNat + 1) (s.announced g)).haltRing g 6).err (.copy e) E.COPY_COPY_UE)

/-- COPY_COMPLETE (R590, R596): the oldest accepted copy of the engine is visible and its flag is written. -/
def execCopyComplete (e : CopyId) (s : State) : Out :=
  s.liveIn .mesh (
    let g := RingId.copy e
    match (s.ring g).copies with
    | [] => s
    | j :: rest =>
      let s := s.setRing g { s.ring g with copies := rest }
      let s := if j.arg = 0 then s else (s.unitWrite j.arg (leBytes 8 j.flag.toNat)).getD s.unmapped
      (s.count (.copy e) R.COPY_DESCS_DONE 1).cmdIrq g j.irq)

/-! Host reset. -/

/-- The rings of the module. -/
def allRings : List RingId :=
  (List.finRange 8).flatMap (fun t => (List.finRange 4).map (RingId.cox t)) ++ (List.finRange 16).map .copy

/-- A root port's link leaves the active state (R599). -/
def State.dropLink (s : State) (p : Fin 4) : State :=
  if s.linkDown.contains p.val then s else ({ s with linkDown := NSet.add s.linkDown p.val }).err .hostif E.HOSTIF_PCIE_LINK_DOWN

/-- HOST_RESET (R604, R605, R607, R787): the rings halt with cause 3, pending interrupts are lost, the links go down. -/
def State.hostReset (s : State) : State :=
  if s.rb .hostif R.HOSTIF_HOST_CTL 1 then s
  else
    let s := (s.wb .hostif R.HOSTIF_HOST_CTL 1 true).count .hostif R.HOSTIF_HOST_RESETS 1
    let s := allRings.foldl (fun s g => s.haltRing g 3) s
    let s := (List.finRange 4).foldl State.dropLink s
    { s with irqs := [] }

/-- HOST_RESET. -/
def execHostReset (s : State) : Out := s.live s.hostReset

/-- HOST_RESET_END (R787): IN_RESET reads 0. -/
def execHostResetEnd (s : State) : Out := s.live (s.wb .hostif R.HOSTIF_HOST_CTL 1 false)

/-! PCIe devices. -/

/-- R600: a device access outside the host region is refused. -/
def State.dmaRefused (s : State) : State :=
  (s.err .hostif E.HOSTIF_DMA_REFUSED).count .hostif R.HOSTIF_DMA_REFUSED_CNT 1

/-- DEVICE_WRITE (R63, R600, R601, R607): a posted write of a device below port p; lost while the port's link is down, refused while the
HOSTIF block is not enabled. -/
def execDeviceWrite (p : Fin 4) (a : W64) (bs : List Byte) (s : State) : Out :=
  s.liveIn (.pcie p) (
    if s.linkDown.contains p.val then s
    else if !s.enabled .hostif then s.err .hostif E.WORK_REFUSED
    else if s.inHost a.toNat bs.length then (s.hbmStore a.toNat bs).count .hostif (R.HOSTIF_PCIE_IN_BYTES + 16 * p.val) bs.length
    else s.dmaRefused)

/-- R485, R693, R700: does a read of HBM word w not get its bytes? -/
def State.wordLost (s : State) (w : Nat) : Bool :=
  s.wordUe w || s.frameFenced (32 * w) || s.injArmed (.base (s.stackOfAddr (32 * w))) E.BASE_ECC_UE

/-- The bytes of a poisoned completion: those of an uncorrectable 32-byte word are free values (R788). -/
def State.poisonedBytes (s : State) (a : Nat) : List Byte → List Byte × State
  | [] => ([], s)
  | b :: bs =>
    if s.wordLost (a / 32) then
      let (v, s) := s.fresh
      let (r, s) := s.poisonedBytes (a + 1) bs
      (v.setWidth 8 :: r, s)
    else
      let (r, s) := s.poisonedBytes (a + 1) bs
      (b :: r, s)

/-- DEVICE_READ (R63, R600, R601, R788): the answer stands in lastDevice: completed or Unsupported Request, the bytes, Poisoned. -/
def execDeviceRead (p : Fin 4) (a : W64) (n : Nat) (dirty : Option (Addr × List Byte)) (s : State) : Out :=
  s.liveIn (.pcie p) (
    if s.linkDown.contains p.val then s
    else if !s.enabled .hostif then { s.err .hostif E.WORK_REFUSED with lastDevice := (false, [], false) }
    else if s.inHost a.toNat n then
      let s := (s.recall dirty).count .hostif (R.HOSTIF_PCIE_OUT_BYTES + 16 * p.val) n
      let bad := s.hbmBad a.toNat n
      let (bs, r) := s.poisonedBytes a.toNat (s.hbmRead a.toNat n)
      { r.hbmSeen a.toNat n with lastDevice := (true, bs, bad) }
    else { s.dmaRefused with lastDevice := (false, [], false) })

/-- PCIE_COMPLETION_TIMEOUT (R602): an Idryn request to a device completes with an error response. -/
def execPcieCompletionTimeout (_p : Fin 4) (s : State) : Out :=
  s.live { s.err .hostif E.HOSTIF_PCIE_CTO with lastResp := ⟨false, 0⟩ }

/-- PCIE_LINK_DOWN (R599). -/
def execPcieLinkDown (p : Fin 4) (s : State) : Out := s.live (s.dropLink p)

/-- PCIE_LINK_UP (R607, R787): a link trains only while the host is not in reset. -/
def execPcieLinkUp (p : Fin 4) (s : State) : Out :=
  s.liveIn (.pcie p) (if s.rb .hostif R.HOSTIF_HOST_CTL 1 then s else { s with linkDown := s.linkDown.filter (fun x => x != p.val) })

/-! Die-to-die links: 0 and 1 join the Idryn dies to their mesh stops, 2 joins the dies (R610). -/

/-- R611: a retrain counts and sets D2D_RETRAIN. -/
def State.d2dRetrain (s : State) (k failed : Nat) : State :=
  (({ s with d2d := (s.d2d.filter (fun (x : Nat × Nat) => x.1 != k)) ++ [(k, failed)] }).count .hostif R.HOSTIF_D2D_RETRAINS 1).err .hostif E.HOSTIF_D2D_RETRAIN

/-- D2D_RETRAIN (R611). -/
def execD2dRetrain (k : Fin 3) (s : State) : Out := s.live (s.d2dRetrain k.val 0)

/-- D2D_RETRAIN_DONE (R611). -/
def execD2dRetrainDone (k : Fin 3) (s : State) : Out := s.live { s with d2d := s.d2d.filter (fun (x : Nat × Nat) => x.1 != k.val) }

/-- D2D_RETRAIN_TIMEOUT (R611): repeated once, then D2D_FAIL. -/
def execD2dRetrainTimeout (k : Fin 3) (s : State) : Out :=
  s.live (
    match s.d2d.find? (fun x => x.1 == k.val) with
    | none => s
    | some (_, 0) => s.d2dRetrain k.val 1
    | some _ => ({ s with d2d := s.d2d.filter (fun (x : Nat × Nat) => x.1 != k.val) }).err .hostif E.HOSTIF_D2D_FAIL)

end Sys2Proof.Machine
end

