-- ==== Sys2Proof/Machine/TableOps.lean ====
section
/-! DEFINITION. The tables of R66 to R74: where each stands, the contents that the basic controls imply (R58, R74, R126,
R329, R330, R483, R545, R698, R720, R731), the word in force, and the checks of an activation (R688, R719, R482, R795). -/

namespace Sys2Proof

namespace TableId

/-- The page of a table's group (R73). -/
def page : TableId → Page
  | .bfd t => .cox t
  | .crd s => .base s
  | .lrcBase s => .base s
  | .lrcFin t => .fin t
  | .rfc s => .base s
  | .pcc => .pwr
  | .frt => .flt
  | .rt => .router

/-- The offset of a table's group in its page. -/
def off : TableId → Nat
  | .lrcBase _ => 0x8020
  | .rfc _ => 0x8040
  | _ => 0x8000

/-- R73: 64-bit words per bank. -/
def words : TableId → Nat
  | .bfd _ => 64
  | .crd _ => 512
  | .lrcBase _ => 256
  | .lrcFin _ => 256
  | .rfc _ => 8
  | .pcc => 16
  | .frt => 1024
  | .rt => 4096

/-- R73: is the table activated at the opening of a step? The others are immediate. -/
def byStep : TableId → Bool
  | .bfd _ => true
  | .crd _ => true
  | .lrcBase _ => true
  | .lrcFin _ => true
  | _ => false

/-- R73: is the table loadable with EXPERT 0? -/
def basic : TableId → Bool
  | .lrcBase _ => true
  | .lrcFin _ => true
  | .pcc => true
  | .rt => true
  | _ => false

/-- The key of a table in the state: the offset of its group in register space. -/
def key (tb : TableId) : Nat := tb.page.addr + tb.off

/-- The tables of the module. -/
def all : List TableId :=
  (List.finRange 8).map .bfd ++ (List.finRange 32).flatMap (fun s => [.crd s, .lrcBase s, .rfc s]) ++
    (List.finRange 8).map .lrcFin ++ [.pcc, .frt, .rt]

/-- The table whose group holds an offset of a page. -/
def atOff (p : Page) (o : Nat) : Option TableId :=
  match p with
  | .cox t => if 0x8000 ≤ o ∧ o < 0x8020 then some (.bfd t) else none
  | .base s =>
    if 0x8000 ≤ o ∧ o < 0x8020 then some (.crd s)
    else if 0x8020 ≤ o ∧ o < 0x8040 then some (.lrcBase s)
    else if 0x8040 ≤ o ∧ o < 0x8060 then some (.rfc s) else none
  | .fin t => if 0x8000 ≤ o ∧ o < 0x8020 then some (.lrcFin t) else none
  | .pwr => if 0x8000 ≤ o ∧ o < 0x8020 then some .pcc else none
  | .flt => if 0x8000 ≤ o ∧ o < 0x8020 then some .frt else none
  | .router => if 0x8000 ≤ o ∧ o < 0x8020 then some .rt else none
  | _ => none

end TableId

end Sys2Proof

namespace Sys2Proof.Machine

/-! The contents that the basic controls imply. -/

/-- R329: word j of derived Catch rule descriptor d. Of descriptors 10 to 63 the rule gives VALID 0 and no more; all their words are 0
here (DESIGN CHOICE; log entry 225). -/
def crdDerived (sfmt rnd d j : Nat) : Nat :=
  if 10 ≤ d then 0
  else
    match j with
    | 0 => 2 ^ 63 + rnd * 2 ^ 18 + rnd * 2 ^ 16 + (if d = 6 ∨ d = 7 ∨ d = 9 then 2 ^ 12 else 0) + (if d = 4 then 0 else sfmt) * 16 + d
    | 1 => (if d = 7 ∨ d = 9 then 0x3C23D70A else 0) * 2 ^ 32 + 0x3F800000
    | 2 => 0x3F7FBE77 * 2 ^ 32 + 0x3F666666
    | 3 => 0x322BCC77
    | 5 => 0x41200000 * 2 ^ 32 + 0x3F800000
    | 6 => 0x3F800000
    | _ => 0

/-- R483: the refresh curve at cold start: TEMP [15:8], ACTION [7:5], THROTTLE [4:0]. -/
def rfcDerived (k : Nat) : Nat :=
  let w (t : Int) (a h : Nat) : Nat := wrap 8 t * 256 + a * 32 + h
  match k with
  | 0 => w (-40) 0 0 | 1 => w 85 1 0 | 2 => w 89 2 0 | 3 => w 91 3 8 | 4 => w 92 3 16 | 5 => w 93 3 24 | 6 => w 94 3 30
  | _ => w 95 4 31

/-- R720: the power-cap curve at cold start: CAP_W [27:16], TEMP [15:8]. The rule gives points 0 to 3 and the TEMP of point 4, which ends
the curve; CAP_W 1,800 of point 4, and the same words from 5 to 15, are the model's (DESIGN CHOICE; log entry 224). -/
def pccDerived (k : Nat) : Nat :=
  let w (t : Int) (c : Nat) : Nat := c * 2 ^ 16 + wrap 8 t * 256
  match k with
  | 0 => w (-40) 2800 | 1 => w 95 2400 | 2 => w 100 2000 | _ => w 103 1800

/-- R675: the slot of a page in the source index. -/
def slotOf : Page → Nat
  | .mod => 0 | .pwr => 1 | .clk => 2 | .flt => 3 | .rel => 4 | .hrd => 5 | .cox _ => 6 | .core _ => 7 | .base _ => 8
  | .port _ => 9 | .router => 10 | .copy _ => 11 | .gather _ => 12 | .fin _ => 13 | .hostif => 14

/-- R698, R731: the derived reaction word of source k under FLT_BASIC. -/
def frtDerived (basic k : Nat) : Nat :=
  let slot := k / 32
  let b := k % 32
  let ue := fld basic 2 2
  let heat := if basic.testBit 1 then 3 else 1
  let hold := if basic.testBit 0 then 2 else 3
  let w (c r su : Nat) : Nat := c * 16 + su * 8 + r
  if 15 ≤ slot then 0
  else if b = E.TBL_LOAD ∨ b = E.DRAIN_TIMEOUT then w 2 1 0
  else
    match slot with
    | 0 => if b = E.MOD_GEO_BAD ∨ b = E.MOD_NBR_LOST then w 2 1 0 else w 2 0 0
    | 1 =>
      if b = E.PWR_THERM_TRIP ∨ b = E.PWR_UNDERVOLT ∨ b = E.PWR_OVERVOLT ∨ b = E.PWR_RAIL_FAULT then w 4 4 0
      else if b = E.PWR_THERM_LIMIT ∨ b = E.PWR_SENSOR_FAIL ∨ b = E.PWR_CAP_MISS then w 4 1 0 else w 2 0 0
    | 2 =>
      if b = E.CLK_REF_LOST ∨ b = E.CLK_PLL_UNLOCK then w 1 4 0 else if b = E.CLK_REF_DRIFT then w 4 1 0 else w 2 0 0
    | 3 => if b = E.FLT_WIRE_FAULT then w 5 1 1 else if b = E.FLT_COLL_LINK then w 1 4 0 else w 2 0 0
    | 4 =>
      if b = E.REL_HEAT_FAIL ∨ b = E.REL_ODD_TILE then w 6 heat 0
      else if b = E.REL_UNRESOLVED ∨ b = E.REL_STOPPED ∨ b = E.REL_FAIL_LIMIT ∨ b = E.REL_CREW_SPLIT ∨ b = E.REL_CREW_ODD ∨
          b = E.REL_HEAT_LATE ∨ b = E.REL_GOAL_MISS then w 6 1 0
      else w 2 0 0
    | 6 => if b = E.COX_TSRAM_CE then w 0 0 0 else if b = E.COX_TSRAM_UE then w 1 1 ue else w 2 0 0
    | 7 => if b = E.CORE_SCRATCH_CE then w 0 0 0 else if b = E.CORE_SCRATCH_UE then w 1 1 ue else w 2 0 0
    | 8 =>
      if b = E.BASE_ECC_CE then w 0 0 0 else if b = E.BASE_ECC_UE then w 1 1 ue
      else if b = E.BASE_CATCH_TEAR ∨ b = E.BASE_RESTORE_FAIL ∨ b = E.BASE_ROW_TORN then w 1 1 0
      else if b = E.BASE_JOURNAL_REC_BAD then w 1 2 0
      else if b = E.BASE_TEMP_THROTTLE then w 4 0 0
      else if b = E.BASE_TEMP_TRIP ∨ b = E.BASE_TEMP_READ then w 4 1 0
      else if b = E.BASE_HASH_SKEW then w 2 1 0 else w 2 0 0
    | 9 =>
      if b = E.PORT_CRC_ERR ∨ b = E.PORT_FEC_UNCORR ∨ b = E.PORT_RETRAIN ∨ b = E.PORT_ACK_TIMEOUT ∨ b = E.PORT_RETRY_THRESH then w 0 0 0
      else if b = E.PORT_LINK_FAULT ∨ b = E.PORT_TRAIN_FAIL ∨ b = E.PORT_MISCABLE then w 3 hold 0 else w 2 0 0
    | 10 => if b = E.ROUTER_TSYNC_LOST ∨ b = E.ROUTER_BARRIER_TIMEOUT then w 3 1 0 else w 2 0 0
    | 11 => if b = E.COPY_COPY_UE then w 1 1 0 else w 2 0 0
    | 13 => if b = E.FIN_RESTORE_FAIL ∨ b = E.FIN_DJ_REC_BAD then w 1 1 0 else w 2 0 0
    | 14 =>
      if b = E.HOSTIF_RING_UE ∨ b = E.HOSTIF_PCIE_UNCORR ∨ b = E.HOSTIF_PCIE_LINK_DOWN ∨ b = E.HOSTIF_PCIE_CTO then w 1 1 0
      else if b = E.HOSTIF_D2D_FAIL then w 1 4 0 else w 2 0 0
    | _ => w 2 0 0

/-- The contents that a cold start gives a table, its basic controls at their Reset column (R74). -/
def tblCold (tb : TableId) (k : Nat) : W64 :=
  BitVec.ofNat 64 (match tb with
    | .bfd _ => 0
    | .crd _ => crdDerived 0 0 (k / 8) (k % 8)
    | .lrcBase _ => 0x3A83126F * 2 ^ 32
    | .lrcFin _ => 0x3A83126F * 2 ^ 32
    | .rfc _ => rfcDerived k
    | .pcc => pccDerived k
    | .frt => frtDerived 7 k
    | .rt => if k = 0 then 0xE000_0000_0000_0000 else 0)

/-- The bits of word k of a table that have a meaning; the others are reserved (R126, R327, R331, R480, R719, R688, R545). -/
def tblMask (tb : TableId) (k : Nat) : W64 :=
  match tb with
  | .bfd _ => if k % 2 = 0 then 0x0000_000F_0000_0FEF else 0xFFFF_FFFF_FFFF_FFFF
  | .crd _ =>
    match k % 8 with
    | 0 => 0x8000_0000_000F_1FFF
    | 6 => 0xFFFF_FFFF
    | 7 => 0
    | _ => 0xFFFF_FFFF_FFFF_FFFF
  | .lrcBase _ => 0xFFFF_FFFF_FFFF_FFFF
  | .lrcFin _ => 0xFFFF_FFFF_FFFF_FFFF
  | .rfc _ => 0xFFFF
  | .pcc => 0x0FFF_FF00
  | .frt => 0x7F
  | .rt => 0xFFC0_0000_0000_0000

/-- R58, R783: the contents that the basic controls as they stand imply. -/
def State.tblDerived (s : State) (tb : TableId) (k : Nat) : W64 :=
  match tb with
  | .crd st =>
    let rnd := s.rf (.base st) R.BASE_CATCH_CFG 1 0
    BitVec.ofNat 64 (crdDerived (s.rf (.base st) R.BASE_CATCH_CFG 4 4) rnd (k / 8) (k % 8))
  | .frt => BitVec.ofNat 64 (frtDerived (s.rd .flt R.FLT_FLT_BASIC) k)
  | _ => tblCold tb k

/-! The table of the state. -/

/-- A table. -/
def State.tbl (s : State) (tb : TableId) : TableSt := SMap.get (fun _ => TableSt.init) s.tables tb.key
/-- A table changes. -/
def State.setTbl (s : State) (tb : TableId) (x : TableSt) : State :=
  { s with tables := SMap.set (fun _ => TableSt.init) s.tables tb.key x }

/-- Bank b of a table. -/
def TableSt.bank (x : TableSt) (b : Bool) : List (Nat × W64) := if b then x.bank1 else x.bank0
/-- Bank b of a table changes. -/
def TableSt.setBank (x : TableSt) (b : Bool) (m : List (Nat × W64)) : TableSt :=
  if b then { x with bank1 := m } else { x with bank0 := m }

/-- Word k of bank b. -/
def TableSt.wordAt (tb : TableId) (x : TableSt) (b : Bool) (k : Nat) : W64 := SMap.get (tblCold tb) (x.bank b) k

/-- Word k of the bank in use. -/
def State.tblWord (s : State) (tb : TableId) (k : Nat) : Nat := ((s.tbl tb).wordAt tb (s.tbl tb).active k).toNat

/-- The words of the shadow bank. -/
def State.shadowWords (s : State) (tb : TableId) : List W64 :=
  (List.range tb.words).map (fun k => (s.tbl tb).wordAt tb (!(s.tbl tb).active) k)

/-- R58, R783: both banks take the derived contents and a pending activation is cancelled; ACTIVE_BANK stays. R783 says so of the pages of
R57; at an enable of another page the same is done here (DEDUCED; log entry 223). -/
def State.rederive (s : State) (tb : TableId) : State :=
  let m := SMap.setAll (tblCold tb) [] ((List.range tb.words).map (fun k => (k, s.tblDerived tb k)))
  s.setTbl tb { s.tbl tb with bank0 := m, bank1 := m, pending := false }

/-- The tables of a page. -/
def tablesOf (p : Page) : List TableId :=
  match p with
  | .cox t => [.bfd t]
  | .base st => [.crd st, .lrcBase st, .rfc st]
  | .fin t => [.lrcFin t]
  | .pwr => [.pcc]
  | .flt => [.frt]
  | .router => [.rt]
  | _ => []

/-- R58: the registers of a page's expert region take what they hold at reset: no basic control shapes one of them. -/
def State.rederiveRegs (s : State) (p : Page) : State :=
  p.rows.foldl (fun s r =>
    if 0x8000 ≤ r.off then
      (List.range r.count).foldl (fun s i =>
        let o := r.off + i * r.stride
        s.wr p o ((s.rd p o - (s.rd p o &&& r.rw)) + ((regDefault (p.addr + o)).toNat &&& r.rw))) s
    else s) s

/-- R58, R783: the expert region of a page takes its derived contents; a table that is loadable with EXPERT 0 stays. -/
def State.rederivePage (s : State) (p : Page) : State :=
  (tablesOf p).foldl (fun s tb => if tb.basic then s else s.rederive tb) (s.rederiveRegs p)

/-! Checks of an activation. -/

/-- R795: is a block-format descriptor legal? -/
def bfdLegal (w0 w1 : Nat) : Bool :=
  fld w0 63 36 == 0 && fld w0 31 12 == 0 && !w0.testBit 4 && decide (fld w0 11 10 ≠ 3) && decide (fld w0 9 8 < 2) &&
    !(decide (10 ≤ fld w0 3 0) && decide (fld w0 3 0 ≤ 13) && decide (w1 % 64 ≠ 0))

/-- R688: is a reaction word legal for source k? -/
def frtLegal (k w : Nat) : Bool :=
  let cls := fld w 6 4
  let react := fld w 2 0
  let slot := k / 32
  let b := k % 32
  let subject :=
    decide (6 ≤ slot) && decide (slot ≤ 9) || slot == 11 || slot == 12 || slot == 13 ||
      (slot == 3 && b == E.FLT_WIRE_FAULT) || (slot == 4 && (b == E.REL_HEAT_FAIL || b == E.REL_ODD_TILE))
  w >>> 7 == 0 && decide (cls ≠ 7) && (decide (cls ≠ 5) || k == 97) && decide (react ≤ 4) &&
    (subject || (decide (react ≠ 2) && decide (react ≠ 3))) && (decide (slot < 15) || w == 0)

/-- R719: is a word of the power-cap curve legal? -/
def pccLegal (w : Nat) : Bool :=
  w >>> 28 == 0 && w % 256 == 0 && decide (1800 ≤ fld w 27 16) && decide (fld w 27 16 ≤ 2800)

/-- The points of a curve in force: those before the first whose key is not above its predecessor's (R330, R719, R481). -/
def curvePoints (key : Nat → Int) : List Nat → List Nat
  | [] => []
  | [a] => [a]
  | a :: b :: r => if key a < key b then a :: curvePoints key (b :: r) else [a]

/-- R481: the point in force of n points at a temperature t: the last one at or below it, or point 0; the point in force before stays
while t is not below its TEMP - 2. -/
def curvePoint (n : Nat) (temp : Nat → Int) (old : Nat) (t : Int) : Nat :=
  let k := ((List.range n).filter (fun k => decide (temp k ≤ t))).getLastD 0
  if k < old ∧ old < n ∧ temp old - 2 ≤ t then old else k

/-- Does a table accept the words of its shadow bank at an activation? R719 checks every word of the power-cap curve (DEDUCED; log entry 53). -/
def tblAccepts (tb : TableId) (ws : List Nat) : Bool :=
  match tb with
  | .bfd _ => (List.range 32).all (fun d => bfdLegal (nth 0 ws (2 * d)) (nth 0 ws (2 * d + 1)))
  | .frt => (ws.zip (List.range 1024)).all (fun w => frtLegal w.2 w.1)
  | .pcc => ws.all pccLegal
  | .rfc _ => ws.all (fun w => decide (fld w 7 5 ≤ 4))
  | _ => true

/-- R69, R72: an activation takes effect: the banks swap. -/
def State.swapBanks (s : State) (tb : TableId) : State :=
  s.setTbl tb { s.tbl tb with active := !(s.tbl tb).active, pending := false }

/-! Block-format descriptors (R126). -/

/-- R126: descriptor d in force on a tile; AGE_M1 + 1 as age, BLOCK as a number of elements. -/
def State.bfd (s : State) (t : TileId) (d : Nat) : Bfd :=
  let w := s.tblWord (.bfd t) (2 * d)
  { fmt := fld w 3 0, block := 16 * 2 ^ fld w 6 5, scaleType := fld w 7 7, scaleSel := fld w 9 8, round := fld w 11 10,
    age := fld w 35 32 + 1, priv := s.tblWord (.bfd t) (2 * d + 1) }

/-- R229: bytes of a block of B elements of a TB format. -/
def blockBytes (code b : Nat) : Nat :=
  match elemBits code with
  | 6 => 3 * b / 4
  | 4 => b / 2
  | _ => b

/-! The refresh curve (R480 to R482, R726). -/

/-- R480: TEMP of point k of a stack's refresh curve in force. -/
def State.rfcTemp (s : State) (st : StackId) (k : Nat) : Int := sgn 8 (fld (s.tblWord (.rfc st) k) 15 8)
/-- R480: ACTION of a point. -/
def State.rfcAction (s : State) (st : StackId) (k : Nat) : Nat := fld (s.tblWord (.rfc st) k) 7 5

/-- R480: the points of the curve. -/
def State.rfcPoints (s : State) (st : StackId) : Nat :=
  (curvePoints (fun w => sgn 8 (fld w 15 8)) ((List.range 8).map (fun k => s.tblWord (.rfc st) k))).length

/-- R481: the point in force at a temperature, from the point in force before. -/
def State.rfcPoint (s : State) (st : StackId) (old : Nat) (t : Int) : Nat :=
  curvePoint (s.rfcPoints st) (s.rfcTemp st) old t

/-- R726: is a stack under refresh action 3 or 4? -/
def State.stackHot (s : State) (st : StackId) : Bool := decide (3 ≤ s.rfcAction st (s.catchSt st).tempPoint)

/-- R726: therm_alert_n, with the hottest die at hot. -/
def State.showAlert (s : State) (hot : Int) : State :=
  let hotStack := (List.finRange 32).any (fun st => s.stackHot st)
  { s with pwr := { s.pwr with
      alert := if 100 ≤ hot || hotStack then true else if hot < 97 && !hotStack then false else s.pwr.alert } }

/-- R482, R726: the action of the point in force; its report is made when it comes into force, with its point or by a new curve. -/
def State.actTemp (s : State) (st : StackId) (moved : Bool) : State :=
  let x := s.catchSt st
  let a := s.rfcAction st x.tempPoint
  let s := (s.setCatch st { x with tempAct := a }).showAlert (sgn 8 (s.rf .pwr R.PWR_PWR_STATUS 15 8))
  if !moved && a == x.tempAct then s
  else if a = 3 then s.err (.base st) E.BASE_TEMP_THROTTLE
  else if a = 4 then s.err (.base st) E.BASE_TEMP_TRIP
  else s

end Sys2Proof.Machine
end

