-- ==== Sys2Proof/Machine/Rows.lean ====
section
/-! DEFINITION. Embedding rows: the layout and placement of R267 to R275, the checks of a table descriptor (R268), the digest
term of R641, poisoned rows (R362, R363). -/

namespace Sys2Proof.Machine

/-! Table descriptors (R267, R268). -/

/-- R270: W, the bytes of a row's weights. -/
def TDesc.w (d : TDesc) : Nat := alignUp (d.elems * (elemBits d.wfmt / 8)) 8
/-- STRIDE in bytes. -/
def TDesc.bytes (d : TDesc) : Nat := 32 * d.stride

/-- A descriptor from its 64-byte image. -/
def TDesc.ofBytes (b : List Byte) : TDesc :=
  let w := recFld b 0x18 4 31 0
  let v := recFld b 0x1C 4 31 0
  { base := recFld b 0 8 63 0, rows := recFld b 8 8 39 0, blockRows := recFld b 0x10 8 39 0, gchk := w.testBit 30, place := fld w 29 28,
    fixY := fld w 27 24, wfmt := fld w 23 20, elems := fld w 10 0, stride := fld v 31 24, rule := fld v 23 18, stateBytes := fld v 11 0 }

/-- R273: the owner y and the local index of a row. -/
def TDesc.owner (d : TDesc) (ny n : Nat) : Nat × Nat :=
  match d.place with
  | 0 => (n % ny, n / ny)
  | 1 => (n / d.blockRows, n % d.blockRows)
  | _ => (d.fixY, n)

/-- R274: the address of local row l in the owner's HBM. -/
def TDesc.addr (d : TDesc) (l : Nat) : Nat :=
  let f := 4096 / d.bytes
  d.base + l / f * 4096 + l % f * d.bytes

/-- Rows of the table in the shard of owner y. -/
def TDesc.shardRows (d : TDesc) (ny y : Nat) : Nat :=
  match d.place with
  | 0 => if d.rows ≤ y then 0 else (d.rows - y + ny - 1) / ny
  | 1 => min d.blockRows (d.rows - y * d.blockRows)
  | _ => if y = d.fixY then d.rows else 0

/-- R21, R22: rows of the table in this module's shard; a module with z above 0 holds none. -/
def State.ownRows (s : State) (d : TDesc) : Nat := if s.ownZ = 0 then d.shardRows s.ny s.ownY else 0

/-- The end of a shard of r rows. -/
def TDesc.shardEnd (d : TDesc) (r : Nat) : Nat := if r = 0 then d.base else d.addr (r - 1) + d.bytes

/-- R268: is an image with VALID 1 accepted? -/
def State.tdescOk (s : State) (b : List Byte) : Bool :=
  let d := TDesc.ofBytes b
  recFld b 8 8 63 40 == 0 && recFld b 0x10 8 63 40 == 0 && recFld b 0x18 4 19 11 == 0 && recFld b 0x1C 4 17 12 == 0 &&
    (b.drop 0x20).all (fun x => x == 0#8) && decide (d.place < 3) && [0, 1, 2, 3, 4, 11].contains d.wfmt && decide (1 ≤ d.rows) &&
    decide (8 ≤ d.elems) && decide (d.elems ≤ 1024) && decide (1 ≤ d.stride) && decide (d.stride ≤ 128) &&
    decide (24 + d.w + d.stateBytes ≤ d.bytes) && d.base % 4096 == 0 && decide (d.shardEnd (s.ownRows d) ≤ s.hbmTop) &&
    (d.place != 2 || decide (d.fixY < s.ny)) && (d.place != 1 || decide (d.rows ≤ d.blockRows * s.ny))

/-- The descriptor in force of a valid table. -/
def State.tdesc (s : State) (table : Nat) : Option TDesc := (s.tdescs.find? (fun e => e.1 == table)).map Prod.snd

/-! Rows (R269). -/

/-- SEQ. -/
def rowSeq (b : List Byte) : Nat := recFld b 0 4 31 0
/-- CHECK. -/
def rowCheck (b : List Byte) : Nat := recFld b 8 4 31 0
/-- POISON. -/
def rowPoison (b : List Byte) : Bool := recFld b 0xC 2 15 15 == 1
/-- SCALE. -/
def rowScale (b : List Byte) : Nat := recFld b 0xE 2 15 0
/-- TSEQ. -/
def rowTseq (b : List Byte) : Nat := recFld b (b.length - 8) 4 31 0
/-- R269: the CRC that CHECK holds. -/
def rowCrc (b : List Byte) : Nat := crc32c ((b.take (b.length - 8)).drop 12)

/-- Bytes with some of them replaced from an offset on. -/
def patch (b : List Byte) (off : Nat) (v : List Byte) : List Byte := b.take off ++ v ++ b.drop (off + v.length)

/-- The number (TABLE << 40) | ROW of a row. -/
def rowKey (table row : Nat) : Nat := table * 2 ^ 40 + row

/-- R641: row_term; CHECK, VTAG and SCALE are bytes 8 to 15 of the row. -/
def rowTerm (table row : Nat) (b : List Byte) : W64 :=
  mix64 (mix64 (BitVec.ofNat 64 (rowKey table row)) ^^^ BitVec.ofNat 64 (recFld b 8 8 63 0))

/-- R641: a row of a stack takes new bytes in place of old ones: RD follows. -/
def State.moveRd (s : State) (st : StackId) (table row : Nat) (old new : List Byte) : State :=
  s.setCatch st { s.catchSt st with rd := (s.catchSt st).rd + rowTerm table row new - rowTerm table row old }

/-! Row locks (R350 to R352). -/

/-- Does what asked for a lock still want or hold it? -/
def State.wants (s : State) (st : StackId) : LockWho → Bool
  | .txn n => (s.catchSt st).txns.any (fun t => t.id == n)
  | .stage tile uid _ => (match (s.cox (tileOf tile)).train uid with | some tr => tr.failed.isNone | none => false)
  | .refresh tile off => (match s.hrd.boundary with | some b => b.refresh.contains (tile, off) | none => false)
  | .remote src tag => s.arrived.any (fun m => m.src == src && m.tag == tag)

/-- The row-lock table and its waiting requests, in arrival order. -/
def State.locks (s : State) (st : StackId) : List RowLock := (s.catchSt st).locks.filter (fun l => s.wants st l.who)

/-- The row-lock table takes new contents. -/
def State.setLocks (s : State) (st : StackId) (ls : List RowLock) : State := s.setCatch st { s.catchSt st with locks := ls }

/-- Is the holder a writer? -/
def LockWho.writer : LockWho → Bool
  | .txn _ => true
  | _ => false

/-- R350, R352: has a table of 4,096 entries room for a lock of the row at an address? -/
def lockRoom (ls : List RowLock) (a : Nat) : Bool :=
  let used := ((ls.filter RowLock.granted).map RowLock.addr).eraseDups
  used.contains a || decide (used.length < 4096)

/-- R350, R352: may a request be granted, given the entries that came before it and all of the table? Requests for one row are granted in
arrival order; a writer shares with no one. -/
def lockFits (before all : List RowLock) (a : Nat) (w : LockWho) : Bool :=
  before.all (fun l => l.addr != a || l.granted) &&
    all.all (fun l => l.addr != a || !l.granted || (!l.who.writer && !w.writer)) && lockRoom all a

/-- R351, R352: a reader asks for the lock of a row. Granted, it reads within this command and releases it; else it waits in the table, in
one place at a time. -/
def State.lockShared (s : State) (st : StackId) (a : Nat) (w : LockWho) : Bool × State :=
  let ls := s.locks st
  let rest := ls.filter (fun l => decide (l.who ≠ w))
  match ls.find? (fun l => l.addr == a && decide (l.who = w)) with
  | some l => if l.granted then (true, s.setLocks st rest) else (false, s)
  | none =>
    if lockFits rest rest a w then (true, if rest.length = (s.catchSt st).locks.length then s else s.setLocks st rest)
    else (false, s.setLocks st (rest ++ [{ addr := a, who := w, granted := false }]))

/-- R352: the first waiting request that can be granted, where a writer may start. -/
def nextLock (write : Bool) (all : List RowLock) : List RowLock → List RowLock → Option RowLock
  | _, [] => none
  | before, l :: r =>
    if !l.granted && (write || !l.who.writer) && lockFits before all l.addr l.who then some l else nextLock write all (before ++ [l]) r

/-- R363: the row at an address is marked poisoned: SEQ := TSEQ and POISON set, every other byte as it stands. -/
def State.poisonRow (s : State) (st : StackId) (table row addr n : Nat) : State :=
  let old := s.hbmRead addr n
  let new := patch (patch old 0 (leBytes 4 (rowTseq old))) 0xC (leBytes 2 (setFld (recFld old 0xC 2 15 0) 15 15 1))
  ((s.hbmStore addr (new.take 16)).moveRd st table row old new).count (.base st) R.BASE_ROWS_POISONED 1

/-- R362: a row found torn outside a rollback. -/
def State.tornRow (s : State) (st : StackId) (table row addr n : Nat) : State :=
  (s.poisonRow st table row addr n).errAt (.base st) E.BASE_ROW_TORN addr

/-- What a home read returns (R285, R286). -/
inductive HomeRes where
  | ok (bs : List Byte)
  | torn | poison | check | ue
  /-- The row's lock is held. -/
  | wait
deriving DecidableEq, Repr

/-- R285, R286: the whole row at an address of this module, under its lock. -/
def State.homeRead (s : State) (w : LockWho) (d : TDesc) (table row addr : Nat) : HomeRes × State :=
  let st := s.stackOfAddr addr
  match s.lockShared st addr w with
  | (false, s) => (.wait, s)
  | (true, s) =>
    let bad := s.hbmBad addr d.bytes
    let b := s.hbmRead addr d.bytes
    let s := s.hbmSeen addr d.bytes
    if bad then (.ue, s)
    else if rowSeq b ≠ rowTseq b then (.torn, s.tornRow st table row addr d.bytes)
    else if rowPoison b then (.poison, s)
    else if d.gchk ∧ rowCheck b ≠ rowCrc b then (.check, s)
    else (.ok b, s)

end Sys2Proof.Machine
end

