-- ==== Sys2Proof/Machine/Approx.lean ====
section
/-! DEFINITION. The instructions with an error bound (R144, R224): VRCP, VRSQRT, VEXP, VLOG. The result is one of the
FP32 grid values within the bound of the exact result; which one is Config.approxPick. -/

namespace Sys2Proof.Machine

/-- FP32 grid value number c of the positive grid with no bound on the exponent: mantissa and exponent. -/
def gridVal (c : Nat) : Nat × Int :=
  if c < 2 ^ 23 then (c, -149) else (2 ^ 23 + c % 2 ^ 23, (c / 2 ^ 23 : Nat) - 150)

/-- The grid value at or below a positive magnitude, and the exponent of the grid spacing there (R224, ulp). -/
def gridFloor (g : Mag) : Nat × Int :=
  let l := g.log2
  let e := if l < -126 then -126 else l
  let k := e - 23
  let (n, _) := g.scaled k
  (((e + 126) * 8388608 + (n : Int)).toNat, k)

/-- Is grid value c within u units of 2^k of n/d * 2^e? -/
def withinUlp (u : Nat) (k : Int) (n d : Nat) (e : Int) (c : Nat) : Bool :=
  let (m, f) := gridVal c
  let lo := if e < f then (if e < k then e else k) else (if f < k then f else k)
  let x : Int := ((n * 2 ^ (e - lo).toNat : Nat) : Int)
  let v : Int := ((m * d * 2 ^ (f - lo).toNat : Nat) : Int)
  let b : Int := ((u * d * 2 ^ (k - lo).toNat : Nat) : Int)
  decide ((v - x).natAbs ≤ b.natAbs)

/-- The grid values within u ulp of n/d * 2^e. -/
def candidates (u n d : Nat) (e : Int) : List Nat :=
  let (c, k) := gridFloor (.ratio n d e)
  ((List.range 9).filterMap (fun i => if c + i < 4 then none else some (c + i - 4))).filter (withinUlp u k n d e)

/-- The result of an instruction with an error bound of u ulp whose exact result is (-1)^neg * n/d * 2^e. -/
def approxResult (opc : Nat) (a : W32) (rnd u : Nat) (neg : Bool) (n d : Nat) (e : Int) : W32 × Ev :=
  let cs := candidates u n d e
  let c := nth 0 cs (Config.approxPick opc a rnd % (if cs.length = 0 then 1 else cs.length))
  if c > 0x7F7FFFFF then
    if rnd = 1 then (BitVec.ofNat 32 (fpSign fp32 neg 0x7F7FFFFF), .sat)
    else (BitVec.ofNat 32 (fpSign fp32 neg 0x7F800000), .ovf)
  else (BitVec.ofNat 32 (fpSign fp32 neg c), .none)

/-- A signed infinity. -/
def inf32 (neg : Bool) : W32 := BitVec.ofNat 32 (fpSign fp32 neg 0x7F800000)
/-- A signed zero. -/
def zero32 (neg : Bool) : W32 := BitVec.ofNat 32 (fpSign fp32 neg 0)

/-- VRCP (R147, R146): 1 / a within 1 ulp. -/
def fRcp (rnd : Nat) (a : W32) : W32 × Ev :=
  match f32v a with
  | .nan => (nan32, .none)
  | .inf s => (zero32 s, .none)
  | .fin s m e => if m = 0 then (inf32 s, .ovf) else approxResult 0x30 a rnd 1 s 1 m (-e)

/-- VRSQRT (R147, R146): 1 / sqrt a within 1 ulp. -/
def fRsqrt (rnd : Nat) (a : W32) : W32 × Ev :=
  match f32v a with
  | .nan => (nan32, .none)
  | .inf s => if s then (nan32, .nan) else (zero32 false, .none)
  | .fin s m e =>
    if m = 0 then (inf32 s, .ovf)
    else if s then (nan32, .nan)
    else
      -- an even exponent, then the root of 2^400 / m
      let (m, e) := if e % 2 = 0 then (m, e) else (2 * m, e - 1)
      approxResult 0x31 a rnd 1 false (isqrt (2 ^ 400 / m)) 1 (-200 - e / 2)

/-- ln 2 in units of 2^-256. -/
def ln2Fix : Nat := 80260960185991308862233904206310070533990667611589946606122867505419956976171

/-- The sum of x^i / i! in units of 2^-256, for 0 ≤ x < 1 in the same units. -/
def expFix (x : Nat) : Nat :=
  ((List.range 64).foldl (fun (p : Nat × Nat) i =>
    let t := p.2 * x / 2 ^ 256 / (i + 1)
    (p.1 + t, t)) (2 ^ 256, 2 ^ 256)).1

/-- 2 * atanh z in units of 2^-256, z in the same units and below 1/2. -/
def atanh2Fix (z : Nat) : Nat :=
  let z2 := z * z / 2 ^ 256
  2 * ((List.range 90).foldl (fun (p : Nat × Nat) i => (p.1 + p.2 / (2 * i + 1), p.2 * z2 / 2 ^ 256)) (0, z)).1

/-- VEXP (R147): e^a within 2 ulp. -/
def fExp (rnd : Nat) (a : W32) : W32 × Ev :=
  match f32v a with
  | .nan => (nan32, .none)
  | .inf s => if s then (zero32 false, .none) else (inf32 false, .none)
  | .fin s m e =>
    if m = 0 then (0x3F800000#32, .none)
    else
      -- |a| in units of 2^-256, bounded: beyond 1024 the result is far outside the range
      let sh : Int := e + 256
      let x : Nat := if sh ≥ 0 then m * 2 ^ (if sh > 300 then 300 else sh).toNat else m / 2 ^ (-sh).toNat
      let x := if x > 1024 * 2 ^ 256 then 1024 * 2 ^ 256 else x
      let k : Nat := x / ln2Fix
      let r : Nat := x % ln2Fix
      -- e^(k ln2 + r) or e^-(k ln2 + r)
      let v := expFix r
      if s then
        -- 1 / (2^k v)
        approxResult 0x34 a rnd 2 false (2 ^ 512 / v) 1 (-256 - (k : Int))
      else approxResult 0x34 a rnd 2 false v 1 ((k : Int) - 256)

/-- VLOG (R147, R146): ln a within 2 ulp. -/
def fLog (rnd : Nat) (a : W32) : W32 × Ev :=
  match f32v a with
  | .nan => (nan32, .none)
  | .inf s => if s then (nan32, .nan) else (inf32 false, .none)
  | .fin s m e =>
    if m = 0 then (inf32 true, .ovf)
    else if s then (nan32, .nan)
    else if Val.cmp (.fin false m e) (.fin false 1 0) = 0 then (0, .none)
    else
      -- a = f * 2^p with 1 ≤ f < 2
      let l := Nat.log2 m
      let p : Int := e + (l : Int)
      -- z = (f - 1) / (f + 1)
      let z := (m - 2 ^ l) * 2 ^ 256 / (m + 2 ^ l)
      let x : Int := p * (ln2Fix : Int) + (atanh2Fix z : Int)
      approxResult 0x35 a rnd 2 (decide (x < 0)) x.natAbs 1 (-256)

end Sys2Proof.Machine
end

