-- ==== Sys2Proof/Machine/Issue.lean ====
section
/-! DEFINITION. How a thread issues an instruction: readiness (R134, R135, R177), the check of the instruction word (R136 to
R138, R141, R142, R148, R149, R176, R789), faults (R182, R183), stage failure (R115), registers (R131) and scratch (R151, R154). -/

namespace Sys2Proof.Machine

/-! Failing a stage and a train. -/

/-- A thread whose train has ended: idle, nothing carried over (R133). -/
def Thread.idle (_ : Thread) : Thread := Thread.init

/-- The operation number and the thread of what waits on a store path. -/
def StoreOp.key : StoreOp → Nat × Nat
  | .spq a => (a.op, a.thread)
  | .vout v => (v.op, v.thread)

/-- A core gives up queued operations: drop says which, by operation number and thread. -/
def Core.dropOps (x : Core) (drop : Nat → Nat → Bool) : Core :=
  { x with
    queue := x.queue.filter (fun m => !drop m.op m.thread)
    running := x.running && (match x.queue with | m :: _ => !drop m.op m.thread | [] => false)
    lpq := x.lpq.filter (fun m => !drop m.op m.thread)
    spq := x.spq.filter (fun m => !drop m.key.1 m.key.2) }

/-- R115, R117: every thread that runs an item of a train goes idle, and its queued operations are dropped; but for thread keep. -/
def Core.dropTrain (x : Core) (uid : Nat) (keep : Option Nat) : Core :=
  let mine (t : Nat) : Bool := match (x.thread t).item with | some it => it.train == uid && decide (keep ≠ some t) | none => false
  (List.range 8).foldl (fun y t => if mine t then y.setThread t Thread.init else y) (x.dropOps (fun _ t => mine t))

/-- A thread gives up its operation op and those it issued after it. -/
def Core.dropFrom (x : Core) (t op : Nat) : Core :=
  let th := x.thread t
  (x.dropOps (fun o u => u == t && decide (op ≤ o))).setThread t { th with outst := th.outst.filter (fun o => decide (o.1 < op)) }

/-- The cores of a tile give up the work of a train; keep is a core and a thread that go on. -/
def State.dropTrainWork (s : State) (t : TileId) (uid : Nat) (keep : Option (CoreId × Nat)) : State :=
  (List.range 16).foldl (fun s c =>
    s.setCore (coreOf t c) ((s.core (coreOf t c)).dropTrain uid (keep.bind (fun k => if k.1 = coreOf t c then some k.2 else none)))) s

/-- A train that has not failed fails with a STATUS (R114): its stages are abandoned, but for the work of thread keep; the record is
written by TRAIN_COMPLETE. The first failure stands. -/
def State.endTrainKeep (s : State) (t : TileId) (uid status stage : Nat) (keep : Option (CoreId × Nat)) : State :=
  match (s.cox t).train uid with
  | none => s
  | some tr =>
    match tr.failed with
    | some _ => s
    | none => (s.modTrain t uid (fun tr => { tr with failed := some (status, stage) })).dropTrainWork t uid keep

/-- A train ends with a STATUS before it completed. -/
def State.endTrain (s : State) (t : TileId) (uid status stage : Nat) : State := s.endTrainKeep t uid status stage none

/-- R115: a stage fails: STAGE_FAULT, STATUS 1, the other stages abandoned, but for the work of thread keep. -/
def State.failStageKeep (s : State) (t : TileId) (uid stage : Nat) (keep : Option (CoreId × Nat)) : State :=
  match (s.cox t).train uid with
  | none => s
  | some tr =>
    match tr.failed with
    | some _ => s
    | none => (s.err (.cox t) E.COX_STAGE_FAULT).endTrainKeep t uid 1 stage keep

/-- R115: a stage fails. -/
def State.failStage (s : State) (t : TileId) (uid stage : Nat) : State := s.failStageKeep t uid stage none

/-- Has the train of a work item failed? -/
def State.itemFailed (s : State) (tile : TileId) (it : Item) : Bool :=
  match (s.cox tile).train it.train with
  | some tr => tr.failed.isSome
  | none => true

/-- A thread of a failed train that has no operation left goes idle. -/
def State.settle (s : State) (c : CoreId) (t : Nat) : State :=
  match (s.thread c t).item with
  | none => s
  | some it => if s.itemFailed (tileOfCore c) it && (s.thread c t).outst.isEmpty then s.setThread c t Thread.init else s

/-- R182, R183: a thread faults: the bit in its CORE page, and its stage fails. The operations that it issued earlier complete. -/
def State.threadFault (s : State) (c : CoreId) (t : ThreadId) (bitNo : Nat) : State :=
  match (s.thread c t.val).item with
  | none => s
  | some it => ((s.err (.core c) bitNo).failStageKeep (tileOfCore c) it.train it.stage (some (c, t.val))).settle c t.val

/-- R182: a thread faults at its operation op, which has no effect; what it issued after it goes with it. -/
def State.opFault (s : State) (c : CoreId) (t op bitNo : Nat) : State :=
  (s.setCore c ((s.core c).dropFrom t op)).threadFault c (Fin.ofNat 8 t) bitNo

/-- Does a thread run an item of a train? -/
def State.trainBusy (s : State) (t : TileId) (uid : Nat) : Bool :=
  (List.range 16).any (fun c => (List.range 8).any (fun th =>
    match (s.thread (coreOf t c) th).item with | some it => it.train == uid | none => false))

/-! Thread registers (R131). -/

/-- Scalar register n; s0 reads 0. -/
def Thread.sget (th : Thread) (n : Nat) : W64 := if n = 0 then 0 else SMap.get (fun _ => 0#64) th.sreg n
/-- A write to a scalar register; one to s0 is discarded. -/
def Thread.sset (th : Thread) (n : Nat) (v : W64) : Thread :=
  if n = 0 then th else { th with sreg := SMap.set (fun _ => 0#64) th.sreg n v }

/-- 64 lanes of 0. -/
def zeroLanes : List W32 := List.replicate 64 0#32

/-- Vector register n. -/
def Thread.vget (th : Thread) (n : Nat) : List W32 := SMap.get (fun _ => zeroLanes) th.vreg n
/-- A write to a vector register. -/
def Thread.vset (th : Thread) (n : Nat) (v : List W32) : Thread :=
  { th with vreg := SMap.set (fun _ => zeroLanes) th.vreg n v }

/-- Mask register n. -/
def Thread.mget (th : Thread) (n : Nat) : W64 := SMap.get (fun _ => 0#64) th.mreg n
/-- A write to a mask register. -/
def Thread.mset (th : Thread) (n : Nat) (v : W64) : Thread :=
  { th with mreg := SMap.set (fun _ => 0#64) th.mreg n v }

/-! The instruction word. -/

/-- Layouts of IMM (R137). -/
inductive Layout where
  | v | s | b | l | q | r | t | w | none
deriving DecidableEq, Repr

/-- What a register field names. -/
inductive RegKind where
  | none | vec | sca | msk
deriving DecidableEq, Repr

/-- What an instruction uses FMT for: nothing but a memory operand of float or integer class (R142), a conversion target
(VCVT), or the format of a scratch vector (VLD, VST, VLDX, VSTX). -/
inductive FmtUse where
  | float | int | any | target | mem | unused
deriving DecidableEq, Repr

/-- The form of an opcode (R147): its layout, what its register fields name, whether operands a and b may come from memory,
FMT, the largest RND (R138, R176), the largest SUB. -/
structure OpForm where
  layout : Layout := .none
  vd : RegKind := .none
  va : RegKind := .none
  vb : RegKind := .none
  vc : RegKind := .none
  memA : Bool := false
  memB : Bool := false
  fmt : FmtUse := .unused
  rnd : Nat := 0
  sub : Nat := 0
  /-- Predication allowed (R148: not in MLOGIC, MNOT, RNGRD). -/
  pred : Bool := true
deriving DecidableEq, Repr

/-- R141: the vector formats. -/
def isVecFmt (f : Nat) : Bool := decide (f ≤ 4) || decide (13 ≤ f)
/-- R142: float-format memory operands. -/
def isFloatFmt (f : Nat) : Bool := decide (f ≤ 4)

/-- A register field is legal for what it names (R136): 0 where it names nothing, bits [4:3] 0 for a mask. -/
def RegKind.ok (k : RegKind) (v : BitVec 5) : Bool :=
  match k with
  | .none => v == 0#5
  | .msk => decide (v.toNat < 8)
  | _ => true

end Sys2Proof.Machine

namespace Sys2Proof
open Machine

/-- P of layouts V, L and T (R137). -/
def VFields.p (f : VFields) : Bool := f.imm.getLsbD 29
/-- PM. -/
def VFields.pm (f : VFields) : Nat := fld f.imm.toNat 28 26
/-- PZ of layouts V and L. -/
def VFields.pz (f : VFields) : Bool := f.imm.getLsbD 25
/-- AM. -/
def VFields.am (f : VFields) : Bool := f.imm.getLsbD 24
/-- BM. -/
def VFields.bm (f : VFields) : Bool := f.imm.getLsbD 23
/-- AOFF. -/
def VFields.aoff (f : VFields) : Nat := fld f.imm.toNat 22 13
/-- BOFF. -/
def VFields.boff (f : VFields) : Nat := fld f.imm.toNat 12 3
/-- SUB. -/
def VFields.sub (f : VFields) : Nat := fld f.imm.toNat 2 0
/-- The signed IMM of layouts S and B. -/
def VFields.simm (f : VFields) : Int := sgn 30 f.imm.toNat
/-- The signed byte offset of layout L. -/
def VFields.loff (f : VFields) : Int := sgn 22 (fld f.imm.toNat 21 0)
/-- BFD of layout Q. -/
def VFields.bfd (f : VFields) : Nat := fld f.imm.toNat 29 25
/-- The signed byte offset of layout Q. -/
def VFields.qoff (f : VFields) : Int := sgn 25 (fld f.imm.toNat 24 0)
/-- The unsigned row stride of MTQ. -/
def VFields.qstride (f : VFields) : Nat := fld f.imm.toNat 24 0

end Sys2Proof

namespace Sys2Proof.Machine

/-- R137, R789: the bits of IMM that the layout and the opcode leave unused are 0. -/
def OpForm.immOk (o : OpForm) (f : VFields) : Bool :=
  match o.layout with
  | .v =>
    (o.memA || !f.am) && (o.memB || !f.bm) && (f.am || f.aoff == 0) && (f.bm || f.boff == 0) &&
    (if f.p then o.pred else (f.pm == 0 && !f.pz)) && decide (f.sub ≤ o.sub)
  | .l => (f.p || (f.pm == 0 && !f.pz)) && fld f.imm.toNat 24 22 == 0
  | .t => (f.p || f.pm == 0) && fld f.imm.toNat 25 7 == 0
  | .r => fld f.imm.toNat 29 2 == 0
  | .w => fld f.imm.toNat 29 5 == 0
  | .s => true
  | .b => true
  | .q => true
  | .none => f.imm == 0#30

/-- R138, R141, R142: FMT is legal for its use. -/
def OpForm.fmtOk (o : OpForm) (f : VFields) : Bool :=
  let n := f.fmt.toNat
  let mem := o.layout == .v && (f.am || f.bm)
  match o.fmt with
  | .unused => n == 0
  | .target => decide (n ≤ 4)
  | .mem => isVecFmt n
  | .float => if mem then isFloatFmt n else n == 0
  | .int => if mem then decide (13 ≤ n) else n == 0
  | .any => if mem then isVecFmt n else n == 0

/-- R138, R789: is the instruction word legal for its opcode? VA and VB name scalar registers where AM and BM are 1 (R139). -/
def OpForm.legal (o : OpForm) (f : VFields) : Bool :=
  o.vd.ok f.vd && o.va.ok f.va && o.vb.ok f.vb && o.vc.ok f.vc && decide (f.rnd.toNat ≤ o.rnd) && o.fmtOk f && o.immOk f

/-! Issue. -/

/-- What an issued instruction does: it waits, faults with a bit of the CORE page, or takes effect in a state and moves the
program counter by a number of instructions. -/
inductive Issued where
  | wait
  | waitIn (s : State)
  | fault (s : State) (bitNo : Nat)
  | run (s : State) (th : Thread) (pc : Int)
deriving Repr

/-- R134: the 64-byte line of an instruction address. -/
def lineOf (pc : W64) : Nat := pc.toNat / 64

/-- R177, R182: may the thread issue? It runs an item of a train that has not failed. -/
def State.canIssue (s : State) (c : CoreId) (t : ThreadId) : Bool :=
  match (s.thread c t.val).item with
  | none => false
  | some it =>
    match (s.cox (tileOfCore c)).train it.train with
    | none => false
    | some tr => tr.failed.isNone

/-- R699: after an access that an injection armed in state s0 met, the scratch words that held no uncorrectable error hold none. -/
def State.keepScratch (s s0 : State) (c : CoreId) : State :=
  if s0.injArmed (.core c) E.CORE_SCRATCH_UE then
    s.setCore c { s.core c with scratchUe := (s.core c).scratchUe.filter (fun w => (s0.core c).scratchUe.contains w) }
  else s

/-- The issue of one instruction by thread t of core c. A thread that is not ready leaves the state as it is, but for the
wait on its instruction-cache line; the command is then sent again. -/
def issue (c : CoreId) (t : ThreadId) (legal : Bool) (body : State → Thread → Item → Issued) (s : State) : State :=
  let th := s.thread c t.val
  match th.item with
  | none => s
  | some it =>
    if !s.canIssue c t then s
    else if !(s.core c).icache.contains (lineOf th.pc) then s.setThread c t.val { th with fillWait := true }
    else if !legal then s.threadFault c t E.CORE_ILLEGAL_OP
    else
      match body s th it with
      | .wait => s
      | .waitIn s' => s'
      | .fault s' b => (s'.threadFault c t b).keepScratch s c
      | .run s' th' k =>
        ((s'.setThread c t.val { th' with pc := th'.pc + BitVec.ofInt 64 (8 * k) }).count (.core c) R.CORE_VEC_ISSUE 1).keepScratch s c

/-! Scratch (R92, R130, R154). -/

/-- n bytes of a core's scratch. -/
def Core.scr (x : Core) (a n : Nat) : List Byte := Mem.read x.scratch a n

/-- Ranges (offset, number, mark) without the bytes [lo, hi). -/
def cutSpans (lo hi : Nat) (l : List (Nat × Nat × Nat)) : List (Nat × Nat × Nat) :=
  l.flatMap (fun e =>
    let stop := e.1 + e.2.1
    if hi ≤ e.1 ∨ stop ≤ lo then [e]
    else (if e.1 < lo then [(e.1, lo - e.1, e.2.2)] else []) ++ (if hi < stop then [(hi, stop - hi, e.2.2)] else []))

/-- Bytes stored in a core's scratch; words of 8 bytes written whole lose their uncorrectable error. -/
def Core.scrWrite (x : Core) (a : Nat) (bs : List Byte) : Core :=
  { x with scratch := Mem.write x.scratch a bs, scratchUe := NSet.drop x.scratchUe (cdiv a 8) ((a + bs.length) / 8),
           scaleTy := cutSpans a (a + bs.length) x.scaleTy }

/-- Does an access of n bytes at a byte address lie within scratch (R154)? The address is that of a 64-bit register sum. -/
def inScratch (a : W64) (n : Nat) : Bool := decide (a.toNat + n ≤ scratchBytes)

/-- R130, R127: what the scratch ECC does to a read: a corrected error is counted, an uncorrectable one poisons its words. -/
def State.scratchEcc (s : State) (c : CoreId) (ecc : Ecc) (a n : Nat) : State :=
  match s.seenEcc (.core c) E.CORE_SCRATCH_UE E.CORE_SCRATCH_CE ecc with
  | .ok => s
  | .corrected => ((s.count (.core c) R.CORE_SCRATCH_CE_CNT 1).err (.core c) E.CORE_SCRATCH_CE).tileCe (c.val / 16)
  | .uncorrectable =>
    let x := s.core c
    s.setCore c { x with scratchUe := (wordsOf 8 a n).foldl NSet.add x.scratchUe }

/-- Does a read of scratch meet an uncorrectable error (R127)? -/
def Core.scratchBad (x : Core) (a n : Nat) : Bool := (wordsOf 8 a n).any (fun w => x.scratchUe.contains w)

/-- Bytes of an element of a vector format (R141). -/
def fmtBytes (f : Nat) : Nat := elemBits f / 8

/-- R139, R141: the FP32 or i32 lane that an element of a vector format gives; an FP32 element is taken as it stands
(DEDUCED, log entry 22). -/
def laneOf (f q : Nat) : W32 :=
  match fpOf f with
  | some sp => if f = 0 then BitVec.ofNat 32 q else BitVec.ofNat 32 (fpRound fp32 1 0 (fpDecode sp q)).1
  | none => BitVec.ofInt 32 (elemInt f q)

/-- R139, R143: the 64 lanes of a contiguous vector of format f at a scratch address, bits [5:0] ignored. -/
def Core.vecAt (x : Core) (f a : Nat) : List W32 :=
  let a := a / 64 * 64
  (unpack f 64 (x.scr a (64 * fmtBytes f))).map (laneOf f)

end Sys2Proof.Machine
end

