-- ==== Sys2Proof/Machine/Paths.lean ====
section
/-! DEFINITION. The load and store paths of a core: descriptors and their checks (R85, R160, R161, R231, R232, R248, R253,
R797), the layouts of scratch (R86, R161, R232), the store of a row with Feather, fall-back and windows (R236 to R259), stashes
(R121, R122, R162, R794) and the product of the matrix array (R208 to R214). -/

namespace Sys2Proof.Machine

/-! Descriptors. -/

/-- A matrix tile descriptor (R85). -/
structure MDesc where
  aRing : Nat
  aOff : Nat
  bRing : Nat
  bOff : Nat
  k : Nat
  out : Nat
  bank : Nat
  accIn : Nat
  aFmt : Nat
  bFmt : Nat
  cOff : Nat
  aSc : Nat
  bSc : Nat
  tag : Nat
  reserved : Bool
deriving DecidableEq, Repr

/-- R85: a matrix tile descriptor from its 32 bytes. -/
def MDesc.ofBytes (bs : List Byte) : MDesc :=
  let w (i : Nat) : Nat := recFld bs (4 * i) 4 31 0
  { aRing := fld (w 0) 25 18, aOff := fld (w 0) 17 0, bRing := fld (w 1) 25 18, bOff := fld (w 1) 17 0, k := fld (w 2) 14 0,
    out := fld (w 3) 12 11, bank := fld (w 3) 10 10, accIn := fld (w 3) 9 8, bFmt := fld (w 3) 7 4, aFmt := fld (w 3) 3 0,
    cOff := fld (w 4) 17 0, aSc := fld (w 5) 17 0, bSc := fld (w 6) 17 0, tag := fld (w 7) 15 0,
    reserved := fld (w 0) 31 26 != 0 || fld (w 1) 31 26 != 0 || fld (w 2) 31 15 != 0 || fld (w 3) 31 13 != 0 ||
      fld (w 4) 31 18 != 0 || fld (w 5) 31 18 != 0 || fld (w 6) 31 18 != 0 || fld (w 7) 31 16 != 0 }

/-- R85: bytes of a slice of 2,048 elements. -/
def sliceBytes (code : Nat) : Nat := 256 * elemBits code

/-- The slice positions of an operand: its ring, or all K/32 slices. -/
def positions (ring k : Nat) : Nat := if ring = 0 then k / 32 else ring

/-- R82, R85, R208, R792: is a matrix tile descriptor acceptable? -/
def MDesc.ok (d : MDesc) : Bool :=
  let opOk (ring off sc fmt : Nat) : Bool :=
    decide (ring ≠ 1) && off % 64 == 0 && decide (off + positions ring d.k * sliceBytes fmt ≤ scratchBytes) && decide (fmt ≤ 13) &&
      (!isTb fmt || decide (sc + positions ring d.k * 128 ≤ scratchBytes))
  !d.reserved && opOk d.aRing d.aOff d.aSc d.aFmt && opOk d.bRing d.bOff d.bSc d.bFmt &&
    d.k % 32 == 0 && decide (32 ≤ d.k) && decide (d.k ≤ 16384) && decide (d.out ≠ 3) && decide (d.accIn ≠ 3) && d.cOff % 64 == 0 &&
    (!(d.out == 1 || d.accIn == 2) || decide (d.cOff + 16384 ≤ scratchBytes)) && (decide (d.aFmt ≤ 10) == decide (d.bFmt ≤ 10))

/-- A transfer descriptor (R160). -/
structure XDesc where
  ext : Nat
  scale : Nat
  stashAddr : Nat
  scr : Nat
  sums : Nat
  rows : Nat
  elems : Nat
  stride : Nat
  extFmt : Nat
  scrFmt : Nat
  bfd : Nat
  layout : Nat
  transpose : Bool
  stash : Nat
  sumsOn : Bool
  ring : Nat
  slope : Nat
  tag : Nat
  lo : Nat
  hi : Nat
  reserved : Bool
deriving DecidableEq, Repr

/-- R160: a transfer descriptor from its 64 bytes. -/
def XDesc.ofBytes (bs : List Byte) : XDesc :=
  let w (o : Nat) : Nat := recFld bs o 4 31 0
  let d (o : Nat) : Nat := recFld bs o 8 63 0
  { ext := d 0, scale := d 8, stashAddr := d 0x10, scr := fld (w 0x18) 17 0, sums := fld (w 0x1C) 17 0, rows := fld (w 0x20) 31 16,
    elems := fld (w 0x20) 15 0, stride := w 0x24, extFmt := fld (w 0x28) 31 28, scrFmt := fld (w 0x28) 27 24, bfd := fld (w 0x28) 23 19,
    layout := fld (w 0x28) 18 16, transpose := (w 0x28).testBit 15, stash := fld (w 0x28) 14 12, sumsOn := (w 0x28).testBit 11,
    ring := fld (w 0x28) 7 0, slope := w 0x2C, tag := fld (w 0x30) 15 0, lo := w 0x34, hi := w 0x38,
    reserved := fld (w 0x18) 31 18 != 0 || fld (w 0x1C) 31 18 != 0 || fld (w 0x28) 10 8 != 0 || fld (w 0x30) 31 16 != 0 || w 0x3C != 0 }

/-- Bytes of a row in scratch under LAYOUT 0: padded to 64 B (R160). -/
def scrRow (fmt elems : Nat) : Nat := alignUp (rowBytes fmt elems) 64

/-- The number of slices of a transfer in LAYOUT 1 or 2. -/
def XDesc.slices (x : XDesc) : Nat := if x.layout = 1 then x.elems / 32 else x.rows / 32

/-- Bytes of data that a transfer occupies from SCR_OFF, before any scales (R154, R161). -/
def XDesc.dataBytes (x : XDesc) : Nat :=
  if x.ring ≠ 0 then x.ring * sliceBytes x.scrFmt
  else if x.layout = 0 then x.rows * scrRow x.scrFmt x.elems
  else x.slices * sliceBytes x.scrFmt

/-- The number of 16-element groups of a transfer in scratch order (R232). -/
def XDesc.groups (x : XDesc) : Nat :=
  if x.ring ≠ 0 then x.ring * 128
  else if x.layout = 0 then cdiv (x.rows * (scrRow x.scrFmt x.elems * 8 / elemBits x.scrFmt)) 16
  else x.slices * 128

/-- The scratch bytes that a transfer occupies from SCR_OFF: data, and the scales of a block-scaled SCR_FMT. -/
def XDesc.span (x : XDesc) : Nat :=
  if isTb x.scrFmt then alignUp x.dataBytes 64 + x.groups else x.dataBytes

/-- R160, R161: the limits common to both directions. -/
def XDesc.limits (x : XDesc) : Bool :=
  !x.reserved && x.scr % 64 == 0 && x.sums % 64 == 0 && decide (1 ≤ x.rows) && decide (x.rows ≤ 16384) && decide (1 ≤ x.elems) &&
    decide (x.elems ≤ 16384) && decide (x.layout ≤ 2) && decide (x.stash ≤ 3) && decide (x.ring ≠ 1) &&
    (x.layout != 1 || (x.rows == 64 && x.elems % 32 == 0)) && (x.layout != 2 || (x.elems == 64 && x.rows % 32 == 0)) &&
    (!x.transpose || (x.rows % 64 == 0 && x.elems % 64 == 0)) && (x.ring == 0 || decide (x.layout ≠ 0))

/-- Rows of the transfer in external memory: with TRANSPOSE, external memory holds the transpose. -/
def XDesc.extRows (x : XDesc) : Nat := if x.transpose then x.elems else x.rows
/-- Elements of an external row. -/
def XDesc.extElems (x : XDesc) : Nat := if x.transpose then x.rows else x.elems

/-- R231, R248: the scale and parameter bases of an operation on external format fmt, of row stride `stride`. -/
def extBaseOk (fmt block base stride : Nat) : Bool :=
  if isTb fmt then decide (base ≠ 0) && stride % blockBytes fmt block == 0
  else if fmt = 11 ∨ fmt = 12 then decide (base ≠ 0) else true

/-- R232, R253, R797: may a load convert EXT_FMT to SCR_FMT? -/
def XDesc.loadConv (x : XDesc) : Bool :=
  let extZp := isZp x.extFmt && !(x.extFmt == 13 && x.scale == 0)
  let scrZp := x.scrFmt == 11 || x.scrFmt == 12 || (x.scrFmt == 13 && decide (x.scale ≠ 0))
  if isTb x.scrFmt then x.extFmt == x.scrFmt && !x.transpose
  else if extZp then decide (x.scrFmt ≤ 4) || x.scrFmt == x.extFmt
  else if isTb x.extFmt then !isZp x.scrFmt
  else if x.extFmt = 13 then !scrZp && (decide (x.scrFmt ≤ 4) || decide (13 ≤ x.scrFmt))
  else if x.scrFmt = 11 ∨ x.scrFmt = 12 then decide (x.scale ≠ 0) else true

/-- Is an LPQ descriptor acceptable (R160, R161, R231, R232, R248, R253, R260, R797)? -/
def XDesc.loadOk (x : XDesc) (b : Bfd) : Bool :=
  x.limits && extBaseOk x.extFmt b.block x.scale x.stride && x.loadConv && (!x.sumsOn || isZp x.scrFmt)

/-- Is an SPQ descriptor acceptable (R160, R161, R231, R248)? TRANSPOSE, SUMS and RING are for LPQ only. -/
def XDesc.storeOk (x : XDesc) (b : Bfd) : Bool :=
  x.limits && !x.transpose && !x.sumsOn && x.ring == 0 && extBaseOk x.extFmt b.block x.scale x.stride

/-- Bytes of a stash row (R122). -/
def stashRow (mode elems : Nat) : Nat := cdiv (elems * (if mode = 3 then 2 else 1)) 64 * 8

/-- The external ranges of a transfer: data rows, then stash rows, then scales or records. -/
def XDesc.ranges (x : XDesc) (b : Bfd) : List (Nat × Nat) :=
  let rs := List.range x.extRows
  rs.map (fun r => (x.ext + r * x.stride, rowBytes x.extFmt x.extElems)) ++
    (if x.stash = 0 then [] else rs.map (fun r => (x.stashAddr + r * stashRow x.stash x.extElems, stashRow x.stash x.extElems))) ++
    (if isTb x.extFmt then
      let bb := blockBytes x.extFmt b.block
      rs.map (fun r => (x.scale + r * x.stride / bb, cdiv x.extElems b.block))
    else if isZp x.extFmt ∧ x.scale ≠ 0 then [(x.scale, 8 * x.extRows)]
    else if isZp x.scrFmt ∧ x.scale ≠ 0 then [(x.scale, 8 * x.extRows)]
    else [])

/-- R163: does a range touch the SRAM window of another tile than physical tile t? -/
def State.otherWindow (s : State) (t : TileId) (r : Nat × Nat) : Bool :=
  [r.1, r.1 + r.2 - 1].any (fun a => match s.locate a with | .tsram p _ => decide (p ≠ t.val) | _ => false)

/-! Privileged channels (R254 to R259). -/

/-- A privileged-channel block (R254). -/
structure PrivBlk where
  addr : Nat
  base : Nat
  stride : Nat
  channels : Nat
  nPriv : Nat
  g : Nat
  map : Nat
deriving DecidableEq, Repr

/-- The number of set bits among the n low bits. -/
def popN (v n : Nat) : Nat := ((List.range n).filter (fun i => v.testBit i)).length

/-- The privileged-channel block of a descriptor for formats 0xA to 0xD; none where it names none or cannot be read. -/
def State.privBlk (s : State) (fmt addr : Nat) : Option PrivBlk :=
  if addr = 0 ∨ fmt < 10 ∨ 13 < fmt then none
  else
    match s.unitRead addr 0x40 with
    | .ok h =>
      let ch := recFld h 0xC 4 31 0
      let g := alignUp (cdiv ch 8) 64
      match s.unitRead (addr + 0x200) g with
      | .ok m =>
        some { addr := addr, base := recFld h 0 8 63 0, stride := recFld h 8 4 31 0, channels := ch, nPriv := recFld h 0x10 2 15 0,
               g := g, map := ofLe m }
      | _ => none
    | _ => none

/-- What reading the block of a descriptor does (R38, R79, R485). -/
def State.privSeen (s : State) (fmt addr : Nat) : State :=
  if addr = 0 ∨ fmt < 10 ∨ 13 < fmt then s
  else
    match s.unitRead addr 0x40 with
    | .ok h => (s.seen addr 0x40).seen (addr + 0x200) (alignUp (cdiv (recFld h 0xC 4 31 0) 8) 64)
    | _ => s.seen addr 0x40

/-- R256: may an operation use a descriptor's privileged-channel block? -/
def State.privOk (s : State) (fmt addr : Nat) : Bool :=
  if addr = 0 ∨ fmt < 10 ∨ 13 < fmt then true
  else
    match s.privBlk fmt addr with
    | none => false
    | some p => decide (p.nPriv ≤ 256) && p.nPriv == popN p.map (8 * p.g)

/-- R255: the rank of the privileged row whose first element lies at a. -/
def PrivBlk.rank (p : PrivBlk) (a : Nat) : Option Nat :=
  if a < p.base ∨ p.stride = 0 then none
  else
    let c := (a - p.base) / p.stride
    if (a - p.base) % p.stride = 0 ∧ c < p.channels ∧ p.map.testBit c then some (popN p.map c) else none

/-- R257: the window of rank r in step n, from the slots tagged n - age to n - 1. -/
def State.window (s : State) (p : PrivBlk) (r n age : Nat) : Option (Val × Val) :=
  match s.unitRead (p.addr + 0x100) 160 with
  | .ok tags =>
    let z : Val := .fin false 0 0
    let got := (List.range 20).filterMap (fun j =>
      let tag := recFld tags (8 * j) 8 63 0
      if n ≤ tag + age ∧ tag < n then
        match s.unitRead (p.addr + 0xA00 + p.g + 2048 * j + 8 * r) 8 with
        | .ok e =>
          let lo := f32v (BitVec.ofNat 32 (recFld e 0 4 31 0))
          let hi := f32v (BitVec.ofNat 32 (recFld e 4 4 31 0))
          if lo.isFin && hi.isFin then some (lo, hi) else none
        | _ => none
      else none)
    if got.isEmpty then none else some (got.foldl (fun a e => Val.min a e.1) z, got.foldl (fun a e => Val.max a e.2) z)
  | _ => none

/-- What reading that window does. -/
def State.windowSeen (s : State) (p : PrivBlk) (r n age : Nat) : State :=
  match s.unitRead (p.addr + 0x100) 160 with
  | .ok tags => (List.range 20).foldl (fun s j =>
      let tag := recFld tags (8 * j) 8 63 0
      if n ≤ tag + age ∧ tag < n then s.seen (p.addr + 0xA00 + p.g + 2048 * j + 8 * r) 8 else s) (s.seen (p.addr + 0x100) 160)
  | _ => s.seen (p.addr + 0x100) 160

/-- R258: a row's finite range merged into the CUR entry of its rank. -/
def State.mergeCur (s : State) (p : PrivBlk) (r : Nat) (xs : List Val) : State :=
  let fin := (xs.filter Val.isFin).map toW32
  match fin with
  | [] => s
  | f :: fs =>
    let a := p.addr + 0x200 + p.g + 8 * r
    match s.unitRead a 8 with
    | .ok e =>
      let lo := fMin (BitVec.ofNat 32 (recFld e 0 4 31 0)) (fs.foldl fMin f)
      let hi := fMax (BitVec.ofNat 32 (recFld e 4 4 31 0)) (fs.foldl fMax f)
      let s := s.seen a 8
      (s.unitWrite a (leBytes 4 lo.toNat ++ leBytes 4 hi.toNat)).getD s
    | _ => s.seen a 8

/-! The store of a row (R97). -/

/-- What a store operation writes rows with: its target format, descriptor, whether it is an SPQ, the fall-back scale code, D,
S or P, and the row stride. -/
structure StoreCtx where
  fmt : Nat
  bf : Bfd
  spq : Bool
  fb : Nat
  base : Nat
  param : Nat
  stride : Nat
deriving DecidableEq, Repr

/-- The magnitude m of a block: the largest of its finite FP32 source values (R236). -/
def blockMax (xs : List Val) : Val :=
  (xs.filter Val.isFin).foldl (fun m x => Val.max m (f32v (toW32 x)).abs) (.fin false 0 0)

/-- R236 to R240: the scale code of a block and whether all its elements are written as 0. -/
def StoreCtx.scaleOf (k : StoreCtx) (win : Option (Val × Val)) (whole : Bool) (xs : List Val) : Nat × Bool :=
  if (fpOf k.fmt).all (fun f => f.nanCode.isNone) && xs.any Val.isNan then (0xFF, true)
  else
    match (if k.fmt = 10 then win else none) with
    | some (lo, hi) => (featherScale (Val.max lo.neg hi) (tbMax k.fmt) k.bf.scaleType, false)
    | none =>
      if whole && k.bf.scaleSel == 0 then (featherScale (blockMax xs) (tbMax k.fmt) k.bf.scaleType, false) else (k.fb, false)

/-- Lists cut into pieces of n elements. -/
def chunks {α : Type} (n : Nat) (l : List α) : List (List α) :=
  (List.range (cdiv l.length n)).map (fun i => (l.drop (n * i)).take n)

/-- Elements with their draws, converted one by one; codes and events. -/
def convAll (f : W32 → Val → Nat × Ev) (xs : List (Val × W32)) : List Nat × Evs :=
  let r := xs.map (fun x => let (q, ev) := f x.2 x.1; (q, convEv x.1 ev))
  (r.map Prod.fst, r.foldl (fun e x => e.add x.2) {})

/-- What the store of a row gives: the writes it makes, the values that its bytes stand for, its events. -/
structure RowOut where
  writes : List (Nat × List Byte)
  vals : List Val
  evs : Evs
deriving DecidableEq, Repr

/-- One row stored. r is the row's number, win its window (R257), old its record in memory. -/
def StoreCtx.row (k : StoreCtx) (win : Option (Val × Val)) (old : ChanRec) (r : Nat) (xs : List (Val × W32)) : RowOut :=
  let a := k.base + r * k.stride
  if isTb k.fmt then
    let bb := blockBytes k.fmt k.bf.block
    let parts : List (Nat × List Nat × Evs) := (chunks k.bf.block xs).map (fun ys =>
      let whole := if k.spq then decide (ys.length = k.bf.block) else decide (k.bf.block ≤ 64)
      let (sc, zero) := k.scaleOf win whole (ys.map Prod.fst)
      if zero then
        (sc, ys.map (fun _ => 0), if k.fmt = 10 then ys.foldl (fun (e : Evs) y => if y.1.isNan then e.add .sat else e) {} else {})
      else
        let (q, ev) := convAll (fun d x => toTb k.fmt k.bf.round d k.bf.scaleType sc x) ys
        (sc, q, ev))
    { writes := [(a, pack k.fmt (parts.flatMap (fun p => p.2.1))), (k.param + r * k.stride / bb, parts.map (fun p => BitVec.ofNat 8 p.1))],
      vals := parts.flatMap (fun p => p.2.1.map (fun q => tbVal k.fmt q k.bf.scaleType p.1)),
      evs := parts.foldl (fun e p => e.plus p.2.2) {} }
  else if isZp k.fmt && (decide (k.fmt ≠ 13) || decide (k.param ≠ 0)) then
    let rec' := if k.spq then (match win with | some (lo, hi) => recordOf k.fmt lo hi | none => firstPass k.fmt (xs.map (fun x => f32v (toW32 x.1)))) else old
    let (q, ev) := convAll (fun d x => quantise k.fmt rec' k.bf.round d x) xs
    { writes := (if k.spq then [(k.param + 8 * r, rec'.bytes)] else []) ++ [(a, pack k.fmt q)], vals := q.map (dequant k.fmt rec'), evs := ev }
  else
    let (q, ev) := convAll (fun d x => toPlain k.fmt k.bf.round d x) xs
    { writes := [(a, pack k.fmt q)], vals := q.map (elemVal k.fmt), evs := ev }

/-! Draws of the store path (R202). -/

/-- Rows of values with their draws: column j of each row from state j mod 64, rows in order, under mode 2. -/
def drawRow (mode : Nat) (gens : List Gen) (xs : List Val) : List Gen × List (Val × W32) :=
  if mode ≠ 2 then (gens, xs.map (fun x => (x, 0#32)))
  else
    let r := (xs.zip (List.range xs.length)).foldl (fun (acc : List Gen × List (Val × W32)) x =>
      let j := x.2 % 64
      let (g, w) := genDraw (nth 0 acc.1 j)
      (modNth (fun _ => g) acc.1 j, (x.1, w) :: acc.2)) (gens, [])
    (r.1, r.2.reverse)

/-- Every row with its draws. -/
def drawRows (mode : Nat) : List Gen → List (List Val) → List (List (Val × W32))
  | _, [] => []
  | gens, x :: xs => let (g, r) := drawRow mode gens x; r :: drawRows mode g xs

/-- n draws from one state. -/
def genSkip : Nat → Gen → Gen
  | 0, g => g
  | n + 1, g => genSkip n (genDraw g).1

/-- The states after the draws of an operation of so many rows of so many columns, drawn for when it issues (R202). -/
def Thread.drawn (th : Thread) (mode rows cols : Nat) : Thread :=
  if mode ≠ 2 then th
  else { th with sgen := (List.range 64).map (fun j => genSkip (rows * ((cols + 63 - j) / 64)) (nth 0 th.sgen j)) }

/-! Stashes. -/

/-- The stash that an SPQ writes (R162): its mode, STASH_ADDR, LO and HI; mode 0 writes none. -/
structure StashCtx where
  mode : Nat
  addr : Nat
  lo : W32
  hi : W32
deriving DecidableEq, Repr

/-- No stash. -/
def StashCtx.off : StashCtx := { mode := 0, addr := 0, lo := 0, hi := 0 }

/-- R121, R122, R162: the stash bytes of a row of outgoing values. -/
def stashBits (mode : Nat) (lo hi : W32) (xs : List Val) : List Byte :=
  let w := if mode = 3 then 2 else 1
  let code (x : Val) : Nat :=
    match x with
    | .nan => 0
    | _ =>
      if mode = 3 then (if x.cmp (f32v lo) == -1 then 0 else if x.cmp (f32v hi) == 1 then 2 else 1)
      else if x.cmp (.fin false 0 0) == 1 then 1 else 0
  let v := (xs.reverse).foldl (fun acc x => acc * 2 ^ w + code x) 0
  leBytes (stashRow mode xs.length) v

/-- The stash writes of rows of outgoing values: R97 puts them after conversion and scaling (DEDUCED, log entry 208). -/
def StashCtx.writes (k : StashCtx) (rows : List (List Val)) : List (Nat × List Byte) :=
  if k.mode = 0 then []
  else (rows.zip (List.range rows.length)).map (fun x => (k.addr + x.2 * stashRow k.mode x.1.length, stashBits k.mode k.lo k.hi x.1))

/-- R121: do the stash bits of an element multiply it by SLOPE? -/
def stashMul (mode bits : Nat) : Bool :=
  match mode with
  | 2 => bits == 0
  | 3 => bits != 0 && bits != 2
  | _ => false

/-- R121, R794: an incoming element under its stash bits: zeroed, multiplied by SLOPE exactly, or passed. -/
def stashApply (mode : Nat) (slope : W32) (bits : Nat) (x : Val) : Val :=
  let z : Val := .fin false 0 0
  match mode with
  | 1 => if bits = 0 then z else x
  | 2 => if bits = 0 then x.mul (f32v slope) else x
  | 3 => if bits = 0 ∨ bits = 2 then z else x.mul (f32v slope)
  | _ => x

/-! The store of an operation. -/

/-- The train and step that an item runs for: its own STEP, none with NOSTEP 1. -/
def State.itemStep (s : State) (t : TileId) (it : Item) : Option Nat :=
  match (s.cox t).train it.train with
  | none => none
  | some tr => if tr.noStep then none else some tr.step.toNat

/-- R241, R243: the history entry of descriptor d for step n; 0 where it is missing. -/
def State.history (s : State) (d n : Nat) : Val :=
  match s.featherHist.find? (fun e => e.1.toNat == n) with
  | some e => f32v (nth 0 e.2 d)
  | none => .fin false 0 0

/-- R240, R241: the fall-back scale code of descriptor d for a step. -/
def State.fallback (s : State) (bf : Bfd) (d : Nat) (step : Option Nat) (fmt : Nat) : Nat :=
  match step with
  | none => featherScale (.fin false 0 0) (tbMax fmt) bf.scaleType
  | some n => featherScale (if n < bf.age then .fin false 0 0 else s.history d (n - bf.age)) (tbMax fmt) bf.scaleType

/-- R242: the largest magnitude that the stores of step n under descriptor d had. -/
def State.recordMax (s : State) (n d : Nat) (xs : List Val) : State :=
  let m := (toW32 (blockMax xs))
  let k := n * 32 + d
  let old := SMap.get (fun _ => 0#32) s.featherOpen k
  if old.ult m then { s with featherOpen := SMap.set (fun _ => 0#32) s.featherOpen k m } else s

/-- R626: the terms of a list of writes. -/
def writeTerms (ws : List (Nat × List Byte)) : W64 := ws.foldl (fun a w => a + wordTerms w.1 w.2) 0

/-- A store operation of an item writes its rows: data, scales and records, then its stash; history, windows, digests
and events follow once every byte is visible (R97, R158, R235). A VOUT or MTQ to a zero-point format reads its records first (R252).
STORE_BYTES counts every byte written outside the core, stash and scales among them (DESIGN CHOICE; log entry 229). -/
def State.storeOp (s : State) (c : CoreId) (it : Item) (k : StoreCtx) (d : Nat) (gens : List Gen) (rows : List (List Val))
    (stash : StashCtx) : PathRes Unit :=
  let t := tileOfCore c
  let step := s.itemStep t it
  let reads := isZp k.fmt && !k.spq && (decide (k.fmt ≠ 13) || decide (k.param ≠ 0))
  match s.pathRead t k.param (if reads then 8 * rows.length else 0) with
  | .wait s => .wait s
  | .fail s => .fail s
  | .ok s recs =>
    let priv := s.privBlk k.fmt k.bf.priv
    let k := { k with fb := s.fallback k.bf d step k.fmt }
    let done := ((drawRows k.bf.round gens rows).zip (List.range rows.length)).map (fun x =>
      let r := x.2
      let rank := priv.bind (fun p => p.rank (k.base + r * k.stride))
      let win := match priv, rank, step with | some p, some q, some n => s.window p q n k.bf.age | _, _, _ => none
      (k.row win (ChanRec.ofBytes ((recs.drop (8 * r)).take 8)) r x.1, rank))
    let writes := done.flatMap (fun x => x.1.writes) ++ stash.writes (done.map (fun x => x.1.vals))
    let s := s.privSeen k.fmt k.bf.priv
    let s := done.foldl (fun s x => match priv, x.2, step with | some p, some q, some n => s.windowSeen p q n k.bf.age | _, _, _ => s) s
    match s.pathWrites t writes with
    | .wait s => .wait s
    | .fail s => .fail s
    | .ok s _ =>
      let s := s.addEvs t it (.store d) (done.foldl (fun e x => e.plus x.1.evs) {})
      let s := s.count (.core c) R.CORE_STORE_BYTES (writes.foldl (fun n w => n + w.2.length) 0)
      let s := match step with
        | none => s
        | some n => (s.recordMax n d rows.flatten).addOut n (s.logTile t.val) (writeTerms writes)
      let s := (rows.zip (done.map Prod.snd)).foldl (fun s x => match priv, x.2 with | some p, some q => s.mergeCur p q x.1 | _, _ => s) s
      .ok s ()

/-! Scratch layouts of a transfer. -/

/-- The scratch order index of element (r, e) of a transfer (R86, R160): row and column to the position counted in elements. -/
def XDesc.index (layout perRow r e : Nat) : Nat :=
  if layout = 0 then r * perRow + e
  else if layout = 1 then (e / 32) * 2048 + r * 32 + e % 32
  else r * 64 + e

/-- The codes of a LAYOUT 1 or 2 transfer in scratch order, from its rows. -/
def sliceOrder (layout : Nat) (rows : List (List Nat)) (elems : Nat) : List Nat :=
  if layout = 1 then (List.range (elems / 32)).flatMap (fun g => rows.flatMap (fun r => (r.drop (32 * g)).take 32))
  else rows.flatten

/-- The block scales of a load in scratch order, one byte per 16 elements (R232): scales r k is the code of block k of row r. -/
def scaleBytes (fmt layout rows elems block ty : Nat) (scales : Nat → Nat → Nat) : List Nat :=
  let one := if ty = 0 then 0x7F else 0x78
  if layout = 0 then
    let per := scrRow fmt elems * 8 / elemBits fmt
    (List.range (cdiv (rows * per) 16)).map (fun n =>
      let r := 16 * n / per
      let e := 16 * n % per
      if r < rows ∧ e < elems then scales r (e / block) else one)
  else if layout = 1 then
    (List.range (elems / 32 * 128)).map (fun n =>
      let i := 16 * n
      scales (i % 2048 / 32) ((i / 2048 * 32 + i % 32) / block))
  else (List.range (rows * 4)).map (fun n => scales (n / 4) (16 * n % 64 / block))

/-- The codes of a transfer's rows as they stand in scratch. -/
def Core.scrRows (x : Core) (fmt scr layout rows elems : Nat) : List (List Nat) :=
  if layout = 0 then (List.range rows).map (fun r => unpack fmt elems (x.scr (scr + r * scrRow fmt elems) (rowBytes fmt elems)))
  else if layout = 1 then
    (List.range rows).map (fun r =>
      (List.range (elems / 32)).flatMap (fun g => unpack fmt 32 (x.scr (scr + g * sliceBytes fmt + r * rowBytes fmt 32) (rowBytes fmt 32))))
  else (List.range rows).map (fun r => unpack fmt 64 (x.scr (scr + r * rowBytes fmt 64) (rowBytes fmt 64)))

/-! The matrix array (R208 to R214). -/

/-- floor(log2 |v|) of a nonzero finite value (R210). -/
def Val.expo (v : Val) : Option Int :=
  match v with
  | .fin _ m e => if m = 0 then none else some ((Nat.log2 m : Int) + e)
  | _ => none

/-- The largest exponent of a list, none where no element has one. -/
def maxExpo (xs : List Val) : Option Int :=
  xs.foldl (fun a x => match a, x.expo with | none, e => e | some b, some e => some (if b < e then e else b) | some b, none => some b) none

/-- R211: a finite product rounded to a multiple of 2^u, ties to even, in units of 2^u. -/
def productUnits (p : Val) (u : Int) : Int :=
  match p with
  | .fin s m e => let n : Int := (roundAt (.ratio m 1 e) u 0 0 : Nat); if s then -n else n
  | _ => 0

/-- What a group of 32 products leaves in a cell: the value V to promote and a recorded special value (R211 to R214). -/
structure CellSum where
  v : Val
  special : Option Val
deriving DecidableEq, Repr

/-- R209 to R214: one group of products in one cell; ea is the exponent of A in the group, ints says integer class. -/
def cellSum (ints : Bool) (ea : Option Int) (as bs : List Val) : CellSum :=
  let ps := (as.zip bs).map (fun x => x.1.mul x.2)
  let special := match ps.filter (fun p => !p.isFin) with | [] => none | x :: xs => some (xs.foldl Val.add x)
  let v : Val :=
    if ints then Val.ofInt (ps.foldl (fun a p => a + productUnits p 0) 0)
    else
      match ea, maxExpo bs with
      | some x, some y =>
        let u := x + y - 13
        let n := ps.foldl (fun a p => a + productUnits p u) 0
        .fin (decide (n < 0)) n.natAbs u
      | _, _ => .fin false 0 0
  { v := v, special := special }

/-- R213: V as it enters the accumulator: exact, but in the FP32 subnormal range rounded to FP32 first (log entry 100). -/
def promoted (v : Val) : Val :=
  match v.expo with
  | some e => if e < -126 then f32v (toF32 [] 0 0 v).1 else v
  | none => v

/-- R213, R214: promotion of a group into the accumulator; first is a first group of ACC_IN 0. -/
def promote (first : Bool) (acc : W32) (g : CellSum) : W32 :=
  match g.special with
  | some x => if first then toW32 x else (fAdd 0 0 acc (toW32 x)).1
  | none => (toF32 [] 0 0 (if first then g.v else (f32v acc).add (promoted g.v))).1

/-- An operand of the array as rows of values: 64 rows (or columns) of K values. -/
abbrev Operand := List (List Val)

/-- The tile C as 64 rows of 64, and the events of the operation, at most one per element: the element is the result and
its row of A, its column of B and its starting value are the operands (R219, log entry 101). -/
def matrixProduct (ints : Bool) (a b : Operand) (k : Nat) (c0 : Option (List W32)) : List W32 × Evs :=
  let groups := List.range (k / 32)
  let cut (l : List Val) (g : Nat) : List Val := (l.drop (32 * g)).take 32
  let aG := groups.map (fun g => a.map (fun r => cut r g))
  let eA := aG.map (fun g => maxExpo g.flatten)
  let bG := b.map (fun col => groups.map (cut col))
  let out := (List.range 64).flatMap (fun i =>
    ((List.range 64).zip bG).map (fun jb =>
      let acc0 : W32 := match c0 with | some l => nth 0 l (64 * i + jb.1) | none => 0
      let cells := (aG.zip eA).zip jb.2
      let r := cells.foldl (fun (st : Bool × W32) x =>
        (false, promote st.1 st.2 (cellSum ints x.1.2 (nth [] x.1.1 i) x.2))) (c0.isNone, acc0)
      let ops := (nth [] a i).take k ++ jb.2.flatten ++ (match c0 with | some _ => [f32v acc0] | none => [])
      (r.2, resultEv ops (f32v r.2) .none)))
  (out.map Prod.fst, out.foldl (fun e x => e.add x.2) {})

end Sys2Proof.Machine
end

