-- ==== Sys2Proof/Machine/Vector.lean ====
section
/-! DEFINITION. The instructions of the vector unit that complete within their latency (R147, R150): control, scalar, lane-wise
FP32 and integer, scratch vectors, reductions, top-k, masks and random bits; and the illegal encodings (R138). -/

namespace Sys2Proof.Machine

/-- An instruction that takes effect in the thread's own registers and goes on. -/
def regs (f : Thread → Thread) : State → Thread → Item → Issued := fun s th _ => .run s (f th) 1

/-! Control (R147). -/

/-- NOP. -/
def execNop (c : CoreId) (t : ThreadId) (f : VFields) (s : State) : Out :=
  s.live (issue c t (({} : OpForm).legal f) (regs id) s)

/-- BRA: pc := pc + 8 * OFF, pc being the address of the branch (DEDUCED, log entry 23). -/
def execBra (c : CoreId) (t : ThreadId) (f : VFields) (s : State) : Out :=
  s.live (issue c t (({ layout := .b } : OpForm).legal f) (fun s th _ => .run s th f.simm) s)

/-- BRZ and BRNZ. -/
def branchIf (c : CoreId) (t : ThreadId) (f : VFields) (onZero : Bool) (s : State) : Out :=
  s.live (issue c t (({ layout := .b, va := .sca } : OpForm).legal f)
    (fun s th _ => .run s th (if (th.sget f.va.toNat == 0) == onZero then f.simm else 1)) s)

/-- BRZ. -/
def execBrz (c : CoreId) (t : ThreadId) (f : VFields) (s : State) : Out := branchIf c t f true s
/-- BRNZ. -/
def execBrnz (c : CoreId) (t : ThreadId) (f : VFields) (s : State) : Out := branchIf c t f false s

/-- WAIT: until N or fewer asynchronous operations are outstanding. -/
def execWaitAsync (c : CoreId) (t : ThreadId) (f : VFields) (s : State) : Out :=
  s.live (issue c t (({ layout := .w } : OpForm).legal f)
    (fun s th _ => if th.outst.length ≤ fld f.imm.toNat 4 0 then .run s th 1 else .wait) s)

/-- CQPOP: the oldest tag of the completion queue; waits while it is empty. -/
def execCqpop (c : CoreId) (t : ThreadId) (f : VFields) (s : State) : Out :=
  s.live (issue c t (({ vd := .sca } : OpForm).legal f)
    (fun s th _ =>
      match th.cq with
      | [] => .wait
      | g :: r => .run s ({ th with cq := r }.sset f.vd.toNat (g.setWidth 64)) 1) s)

/-! Scalars (R147). -/

/-- A scalar instruction: s[vd] := op s[va] (s[vb] + IMM). -/
def scalarOp (c : CoreId) (t : ThreadId) (f : VFields) (op : W64 → W64 → W64) (s : State) : Out :=
  s.live (issue c t (({ layout := .s, vd := .sca, va := .sca, vb := .sca } : OpForm).legal f)
    (regs (fun th => th.sset f.vd.toNat (op (th.sget f.va.toNat) (th.sget f.vb.toNat + BitVec.ofInt 64 f.simm)))) s)

/-- SADD. -/
def execSadd (c : CoreId) (t : ThreadId) (f : VFields) (s : State) : Out := scalarOp c t f (fun a b => a + b) s
/-- SSUB. -/
def execSsub (c : CoreId) (t : ThreadId) (f : VFields) (s : State) : Out := scalarOp c t f (fun a b => a - b) s
/-- SMUL. -/
def execSmul (c : CoreId) (t : ThreadId) (f : VFields) (s : State) : Out := scalarOp c t f (fun a b => a * b) s
/-- SAND. -/
def execSand (c : CoreId) (t : ThreadId) (f : VFields) (s : State) : Out := scalarOp c t f (fun a b => a &&& b) s
/-- SOR. -/
def execSor (c : CoreId) (t : ThreadId) (f : VFields) (s : State) : Out := scalarOp c t f (fun a b => a ||| b) s
/-- SXOR. -/
def execSxor (c : CoreId) (t : ThreadId) (f : VFields) (s : State) : Out := scalarOp c t f (fun a b => a ^^^ b) s
/-- SSHL. -/
def execSshl (c : CoreId) (t : ThreadId) (f : VFields) (s : State) : Out :=
  scalarOp c t f (fun a b => a <<< (b.toNat % 64)) s
/-- SSHR. -/
def execSshr (c : CoreId) (t : ThreadId) (f : VFields) (s : State) : Out :=
  scalarOp c t f (fun a b => a >>> (b.toNat % 64)) s
/-- SSRA. -/
def execSsra (c : CoreId) (t : ThreadId) (f : VFields) (s : State) : Out :=
  scalarOp c t f (fun a b => a.sshiftRight (b.toNat % 64)) s
/-- SLT. -/
def execSlt (c : CoreId) (t : ThreadId) (f : VFields) (s : State) : Out :=
  scalarOp c t f (fun a b => if a.slt b then 1 else 0) s
/-- SLTU. -/
def execSltu (c : CoreId) (t : ThreadId) (f : VFields) (s : State) : Out :=
  scalarOp c t f (fun a b => if a.ult b then 1 else 0) s

/-- SSHI: s[vd] := (s[va] << 30) | zero-extended IMM; VB names no register. -/
def execSshi (c : CoreId) (t : ThreadId) (f : VFields) (s : State) : Out :=
  s.live (issue c t (({ layout := .s, vd := .sca, va := .sca } : OpForm).legal f)
    (regs (fun th => th.sset f.vd.toNat ((th.sget f.va.toNat <<< 30) ||| f.imm.setWidth 64))) s)

/-- A read of n bytes of scratch at a by an instruction: none where it lies beyond scratch (R154), else the state after the
ECC and whether it met an uncorrectable error (R127, R130). -/
def State.readScr (s : State) (c : CoreId) (ecc : Ecc) (a : Nat) (n : Nat) : Option (State × Bool) :=
  if a + n ≤ scratchBytes then
    let s := s.scratchEcc c ecc a n
    some (s, (s.core c).scratchBad a n)
  else none

/-- SLD: the u64 at scratch s[va] + IMM, bits [2:0] of the address ignored (R143). -/
def execSld (c : CoreId) (t : ThreadId) (f : VFields) (s : State) : Out :=
  s.live (issue c t (({ layout := .s, vd := .sca, va := .sca } : OpForm).legal f)
    (fun s th _ =>
      let a := (th.sget f.va.toNat + BitVec.ofInt 64 f.simm).toNat / 8 * 8
      match s.readScr c f.ecc a 8 with
      | none => .fault s E.CORE_SCRATCH_RANGE
      | some (s, bad) =>
        if bad then .fault s E.CORE_SCRATCH_UE
        else .run s (th.sset f.vd.toNat (BitVec.ofNat 64 (ofLe ((s.core c).scr a 8)))) 1) s)

/-- SST: the u64 at scratch s[va] + IMM := s[vb]. -/
def execSst (c : CoreId) (t : ThreadId) (f : VFields) (s : State) : Out :=
  s.live (issue c t (({ layout := .s, va := .sca, vb := .sca } : OpForm).legal f)
    (fun s th _ =>
      let a := (th.sget f.va.toNat + BitVec.ofInt 64 f.simm).toNat / 8 * 8
      if a + 8 ≤ scratchBytes then
        .run (s.setCore c ((s.core c).scrWrite a (leBytes 8 (th.sget f.vb.toNat).toNat))) th 1
      else .fault s E.CORE_SCRATCH_RANGE) s)

/-- STIME: s[vd] := fabric time in ns. -/
def execStime (c : CoreId) (t : ThreadId) (f : VFields) (s : State) : Out :=
  s.live (issue c t (({ vd := .sca } : OpForm).legal f) (fun s th _ => .run s (th.sset f.vd.toNat s.fabTime) 1) s)

/-! Lane-wise instructions (R139, R140). -/

/-- Is lane l active? -/
def active (f : VFields) (th : Thread) (l : Nat) : Bool := !f.p || (th.mget f.pm).getLsbD l

/-- A lane's operands and the draw of its generator. -/
structure Lane where
  l : Nat
  a : W32
  b : W32
  c : W32
  draw : W32
deriving DecidableEq, Repr

/-- What the lanes of an instruction left: results of active lanes, generator states, events. -/
structure LaneAcc where
  out : List W32
  gens : List Gen
  evs : Evs
deriving DecidableEq, Repr

/-- R139, R140, R175: the frame of a lane-wise instruction over 64 lanes; draws is true where active lanes draw. -/
def lanes (f : VFields) (th : Thread) (draws : Bool) (old av bv cv : List W32) (op : Lane → W32 × Ev) : LaneAcc :=
  let acc := (List.range 64).foldl (fun (acc : LaneAcc) l =>
    let g := nth 0 th.vgen l
    if active f th l then
      let (g', w) := if draws then genDraw g else (g, 0)
      let (x, ev) := op { l := l, a := nth 0 av l, b := nth 0 bv l, c := nth 0 cv l, draw := w }
      { out := x :: acc.out, gens := g' :: acc.gens, evs := acc.evs.add ev }
    else { acc with out := (if f.pz then 0 else nth 0 old l) :: acc.out, gens := g :: acc.gens })
    { out := [], gens := [], evs := {} }
  { acc with out := acc.out.reverse, gens := acc.gens.reverse }

/-- R139, R143, R154: operand a or b of layout V: a register, or 64 elements of scratch at s[reg] + 64 * off. -/
inductive OperandRes where
  | ok (s : State) (v : List W32)
  | bad (s : State) (bitNo : Nat)
deriving Repr

/-- An operand of layout V. -/
def State.operand (s : State) (c : CoreId) (f : VFields) (th : Thread) (mem : Bool) (r off : Nat) : OperandRes :=
  if mem then
    let a := (th.sget r + BitVec.ofNat 64 (64 * off)).toNat / 64 * 64
    match s.readScr c f.ecc a (64 * fmtBytes f.fmt.toNat) with
    | none => .bad s E.CORE_SCRATCH_RANGE
    | some (s, bad) => if bad then .bad s E.CORE_SCRATCH_UE else .ok s ((s.core c).vecAt f.fmt.toNat a)
  else .ok s (th.vget r)

/-- A lane-wise instruction of layout V: operands a and b as its form says, its events counted in the vector stream. -/
def laneOp (o : OpForm) (extra : VFields → Bool) (rounds : Bool) (op : VFields → Thread → Lane → W32 × Ev)
    (c : CoreId) (t : ThreadId) (f : VFields) (s : State) : Out :=
  s.live (issue c t (o.legal f && extra f)
    (fun s th it =>
      match s.operand c f th f.am f.va.toNat f.aoff with
      | .bad s b => .fault s b
      | .ok s av =>
        match s.operand c f th f.bm f.vb.toNat f.boff with
        | .bad s b => .fault s b
        | .ok s bv =>
          let r := lanes f th (rounds && f.rnd == 2#2) (th.vget f.vd.toNat) av bv (th.vget f.vc.toNat) (op f th)
          .run (s.addEvs (tileOfCore c) it .vector r.evs) ({ th with vgen := r.gens }.vset f.vd.toNat r.out) 1) s)

/-- The form of a two-operand FP32 instruction. -/
def formFF (rnd : Nat) : OpForm :=
  { layout := .v, vd := .vec, va := .vec, vb := .vec, memA := true, memB := true, fmt := .float, rnd := rnd }
/-- The form of a three-operand FP32 instruction. -/
def formFFF : OpForm := { formFF 2 with vc := .vec }
/-- The form of a one-operand FP32 instruction. -/
def formF (rnd : Nat) : OpForm := { layout := .v, vd := .vec, va := .vec, memA := true, fmt := .float, rnd := rnd }
/-- The form of a two-operand integer instruction. -/
def formII (sub : Nat) : OpForm :=
  { layout := .v, vd := .vec, va := .vec, vb := .vec, memA := true, memB := true, fmt := .int, sub := sub }

/-- No further condition on the word. -/
def noExtra (_ : VFields) : Bool := true

/-- VADD. -/
def execVadd (c : CoreId) (t : ThreadId) (f : VFields) (s : State) : Out :=
  laneOp (formFF 2) noExtra true (fun f _ x => fAdd f.rnd.toNat x.draw x.a x.b) c t f s
/-- VSUB. -/
def execVsub (c : CoreId) (t : ThreadId) (f : VFields) (s : State) : Out :=
  laneOp (formFF 2) noExtra true (fun f _ x => fSub f.rnd.toNat x.draw x.a x.b) c t f s
/-- VMUL. -/
def execVmul (c : CoreId) (t : ThreadId) (f : VFields) (s : State) : Out :=
  laneOp (formFF 2) noExtra true (fun f _ x => fMul f.rnd.toNat x.draw x.a x.b) c t f s
/-- VFMA: a * b + c, one rounding. -/
def execVfma (c : CoreId) (t : ThreadId) (f : VFields) (s : State) : Out :=
  laneOp formFFF noExtra true (fun f _ x => fFma f.rnd.toNat x.draw x.a x.b x.c) c t f s
/-- VFNMA: c - a * b, one rounding. -/
def execVfnma (c : CoreId) (t : ThreadId) (f : VFields) (s : State) : Out :=
  laneOp formFFF noExtra true (fun f _ x => fFnma f.rnd.toNat x.draw x.a x.b x.c) c t f s
/-- VADD3: a + b + c, one rounding. -/
def execVadd3 (c : CoreId) (t : ThreadId) (f : VFields) (s : State) : Out :=
  laneOp formFFF noExtra true (fun f _ x => fAdd3 f.rnd.toNat x.draw x.a x.b x.c) c t f s
/-- VMAX. -/
def execVmax (c : CoreId) (t : ThreadId) (f : VFields) (s : State) : Out :=
  laneOp (formFF 0) noExtra false (fun _ _ x => (fMax x.a x.b, .none)) c t f s
/-- VMIN. -/
def execVmin (c : CoreId) (t : ThreadId) (f : VFields) (s : State) : Out :=
  laneOp (formFF 0) noExtra false (fun _ _ x => (fMin x.a x.b, .none)) c t f s

/-- |a|; a NaN gives the canonical NaN (R191). -/
def fAbs (a : W32) : W32 := if (f32v a).isNan then nan32 else a &&& 0x7FFFFFFF#32

/-- VABS. -/
def execVabs (c : CoreId) (t : ThreadId) (f : VFields) (s : State) : Out :=
  laneOp (formF 0) noExtra false (fun _ _ x => (fAbs x.a, .none)) c t f s

/-- A 64-bit mask from 64 bits, lane 0 first. -/
def maskOf (bs : List Bool) : W64 :=
  BitVec.ofNat 64 (bs.foldr (fun b acc => 2 * acc + b2n b) 0)

/-- A compare into a mask register: bit l of m[vd] for active lanes; inactive bits cleared under PZ, else left (R139). -/
def compareOp (o : OpForm) (extra : VFields → Bool) (op : Nat → W32 → W32 → Bool) (c : CoreId) (t : ThreadId) (f : VFields)
    (s : State) : Out :=
  s.live (issue c t (o.legal f && extra f)
    (fun s th _ =>
      match s.operand c f th f.am f.va.toNat f.aoff with
      | .bad s b => .fault s b
      | .ok s av =>
        match s.operand c f th f.bm f.vb.toNat f.boff with
        | .bad s b => .fault s b
        | .ok s bv =>
          let old := th.mget f.vd.toNat
          let m := maskOf ((List.range 64).map (fun l =>
            if active f th l then op f.sub (nth 0 av l) (nth 0 bv l) else (!f.pz && old.getLsbD l)))
          .run s (th.mset f.vd.toNat m) 1) s)

/-- VCMP. -/
def execVcmp (c : CoreId) (t : ThreadId) (f : VFields) (s : State) : Out :=
  compareOp { formFF 0 with vd := .msk, sub := 7 } noExtra fCmp c t f s

/-- VSEL: x := (m[pm][l] = 1) ? a : b; P must be 1, PZ 0, and every lane is written (R147, R789). -/
def execVsel (c : CoreId) (t : ThreadId) (f : VFields) (s : State) : Out :=
  s.live (issue c t (({ layout := .v, vd := .vec, va := .vec, vb := .vec } : OpForm).legal f && f.p && !f.pz)
    (regs (fun th =>
      let m := th.mget f.pm
      th.vset f.vd.toNat ((List.range 64).map (fun l =>
        if m.getLsbD l then nth 0 (th.vget f.va.toNat) l else nth 0 (th.vget f.vb.toNat) l)))) s)

/-- VCVT: a rounded under RND to the value set of FMT, held as FP32. -/
def cvtLane (fmt rnd : Nat) (x : Lane) : W32 × Ev :=
  let v := f32v x.a
  let (q, ev) := toPlain fmt rnd x.draw v
  let r := laneOf fmt q
  (r, resultEv [v] (f32v r) ev)

/-- VCVT. -/
def execVcvt (c : CoreId) (t : ThreadId) (f : VFields) (s : State) : Out :=
  laneOp { layout := .v, vd := .vec, va := .vec, fmt := .target, rnd := 2 } noExtra true
    (fun f _ x => cvtLane f.fmt.toNat f.rnd.toNat x) c t f s

/-- VRCP. -/
def execVrcp (c : CoreId) (t : ThreadId) (f : VFields) (s : State) : Out :=
  laneOp (formF 1) noExtra false (fun f _ x => fRcp f.rnd.toNat x.a) c t f s
/-- VRSQRT. -/
def execVrsqrt (c : CoreId) (t : ThreadId) (f : VFields) (s : State) : Out :=
  laneOp (formF 1) noExtra false (fun f _ x => fRsqrt f.rnd.toNat x.a) c t f s
/-- VDIV. -/
def execVdiv (c : CoreId) (t : ThreadId) (f : VFields) (s : State) : Out :=
  laneOp (formFF 2) noExtra true (fun f _ x => fDiv f.rnd.toNat x.draw x.a x.b) c t f s
/-- VSQRT. -/
def execVsqrt (c : CoreId) (t : ThreadId) (f : VFields) (s : State) : Out :=
  laneOp (formF 2) noExtra true (fun f _ x => fSqrt f.rnd.toNat x.draw x.a) c t f s
/-- VEXP. -/
def execVexp (c : CoreId) (t : ThreadId) (f : VFields) (s : State) : Out :=
  laneOp (formF 1) noExtra false (fun f _ x => fExp f.rnd.toNat x.a) c t f s
/-- VLOG. -/
def execVlog (c : CoreId) (t : ThreadId) (f : VFields) (s : State) : Out :=
  laneOp (formF 1) noExtra false (fun f _ x => fLog f.rnd.toNat x.a) c t f s

/-- An integer lane operation. -/
def intOp (op : VFields → W32 → W32 → W32) (sub : Nat) (c : CoreId) (t : ThreadId) (f : VFields) (s : State) : Out :=
  laneOp (formII sub) noExtra false (fun f _ x => (op f x.a x.b, .none)) c t f s

/-- VIADD. -/
def execViadd (c : CoreId) (t : ThreadId) (f : VFields) (s : State) : Out := intOp (fun _ a b => a + b) 0 c t f s
/-- VISUB. -/
def execVisub (c : CoreId) (t : ThreadId) (f : VFields) (s : State) : Out := intOp (fun _ a b => a - b) 0 c t f s
/-- VIMUL. -/
def execVimul (c : CoreId) (t : ThreadId) (f : VFields) (s : State) : Out := intOp (fun _ a b => a * b) 0 c t f s
/-- VIAND. -/
def execViand (c : CoreId) (t : ThreadId) (f : VFields) (s : State) : Out := intOp (fun _ a b => a &&& b) 0 c t f s
/-- VIOR. -/
def execVior (c : CoreId) (t : ThreadId) (f : VFields) (s : State) : Out := intOp (fun _ a b => a ||| b) 0 c t f s
/-- VIXOR. -/
def execVixor (c : CoreId) (t : ThreadId) (f : VFields) (s : State) : Out := intOp (fun _ a b => a ^^^ b) 0 c t f s
/-- VISHL. -/
def execVishl (c : CoreId) (t : ThreadId) (f : VFields) (s : State) : Out :=
  intOp (fun _ a b => a <<< (b.toNat % 32)) 0 c t f s
/-- VISHR: SUB[0] 1 arithmetic, 0 logical; SUB[2:1] is not read (DEDUCED, log entry 24). -/
def execVishr (c : CoreId) (t : ThreadId) (f : VFields) (s : State) : Out :=
  intOp (fun f a b => if f.sub % 2 = 1 then a.sshiftRight (b.toNat % 32) else a >>> (b.toNat % 32)) 7 c t f s
/-- VIMAX. -/
def execVimax (c : CoreId) (t : ThreadId) (f : VFields) (s : State) : Out :=
  intOp (fun _ a b => if a.slt b then b else a) 0 c t f s
/-- VIMIN. -/
def execVimin (c : CoreId) (t : ThreadId) (f : VFields) (s : State) : Out :=
  intOp (fun _ a b => if b.slt a then b else a) 0 c t f s

/-- The signed comparisons of VICMP, SUB 0 to 5 (R147). -/
def iCmp (sub : Nat) (a b : W32) : Bool :=
  match sub with
  | 0 => a == b | 1 => a != b | 2 => a.slt b | 3 => !b.slt a | 4 => b.slt a | _ => !a.slt b

/-- VICMP. -/
def execVicmp (c : CoreId) (t : ThreadId) (f : VFields) (s : State) : Out :=
  compareOp { formII 5 with vd := .msk } noExtra iCmp c t f s

/-- VF2I: a rounded under RND to INT32, saturating; NaN gives 0 and a saturation event. -/
def execVf2i (c : CoreId) (t : ThreadId) (f : VFields) (s : State) : Out :=
  laneOp { layout := .v, vd := .vec, va := .vec, rnd := 2 } noExtra true
    (fun f _ x => let (q, ev) := toPlain 14 f.rnd.toNat x.draw (f32v x.a); (BitVec.ofNat 32 q, ev)) c t f s

/-- VI2F: a as FP32, rounded under RND. -/
def execVi2f (c : CoreId) (t : ThreadId) (f : VFields) (s : State) : Out :=
  laneOp { layout := .v, vd := .vec, va := .vec, rnd := 2 } noExtra true
    (fun f _ x => toF32 [] f.rnd.toNat x.draw (Val.ofInt x.a.toInt)) c t f s

/-- VMOV: x := a; a memory operand may have any vector format (DEDUCED, log entry 25). -/
def execVmov (c : CoreId) (t : ThreadId) (f : VFields) (s : State) : Out :=
  laneOp { layout := .v, vd := .vec, va := .vec, memA := true, fmt := .any } noExtra false (fun _ _ x => (x.a, .none)) c t f s

/-- VBCST: x := low 32 bits of s[va]. -/
def execVbcst (c : CoreId) (t : ThreadId) (f : VFields) (s : State) : Out :=
  laneOp { layout := .v, vd := .vec, va := .sca } noExtra false
    (fun f th _ => ((th.sget f.va.toNat).setWidth 32, .none)) c t f s

/-- VLANE: s[vd] := zero-extended v[va][s[vb] mod 64]. -/
def execVlane (c : CoreId) (t : ThreadId) (f : VFields) (s : State) : Out :=
  s.live (issue c t (({ vd := .sca, va := .vec, vb := .sca } : OpForm).legal f)
    (regs (fun th => th.sset f.vd.toNat ((nth 0 (th.vget f.va.toNat) ((th.sget f.vb.toNat).toNat % 64)).setWidth 64))) s)

/-- VIDX: x := l. -/
def execVidx (c : CoreId) (t : ThreadId) (f : VFields) (s : State) : Out :=
  laneOp { layout := .v, vd := .vec } noExtra false (fun _ _ x => (BitVec.ofNat 32 x.l, .none)) c t f s

/-- VPERM: x := v[va][v[vb][l] mod 64]. -/
def execVperm (c : CoreId) (t : ThreadId) (f : VFields) (s : State) : Out :=
  laneOp { layout := .v, vd := .vec, va := .vec, vb := .vec } noExtra false
    (fun f th x => (nth 0 (th.vget f.va.toNat) (x.b.toNat % 64), .none)) c t f s

/-! Scratch vectors (R151 to R154). -/

/-- VLD: v[vd][l] := mem(FMT, s[va] + OFF, l). -/
def execVld (c : CoreId) (t : ThreadId) (f : VFields) (s : State) : Out :=
  s.live (issue c t (({ layout := .l, vd := .vec, va := .sca, fmt := .mem } : OpForm).legal f)
    (fun s th _ =>
      let a := (th.sget f.va.toNat + BitVec.ofInt 64 f.loff).toNat / 64 * 64
      match s.readScr c f.ecc a (64 * fmtBytes f.fmt.toNat) with
      | none => .fault s E.CORE_SCRATCH_RANGE
      | some (s, bad) =>
        if bad then .fault s E.CORE_SCRATCH_UE
        else
          let v := (s.core c).vecAt f.fmt.toNat a
          let r := lanes f th false (th.vget f.vd.toNat) v [] [] (fun x => (x.a, .none))
          .run s (th.vset f.vd.toNat r.out) 1) s)

/-- R151, R195: a lane as the element of a vector format that VST and VSTX store. -/
def storeLane (fmt rnd : Nat) (x : Lane) : W32 × Ev :=
  let v := if isFloatFmt fmt then f32v x.a else Val.ofInt x.a.toInt
  let (q, ev) := toPlain fmt rnd x.draw v
  (BitVec.ofNat 32 q, convEv v ev)

/-- R139: what PZ 1 does in a store: the frame writes 0 to the inactive lanes of v[vd] (DEDUCED, log entry 206). -/
def Thread.zeroIdle (th : Thread) (f : VFields) : Thread :=
  if f.pz then th.vset f.vd.toNat ((List.range 64).map (fun l => if active f th l then nth 0 (th.vget f.vd.toNat) l else 0)) else th

/-- VST: element l at s[va] + OFF := v[vd][l], converted to FMT under RND, for active lanes. -/
def execVst (c : CoreId) (t : ThreadId) (f : VFields) (s : State) : Out :=
  s.live (issue c t (({ layout := .l, vd := .vec, va := .sca, fmt := .mem, rnd := 2 } : OpForm).legal f)
    (fun s th it =>
      let fm := f.fmt.toNat
      let w := fmtBytes fm
      let a := (th.sget f.va.toNat + BitVec.ofInt 64 f.loff).toNat / 64 * 64
      if a + 64 * w ≤ scratchBytes then
        let r := lanes f th (f.rnd == 2#2) [] (th.vget f.vd.toNat) [] [] (storeLane fm f.rnd.toNat)
        let x := (List.range 64).foldl (fun (x : Core) l =>
          if active f th l then x.scrWrite (a + w * l) (leBytes w (nth 0 r.out l).toNat) else x) (s.core c)
        .run ((s.setCore c x).addEvs (tileOfCore c) it .vector r.evs) ({ th with vgen := r.gens }.zeroIdle f) 1
      else .fault s E.CORE_SCRATCH_RANGE) s)

/-- R151: the byte address of lane l of VLDX and VSTX, the bits below the element size ignored. -/
def laneAddr (th : Thread) (f : VFields) (l : Nat) : Nat :=
  let w := fmtBytes f.fmt.toNat
  (th.sget f.va.toNat + BitVec.ofInt 64 f.loff + (nth 0 (th.vget f.vb.toNat) l).setWidth 64).toNat / w * w

/-- The active lanes of an instruction. -/
def activeLanes (f : VFields) (th : Thread) : List Nat := (List.range 64).filter (active f th)

/-- VLDX: v[vd][l] := element at s[va] + OFF + v[vb][l]. -/
def execVldx (c : CoreId) (t : ThreadId) (f : VFields) (s : State) : Out :=
  s.live (issue c t (({ layout := .l, vd := .vec, va := .sca, vb := .vec, fmt := .mem } : OpForm).legal f)
    (fun s th _ =>
      let fm := f.fmt.toNat
      let w := fmtBytes fm
      let as := activeLanes f th
      if as.all (fun l => decide (laneAddr th f l + w ≤ scratchBytes)) then
        let s := match as with
          | [] => s
          | l :: _ => s.scratchEcc c f.ecc (laneAddr th f l) w
        if as.any (fun l => (s.core c).scratchBad (laneAddr th f l) w) then .fault s E.CORE_SCRATCH_UE
        else
          let x := s.core c
          let r := lanes f th false (th.vget f.vd.toNat) [] [] []
            (fun y => (laneOf fm (ofLe (x.scr (laneAddr th f y.l) w)), .none))
          .run s (th.vset f.vd.toNat r.out) 1
      else .fault s E.CORE_SCRATCH_RANGE) s)

/-- VSTX: element at s[va] + OFF + v[vb][l] := v[vd][l]; of two lanes on one element the higher-numbered stands (R153). -/
def execVstx (c : CoreId) (t : ThreadId) (f : VFields) (s : State) : Out :=
  s.live (issue c t (({ layout := .l, vd := .vec, va := .sca, vb := .vec, fmt := .mem, rnd := 2 } : OpForm).legal f)
    (fun s th it =>
      let fm := f.fmt.toNat
      let w := fmtBytes fm
      let as := activeLanes f th
      if as.all (fun l => decide (laneAddr th f l + w ≤ scratchBytes)) then
        let r := lanes f th (f.rnd == 2#2) [] (th.vget f.vd.toNat) [] [] (storeLane fm f.rnd.toNat)
        let x := as.foldl (fun (x : Core) l => x.scrWrite (laneAddr th f l) (leBytes w (nth 0 r.out l).toNat)) (s.core c)
        .run ((s.setCore c x).addEvs (tileOfCore c) it .vector r.evs) ({ th with vgen := r.gens }.zeroIdle f) 1
      else .fault s E.CORE_SCRATCH_RANGE) s)

/-! Reductions (R170, R796). -/

/-- One level of the reduction tree: neighbours combined. -/
def treeLevel (op : W32 → W32 → W32) : List W32 → List W32
  | a :: b :: r => op a b :: treeLevel op r
  | l => l

/-- The fixed tree over 64 lanes: 6 levels. -/
def tree64 (op : W32 → W32 → W32) (l : List W32) : W32 :=
  nth 0 ((List.range 6).foldl (fun l _ => treeLevel op l) l) 0

/-- R796: the one event of a reduction. -/
def reduceEv (act : List W32) (x : W32) : Evs :=
  let e : Evs := {}
  match f32v x with
  | .nan => if act.any (fun a => (f32v a).isNan) then e else e.add .nan
  | .inf _ => if act.all (fun a => (f32v a).isFin) then e.add .ovf else e
  | _ => e

/-- A reduction: inactive lanes enter as a given value; the result goes to every lane of VD. -/
def reduceOp (rnd : Nat) (fill : W32) (op : Nat → W32 → W32 → W32) (c : CoreId) (t : ThreadId) (f : VFields) (s : State) : Out :=
  s.live (issue c t (({ layout := .t, vd := .vec, va := .vec, rnd := rnd } : OpForm).legal f && fld f.imm.toNat 6 0 == 0)
    (fun s th it =>
      let v := th.vget f.va.toNat
      let x := tree64 (op f.rnd.toNat) ((List.range 64).map (fun l => if active f th l then nth 0 v l else fill))
      let acts := (activeLanes f th).map (fun l => nth 0 v l)
      .run (s.addEvs (tileOfCore c) it .vector (reduceEv acts x)) (th.vset f.vd.toNat (List.replicate 64 x)) 1) s)

/-- VRSUM. -/
def execVrsum (c : CoreId) (t : ThreadId) (f : VFields) (s : State) : Out :=
  reduceOp 1 0#32 (fun rnd a b => (fAdd rnd 0 a b).1) c t f s
/-- VRMAX; RND 0 or 1, without effect (R176). -/
def execVrmax (c : CoreId) (t : ThreadId) (f : VFields) (s : State) : Out :=
  reduceOp 1 0xFF800000#32 (fun _ a b => fMax a b) c t f s
/-- VRMIN; RND 0 or 1, without effect (R176). -/
def execVrmin (c : CoreId) (t : ThreadId) (f : VFields) (s : State) : Out :=
  reduceOp 1 0x7F800000#32 (fun _ a b => fMin a b) c t f s

/-! Top-k (R171 to R173). -/

/-- R171: does entry a stand before entry b: larger value first, +0 and -0 equal, then the smaller position. -/
def topBefore (a b : W32 × Int) : Bool :=
  match (f32v a.1).cmp (f32v b.1) with
  | 1 => true
  | 0 => decide (a.2 ≤ b.2)
  | _ => false

/-- R173: an entry that takes part: no NaN, position 0 to 4,095. -/
def topValid (e : W32 × Int) : Bool := !(f32v e.1).isNan && decide (0 ≤ e.2) && decide (e.2 ≤ 4095)

/-- R172: an entry put in its rank of a ranked list. -/
def topInsert (e : W32 × Int) : List (W32 × Int) → List (W32 × Int)
  | [] => [e]
  | x :: r => if topBefore x e then x :: topInsert e r else e :: x :: r

/-- The k best entries in the order of R171. -/
def topMerge (k : Nat) (es : List (W32 × Int)) : List (W32 × Int) :=
  ((es.filter topValid).foldl (fun l e => topInsert e l) []).take k

/-- VTOPK: merges the active lanes of v[vb], at positions s[va] + l, into the list of v[vd] and v[vd+1]. -/
def execVtopk (c : CoreId) (t : ThreadId) (f : VFields) (s : State) : Out :=
  let k := fld f.imm.toNat 6 0
  s.live (issue c t (({ layout := .t, vd := .vec, va := .sca, vb := .vec } : OpForm).legal f &&
      f.vd.toNat % 2 == 0 && decide (1 ≤ k) && decide (k ≤ 64))
    (regs (fun th =>
      let d := f.vd.toNat
      let old := (List.range 64).map (fun l => (nth 0 (th.vget d) l, (nth 0 (th.vget (d + 1)) l).toInt))
      let new := (activeLanes f th).map (fun l =>
        (nth 0 (th.vget f.vb.toNat) l, (th.sget f.va.toNat + BitVec.ofNat 64 l).toInt))
      let top := topMerge k (old ++ new)
      let at' (l : Nat) : W32 × Int := nth (0xFF800000#32, -1) top l
      (th.vset d ((List.range 64).map (fun l => (at' l).1))).vset (d + 1)
        ((List.range 64).map (fun l => BitVec.ofInt 32 (at' l).2)))) s)

/-! Masks (R147). -/

/-- MLOGIC: SUB 0 AND, 1 OR, 2 XOR, 3 AND-NOT. -/
def execMlogic (c : CoreId) (t : ThreadId) (f : VFields) (s : State) : Out :=
  s.live (issue c t (({ layout := .v, vd := .msk, va := .msk, vb := .msk, sub := 3, pred := false } : OpForm).legal f)
    (regs (fun th =>
      let a := th.mget f.va.toNat
      let b := th.mget f.vb.toNat
      th.mset f.vd.toNat (match f.sub with | 0 => a &&& b | 1 => a ||| b | 2 => a ^^^ b | _ => a &&& ~~~b))) s)

/-- MNOT. -/
def execMnot (c : CoreId) (t : ThreadId) (f : VFields) (s : State) : Out :=
  s.live (issue c t (({ layout := .v, vd := .msk, va := .msk, pred := false } : OpForm).legal f)
    (regs (fun th => th.mset f.vd.toNat (~~~(th.mget f.va.toNat)))) s)

/-- MFROMS: m[vd] := s[va]. -/
def execMfroms (c : CoreId) (t : ThreadId) (f : VFields) (s : State) : Out :=
  s.live (issue c t (({ vd := .msk, va := .sca } : OpForm).legal f)
    (regs (fun th => th.mset f.vd.toNat (th.sget f.va.toNat))) s)

/-- MTOS: s[vd] := m[va]. -/
def execMtos (c : CoreId) (t : ThreadId) (f : VFields) (s : State) : Out :=
  s.live (issue c t (({ vd := .sca, va := .msk } : OpForm).legal f)
    (regs (fun th => th.sset f.vd.toNat (th.mget f.va.toNat))) s)

/-- The number of 1 bits of a mask. -/
def popCount (m : W64) : Nat := ((List.range 64).filter (fun l => m.getLsbD l)).length

/-- MPOP: s[vd] := number of 1 bits in m[va]. -/
def execMpop (c : CoreId) (t : ThreadId) (f : VFields) (s : State) : Out :=
  s.live (issue c t (({ vd := .sca, va := .msk } : OpForm).legal f)
    (regs (fun th => th.sset f.vd.toNat (BitVec.ofNat 64 (popCount (th.mget f.va.toNat))))) s)

/-! Random bits (R174, R200, R201). -/

/-- RNGRD: x := next 32 bits of each lane's generator; P, AM and BM must be 0 (R148). -/
def execRngrd (c : CoreId) (t : ThreadId) (f : VFields) (s : State) : Out :=
  s.live (issue c t (({ layout := .v, vd := .vec, pred := false } : OpForm).legal f)
    (regs (fun th =>
      let ds := (List.range 64).map (fun l => genDraw (nth 0 th.vgen l))
      { th with vgen := ds.map Prod.fst }.vset f.vd.toNat (ds.map Prod.snd))) s)

/-- RNGLD: the state of lane l := v[va][l], v[va+1][l], v[va+2][l], v[va+3][l], low word first; VA is 28 or less (R149). -/
def execRngld (c : CoreId) (t : ThreadId) (f : VFields) (s : State) : Out :=
  s.live (issue c t (({ va := .vec } : OpForm).legal f && decide (f.va.toNat ≤ 28))
    (regs (fun th =>
      let w (k l : Nat) : W32 := nth 0 (th.vget (f.va.toNat + k)) l
      { th with vgen := (List.range 64).map (fun l => genFix (w 3 l ++ (w 2 l ++ (w 1 l ++ w 0 l)))) })) s)

/-- RNGST: v[vd+k][l] := word k of the state of lane l; VD is 28 or less (R149). -/
def execRngst (c : CoreId) (t : ThreadId) (f : VFields) (s : State) : Out :=
  s.live (issue c t (({ vd := .vec } : OpForm).legal f && decide (f.vd.toNat ≤ 28))
    (regs (fun th => (List.range 4).foldl (fun (th : Thread) k =>
      th.vset (f.vd.toNat + k) (th.vgen.map (fun g => g.extractLsb' (32 * k) 32))) th)) s)

/-! Illegal encodings (R138, R147). -/

/-- UNDEFINED_OPCODE: the thread issues an undefined opcode and faults with ILLEGAL_OP; a word with a defined opcode is not
one (its own command checks the rest of it) and nothing happens. -/
def execUndefinedOpcode (c : CoreId) (t : ThreadId) (w : W64) (s : State) : Out :=
  s.live (if (decodeVector c t .ok w).isSome then s else issue c t false (regs id) s)

end Sys2Proof.Machine
end

