-- ==== Sys2Proof/Machine/CoreAsync.lean ====
section
/-! DEFINITION. Asynchronous operations of a core (R155 to R163): their issue, the matrix array, the load and store paths at
work, and their completion; rings and items as a thread sees them (R164 to R169); instruction-cache fills (R135). -/

namespace Sys2Proof.Machine

/-! Issue (R155 to R163). -/

/-- R156: may the thread issue one more asynchronous operation? -/
def Thread.roomAsync (th : Thread) : Bool := decide (th.outst.length + th.cq.length < 16)

/-- The core's operation counter advances; the thread holds operation n. -/
def Thread.hold (th : Thread) (op : Nat) (tag : Bool) : Thread := { th with outst := th.outst ++ [(op, tag)] }

/-- The external ranges of a row store of n elements of a format. -/
def storeRanges (fmt : Nat) (bf : Bfd) (base param stride rows n : Nat) : List (Nat × Nat) :=
  (List.range rows).map (fun r => (base + r * stride, rowBytes fmt n)) ++
    (if isTb fmt then (List.range rows).map (fun r => (param + r * stride / blockBytes fmt bf.block, cdiv n bf.block))
     else if isZp fmt ∧ param ≠ 0 then [(param, 8 * rows)] else [])

/-- VOUT. -/
def execVout (c : CoreId) (t : ThreadId) (f : VFields) (s : State) : Out :=
  s.live (issue c t (({ layout := .q, vd := .vec, va := .sca, vc := .sca } : OpForm).legal f)
    (fun s th _ =>
      if !th.roomAsync then .wait
      else
        let tile := tileOfCore c
        let bf := s.bfd tile f.bfd
        let a := (th.sget f.va.toNat + BitVec.ofInt 64 f.qoff).toNat
        let p := (th.sget f.vc.toNat).toNat
        if !extBaseOk bf.fmt bf.block p 0 then .fault s E.CORE_ILLEGAL_OP
        else if !s.privOk bf.fmt bf.priv then .fault (s.privSeen bf.fmt bf.priv) E.CORE_ILLEGAL_OP
        else if (storeRanges bf.fmt bf a p 0 1 64).any (s.otherWindow tile) then .fault s E.CORE_SCRATCH_RANGE
        else
          let x := s.core c
          let v : VoutOp := { op := x.nextOp, thread := t.val, addr := a, scBase := p, d := f.bfd, bf := bf, lanes := th.vget f.vd.toNat, gens := th.sgen }
          .run ((s.privSeen bf.fmt bf.priv).setCore c { x with nextOp := x.nextOp + 1, spq := x.spq ++ [.vout v] })
            ((th.drawn bf.round 1 64).hold x.nextOp false) 1) s)

/-- R88: the load in ring mode that a matrix operation takes for an operand. -/
def Thread.ringFor (th : Thread) (ring off layout : Nat) (not' : Option Nat) : Option RingLoad :=
  th.ringLoads.find? (fun r => !r.taken && r.n == ring && r.off == off && r.layout == layout && decide (some r.op ≠ not'))

/-- A ring load marked as taken. -/
def Thread.take (th : Thread) (op : Option Nat) : Thread :=
  { th with ringLoads := th.ringLoads.map (fun r => if some r.op = op then { r with taken := true } else r) }

/-- R87: the outstanding loads of a thread whose scratch bytes meet an operand. -/
def Core.loadsInto (x : Core) (t : Nat) (off n : Nat) : List Nat :=
  x.lpq.filterMap (fun y =>
    let d : XDesc := {
      ext := 0, scale := 0, stashAddr := 0, scr := y.scr, sums := 0, rows := y.rows, elems := y.elems, stride := 0,
      extFmt := y.extFmt, scrFmt := y.scrFmt, bfd := 0, layout := y.layout, transpose := y.transpose, stash := 0, sumsOn := false,
      ring := y.ring, slope := 0, tag := 0, lo := 0, hi := 0, reserved := false }
    if y.thread = t ∧ overlaps y.scr d.span off n then some y.op else none)

/-- MTQ. A refused descriptor queues nothing; its tag returns to the thread (DEDUCED, log entry 27). -/
def execMtq (c : CoreId) (t : ThreadId) (f : VFields) (s : State) : Out :=
  s.live (issue c t (({ layout := .q, va := .sca, vb := .sca, vc := .sca } : OpForm).legal f)
    (fun s th _ =>
      if !th.roomAsync || decide (4 ≤ (s.core c).queue.length) then .wait
      else
        match s.readScr c f.ecc (th.sget f.va.toNat).toNat 32 with
        | none => .fault s E.CORE_SCRATCH_RANGE
        | some (s, bad) =>
          if bad then .fault s E.CORE_SCRATCH_UE
          else
            let tile := tileOfCore c
            let x := s.core c
            let d := MDesc.ofBytes (x.scr (th.sget f.va.toNat).toNat 32)
            let a := if d.aRing = 0 then none else (th.ringFor d.aRing d.aOff 1 none).map (·.op)
            let b := if d.bRing = 0 then none else (th.ringFor d.bRing d.bOff 2 none).map (·.op)
            let ringOk := (d.aRing == 0 || a.isSome) && (d.bRing == 0 || b.isSome)
            if !d.ok || !ringOk then
              .run (s.err (.core c) E.CORE_MTILE_BAD) { th with cq := th.cq ++ [BitVec.ofNat 16 d.tag] } 1
            else
              let bf := s.bfd tile f.bfd
              let base := (th.sget f.vb.toNat).toNat
              let p := (th.sget f.vc.toNat).toNat
              let store := d.out == 2
              if store && !extBaseOk bf.fmt bf.block p f.qstride then .fault s E.CORE_ILLEGAL_OP
              else if store && !s.privOk bf.fmt bf.priv then .fault (s.privSeen bf.fmt bf.priv) E.CORE_ILLEGAL_OP
              else if store && (storeRanges bf.fmt bf base p f.qstride 64 64).any (s.otherWindow tile) then .fault s E.CORE_SCRATCH_RANGE
              else
                let waits := x.loadsInto t.val d.aOff (positions d.aRing d.k * sliceBytes d.aFmt) ++
                  x.loadsInto t.val d.bOff (positions d.bRing d.k * sliceBytes d.bFmt)
                let m : MOp := {
                  op := x.nextOp, thread := t.val, aRing := d.aRing, aOff := d.aOff, bRing := d.bRing, bOff := d.bOff,
                  k := d.k, out := d.out, bank := d.bank, accIn := d.accIn, aFmt := d.aFmt, bFmt := d.bFmt, cOff := d.cOff, aSc := d.aSc,
                  bSc := d.bSc, tag := BitVec.ofNat 16 d.tag, base := base, stride := f.qstride, scBase := p, d := f.bfd, bf := bf,
                  gens := th.sgen, waits := waits, aLoad := a, bLoad := b }
                let th := (th.take a).take b
                .run ((if store then s.privSeen bf.fmt bf.priv else s).setCore c { x with nextOp := x.nextOp + 1, queue := x.queue ++ [m] })
                  ((if store then th.drawn bf.round 64 64 else th).hold x.nextOp true) 1) s)

/-- A queued transfer from its descriptor. -/
def Xfer.ofDesc (d : XDesc) (op thread : Nat) (bf : Bfd) (gens : List Gen) : Xfer :=
  { op := op, thread := thread, ext := d.ext, scale := d.scale, stashAddr := d.stashAddr, scr := d.scr, sums := d.sums, rows := d.rows,
    elems := d.elems, stride := d.stride, extFmt := d.extFmt, scrFmt := d.scrFmt, d := d.bfd, bf := bf, layout := d.layout,
    transpose := d.transpose, stash := d.stash, sumsOn := d.sumsOn, ring := d.ring, slope := BitVec.ofNat 32 d.slope,
    tag := BitVec.ofNat 16 d.tag, lo := BitVec.ofNat 32 d.lo, hi := BitVec.ofNat 32 d.hi, gens := gens }

/-- The descriptor that a queued transfer came from. -/
def Xfer.desc (x : Xfer) : XDesc :=
  { ext := x.ext, scale := x.scale, stashAddr := x.stashAddr, scr := x.scr, sums := x.sums, rows := x.rows, elems := x.elems,
    stride := x.stride, extFmt := x.extFmt, scrFmt := x.scrFmt, bfd := x.d, layout := x.layout, transpose := x.transpose, stash := x.stash,
    sumsOn := x.sumsOn, ring := x.ring, slope := x.slope.toNat, tag := x.tag.toNat, lo := x.lo.toNat, hi := x.hi.toNat, reserved := false }

/-- LPQ and SPQ: the descriptor read and checked, the transfer queued. -/
def queueTransfer (load : Bool) (c : CoreId) (t : ThreadId) (f : VFields) (s : State) : State :=
  issue c t (({ layout := .q, va := .sca } : OpForm).legal f && f.bfd == 0)
    (fun s th _ =>
      let depth := if load then (s.core c).lpq.length else (s.core c).spq.length
      if !th.roomAsync || decide (8 ≤ depth) then .wait
      else
        let a := (th.sget f.va.toNat + BitVec.ofInt 64 f.qoff).toNat
        match s.readScr c f.ecc a 64 with
        | none => .fault s E.CORE_SCRATCH_RANGE
        | some (s, bad) =>
          if bad then .fault s E.CORE_SCRATCH_UE
          else
            let tile := tileOfCore c
            let x := s.core c
            let d := XDesc.ofBytes (x.scr a 64)
            let bf := s.bfd tile d.bfd
            let fmt := if load then d.scrFmt else d.extFmt
            let priv := if load then 0 else bf.priv
            if !(if load then d.loadOk bf else d.storeOk bf) then .fault s E.CORE_ILLEGAL_OP
            else if !s.privOk fmt priv then .fault (s.privSeen fmt priv) E.CORE_ILLEGAL_OP
            else if decide (scratchBytes < d.scr + d.span) ||
                (d.sumsOn && decide (scratchBytes < d.sums + 4 * (if d.layout = 0 then d.rows else 64))) ||
                (d.ranges bf).any (s.otherWindow tile) then .fault s E.CORE_SCRATCH_RANGE
            else
              let y := Xfer.ofDesc d x.nextOp t.val bf th.sgen
              if load then
                let th := if d.ring = 0 then th
                  else { th with ringLoads := th.ringLoads ++ [{
                    op := x.nextOp, n := d.ring, off := d.scr, layout := d.layout,
                    slices := d.slices, ty := bf.scaleType, taken := false, done := false, codes := [], scales := [] }] }
                .run (s.setCore c { x with nextOp := x.nextOp + 1, lpq := x.lpq ++ [y] }) (th.hold x.nextOp true) 1
              else
                .run ((s.privSeen fmt priv).setCore c { x with nextOp := x.nextOp + 1, spq := x.spq ++ [.spq y] })
                  ((th.drawn bf.round d.rows d.elems).hold x.nextOp true) 1) s

/-- LPQ. -/
def execLpq (c : CoreId) (t : ThreadId) (f : VFields) (s : State) : Out := s.live (queueTransfer true c t f s)
/-- SPQ. -/
def execSpq (c : CoreId) (t : ThreadId) (f : VFields) (s : State) : Out := s.live (queueTransfer false c t f s)

/-! Completion (R157, R158). -/

/-- An operation of a thread is complete; its tag, where it returns one, enters the completion queue. -/
def Thread.complete (th : Thread) (op : Nat) (tag : Option (BitVec 16)) : Thread :=
  { th with outst := th.outst.filter (fun o => decide (o.1 ≠ op)),
            cq := match tag with | some g => th.cq ++ [g] | none => th.cq }

/-- An operation of thread t of core c is complete. -/
def State.completeOp (s : State) (c : CoreId) (t op : Nat) (tag : Option (BitVec 16)) : State :=
  (s.setThread c t ((s.thread c t).complete op tag)).settle c t

/-- The train of a thread's item fails at its stage (R115, R486); in a train that has failed, the thread's work ends (R182). -/
def State.failItem (s : State) (c : CoreId) (t : Nat) : State :=
  match (s.thread c t).item with
  | none => s
  | some it =>
    if s.itemFailed (tileOfCore c) it then s.setCore c (((s.core c).dropFrom t 0).setThread t Thread.init)
    else s.failStage (tileOfCore c) it.train it.stage

/-! The matrix array. -/

/-- An operand of the array from its codes and its scale bytes with their types in slice order: 64 rows of K values; b says operand B. -/
def operandOf (b : Bool) (fmt k : Nat) (codes : List Nat) (scales : List (Nat × Nat)) : Operand :=
  let val (i : Nat) (q : Nat) : Val :=
    if isTb fmt then (let sc := nth (0, 0) scales (i / 16); tbVal fmt q sc.2 sc.1) else elemVal fmt q
  let vals := (codes.zip (List.range codes.length)).map (fun x => val x.2 x.1)
  let slices := (List.range (k / 32)).map (fun g => (vals.drop (2048 * g)).take 2048)
  (List.range 64).map (fun i =>
    slices.flatMap (fun sl =>
      if b then (List.range 32).map (fun r => nth (.fin false 0 0) sl (64 * r + i)) else (sl.drop (32 * i)).take 32))

/-- R233: the block scale at a scratch offset for an operand of a format, with its SCALE_TYPE: that of the load that placed it; no rule
gives the type of one that no load placed. -/
def Core.scaleAt (x : Core) (fmt a : Nat) : Nat × Nat :=
  let b := ofLe (x.scr a 1)
  (b, match x.scaleTy.find? (fun e => decide (e.1 ≤ a) && decide (a < e.1 + e.2.1)) with
    | some e => e.2.2
    | none => Config.arrayScaleType a fmt b % 2)

/-- The codes and block scales of an operand held whole in scratch (R86, R233). -/
def Core.wholeOperand (x : Core) (fmt off sc k : Nat) : List Nat × List (Nat × Nat) :=
  ((List.range (k / 32)).flatMap (fun g => unpack fmt 2048 (x.scr (off + g * sliceBytes fmt) (sliceBytes fmt))),
   if isTb fmt then (List.range (k * 4)).map (fun i => x.scaleAt fmt (sc + i)) else [])

/-- May the operation at the head of the queue start? Its loads have placed their bytes, a ring load all slices it takes. -/
def Core.canStart (x : Core) (m : MOp) : Bool :=
  m.waits.all (fun o => !x.lpq.any (fun y => y.op == o)) &&
    [m.aLoad, m.bLoad].all (fun o => match o with
      | none => true
      | some op => (x.thread m.thread).ringLoads.any (fun r => r.op == op && r.done && decide (m.k / 32 ≤ r.slices)))

/-- Can an operation never start: it takes a load that has placed its bytes or is gone, and too few of them? -/
def Core.starved (x : Core) (m : MOp) : Bool :=
  !x.canStart m && m.waits.all (fun o => !x.lpq.any (fun y => y.op == o)) &&
    [m.aLoad, m.bLoad].all (fun o => match o with | none => true | some op => !x.lpq.any (fun y => y.op == op))

/-- Has a thread's train failed? -/
def State.threadFailed (s : State) (c : CoreId) (t : Nat) : Bool :=
  match (s.thread c t).item with
  | none => false
  | some it => s.itemFailed (tileOfCore c) it

/-- The scratch ranges that a matrix operation reads: operands and their block scales, and C (R85, R233, R234). -/
def MOp.reads (m : MOp) : List (Nat × Nat) :=
  let side (ring off sc fmt : Nat) : List (Nat × Nat) :=
    (off, positions ring m.k * sliceBytes fmt) :: (if isTb fmt then [(sc, positions ring m.k * 128)] else [])
  side m.aRing m.aOff m.aSc m.aFmt ++ side m.bRing m.bOff m.bSc m.bFmt ++ (if m.accIn = 2 then [(m.cOff, 16384)] else [])

/-- MATRIX_TILE_OP: the array runs the operation at the head of its queue into its bank (R84, R87, R208 to R214). The scratch
words it reads pass the ECC (R130). An operation of a failed train that can never start is given up. -/
def State.runTile (s : State) (c : CoreId) (ecc : Ecc) : State :=
  let x := s.core c
  match x.queue with
  | [] => s
  | m :: _ =>
    if x.running then s
    else if !x.canStart m then
      (if x.starved m && s.threadFailed c m.thread then s.setCore c (x.dropFrom m.thread m.op) |>.settle c m.thread else s)
    else
      let th := x.thread m.thread
      let s := s.scratchEcc c ecc m.aOff 8
      let x := s.core c
      if m.reads.any (fun r => x.scratchBad r.1 r.2) then s.opFault c m.thread m.op E.CORE_SCRATCH_UE
      else
        let ring (o : Option Nat) : Option (List Nat × List (Nat × Nat)) :=
          o.bind (fun op => (th.ringLoads.find? (fun r => r.op == op)).map (fun r => (r.codes, r.scales.map (fun b => (b, r.ty)))))
        let (ac, as') := (ring m.aLoad).getD (x.wholeOperand m.aFmt m.aOff m.aSc m.k)
        let (bc, bs') := (ring m.bLoad).getD (x.wholeOperand m.bFmt m.bOff m.bSc m.k)
        let c0 : Option (List W32) :=
          match m.accIn with
          | 0 => none
          | 1 => some (if m.bank = 0 then x.bank0 else x.bank1)
          | _ => some ((List.range 4096).map (fun i => BitVec.ofNat 32 (ofLe (x.scr (m.cOff + 4 * i) 4))))
        let (out, evs) := matrixProduct (decide (11 ≤ m.aFmt)) (operandOf false m.aFmt m.k ac as') (operandOf true m.bFmt m.k bc bs') m.k c0
        let s := s.setCore c { s.core c with running := true, bank0 := if m.bank = 0 then out else x.bank0,
                                             bank1 := if m.bank = 0 then x.bank1 else out }
        match th.item with
        | none => s
        | some it => s.addEvs (tileOfCore c) it .matrix evs

/-- MATRIX_TILE_OP: what it does; an injected error leaves scratch as it is (R699). -/
def execMatrixTileOp (c : CoreId) (ecc : Ecc) (s : State) : Out := s.live ((s.runTile c ecc).keepScratch s c)

/-- The array gives up the operation at the head of its queue. -/
def Core.popMatrix (x : Core) (m : MOp) : Core :=
  let x := { x with queue := x.queue.tail, running := false }
  x.setThread m.thread { x.thread m.thread with ringLoads := (x.thread m.thread).ringLoads.filter (fun r => decide (some r.op ≠ m.aLoad) && decide (some r.op ≠ m.bLoad)) }

/-- MATRIX_TILE_OP_DONE: the operation's result is in its bank, in scratch or visible in memory, and its tag returns (R158, R159). -/
def execMatrixTileOpDone (c : CoreId) (s : State) : Out :=
  s.live (
    let x := s.core c
    match x.queue with
    | [] => s
    | m :: _ =>
      if !x.running then s
      else
        let bank := if m.bank = 0 then x.bank0 else x.bank1
        let fin (s : State) : State := (s.setCore c ((s.core c).popMatrix m)).completeOp c m.thread m.op (some m.tag)
        match m.out with
        | 1 => fin (s.setCore c (x.scrWrite m.cOff (bank.flatMap (fun w => leBytes 4 w.toNat))))
        | 2 =>
          match (x.thread m.thread).item with
          | none => s
          | some it =>
            let rows := (List.range 64).map (fun r => ((bank.drop (64 * r)).take 64).map f32v)
            let k : StoreCtx := { fmt := m.bf.fmt, bf := m.bf, spq := false, fb := 0, base := m.base, param := m.scBase, stride := m.stride }
            match s.storeOp c it k m.d m.gens rows StashCtx.off with
            | .ok s _ => fin s
            | .wait s => s
            | .fail s => s.failItem c m.thread
        | _ => fin s)

/-! The store path. -/

/-- VOUT_DONE: the VOUT at the head of the store path is visible (R158); it returns no tag (R157). -/
def execVoutDone (c : CoreId) (s : State) : Out :=
  s.liveIn (.tile (tileOfCore c)) (
    match (s.core c).spq with
    | .vout v :: r =>
      match (s.thread c v.thread).item with
      | none => s
      | some it =>
        let k : StoreCtx := { fmt := v.bf.fmt, bf := v.bf, spq := false, fb := 0, base := v.addr, param := v.scBase, stride := 0 }
        match s.storeOp c it k v.d v.gens [v.lanes.map f32v] StashCtx.off with
        | .ok s _ => (s.setCore c { s.core c with spq := r }).completeOp c v.thread v.op none
        | .wait s => s
        | .fail s => s.failItem c v.thread
    | _ => s)

/-- The values of the rows of a store from scratch: block-scaled codes under the scales that follow them (R232), integer codes
as q (DEDUCED, log entry 28). -/
def Core.sourceRows (x : Core) (y : Xfer) : List (List Val) :=
  let rows := x.scrRows y.scrFmt y.scr y.layout y.rows y.elems
  if isTb y.scrFmt then
    let base := y.scr + alignUp y.desc.dataBytes 64
    let per := if y.layout = 0 then scrRow y.scrFmt y.elems * 8 / elemBits y.scrFmt else 0
    (rows.zip (List.range rows.length)).map (fun r =>
      (r.1.zip (List.range r.1.length)).map (fun e =>
        let n := XDesc.index y.layout per r.2 e.2
        tbVal y.scrFmt e.1 y.bf.scaleType (ofLe (x.scr (base + n / 16) 1))))
  else rows.map (fun r => r.map (elemVal y.scrFmt))

/-- SPQ_DONE: the SPQ at the head of the store path: its rows are converted and written, its stash, scales and records with
them, and its tag returns (R97, R158, R162, R235). -/
def State.storeNext (s : State) (c : CoreId) (ecc : Ecc) : State :=
  match (s.core c).spq with
  | .spq y :: r =>
    match (s.thread c y.thread).item with
    | none => s
    | some it =>
      let s := s.scratchEcc c ecc y.scr 8
      if (s.core c).scratchBad y.scr y.desc.span then s.opFault c y.thread y.op E.CORE_SCRATCH_UE
      else
        let rows := (s.core c).sourceRows y
        let k : StoreCtx := { fmt := y.extFmt, bf := y.bf, spq := true, fb := 0, base := y.ext, param := y.scale, stride := y.stride }
        match s.storeOp c it k y.d y.gens rows { mode := y.stash, addr := y.stashAddr, lo := y.lo, hi := y.hi } with
        | .ok s _ => (s.setCore c { s.core c with spq := r }).completeOp c y.thread y.op (some y.tag)
        | .wait s => s
        | .fail s => s.failItem c y.thread
  | _ => s

/-- SPQ_DONE: what it does; an injected error leaves scratch as it is (R699). -/
def execSpqDone (c : CoreId) (ecc : Ecc) (s : State) : Out := s.liveIn (.tile (tileOfCore c)) ((s.storeNext c ecc).keepScratch s c)

/-! The load path. -/

/-- Several load-path reads in order. -/
def State.pathReads (s : State) (tile : TileId) : List (Nat × Nat) → PathRes (List (List Byte))
  | [] => .ok s []
  | (a, n) :: r =>
    match s.pathRead tile a n with
    | .wait s => .wait s
    | .fail s => .fail s
    | .ok s b =>
      match s.pathReads tile r with
      | .wait s => .wait s
      | .fail s => .fail s
      | .ok s bs => .ok s (b :: bs)

/-- R79: what the tile SRAM ECC finds at the first word of a load: nothing, an error that it corrects, or one that the reads then meet. -/
def State.tsramEcc (s : State) (ecc : Ecc) (a : Nat) : State :=
  match s.locate a, ecc with
  | .tsram p _, .corrected => s.tsramCe p a
  | .tsram p o, .uncorrectable => { s with tsramUe := NSet.add s.tsramUe (tsramCell p o / 32) }
  | _, _ => s

/-- What the conversion of one element by a load gives: its code, its event, and whether a NaN came to a format whose elements have no NaN
code, so that its block takes the NaN scale (R195). -/
structure LoadElem where
  code : Nat
  ev : Ev
  nanBlock : Bool
deriving DecidableEq, Repr

/-- One element of a load (R96, R197, R198, R253, R794, R797): q is its code, sc the scale code of its block, rc the record of its row,
bits its stash bits. SLOPE, a record's SCALE and the element are the operands of R219. -/
def loadElem (y : Xfer) (q sc : Nat) (rc : ChanRec) (bits : Nat) : LoadElem :=
  let mode := if y.bf.round = 2 then 0 else y.bf.round
  let scaled := isZp y.extFmt && !(y.extFmt == 13 && y.scale == 0)
  let plain := y.stash == 0 || ((y.stash == 1 || y.stash == 2) && bits == 1)
  if plain && y.extFmt == y.scrFmt && (isTb y.extFmt || isZp y.extFmt) then { code := q, ev := .none, nanBlock := false }
  else
    let elem : Val := if isTb y.extFmt then tbVal y.extFmt q y.bf.scaleType sc else elemVal y.extFmt q
    let src : Val := if scaled then dequant y.extFmt rc q else elem
    let v := stashApply y.stash y.slope bits src
    let ops := [elem] ++ (if scaled then [f32v rc.scale] else []) ++ (if stashMul y.stash bits then [f32v y.slope] else [])
    let (o, ev) :=
      if isTb y.scrFmt then toTb y.scrFmt mode 0 y.bf.scaleType sc v
      else if isZp y.scrFmt && (decide (y.scrFmt ≠ 13) || decide (y.scale ≠ 0)) then quantise y.scrFmt rc mode 0 v
      else toPlain y.scrFmt mode 0 v
    let formed := v.isNan && !isInt y.scrFmt && !ops.any Val.isNan
    { code := o, ev := if formed then .nan else convEv v ev, nanBlock := v.isNan && decide (7 ≤ y.scrFmt) && decide (y.scrFmt ≤ 9) }

/-- A row as a load converts it: codes of SCR_FMT, the blocks that take the NaN scale, all of whose elements are 0 (R195, R238; DEDUCED, log
entry 207), and events. sc k is the scale code of block k, st the stash word of the row. -/
def loadRow (y : Xfer) (sc : Nat → Nat) (rc : ChanRec) (st : Nat) (codes : List Nat) : List Nat × List Nat × Evs :=
  let w := if y.stash = 3 then 2 else 1
  let r := (codes.zip (List.range codes.length)).map (fun x =>
    (loadElem y x.1 (sc (x.2 / y.bf.block)) rc (fld st (w * x.2 + w - 1) (w * x.2)), x.2 / y.bf.block))
  let nans := (r.filterMap (fun x => if x.1.nanBlock then some x.2 else none)).eraseDups
  (r.map (fun x => if nans.contains x.2 then 0 else x.1.code), nans, r.foldl (fun e x => e.add x.1.ev) {})

/-- The transpose of rows that all have n elements. -/
def transposeRows (n : Nat) (rows : List (List Nat)) : List (List Nat) :=
  (List.range n).map (fun j => rows.map (fun r => nth 0 r j))

/-- R260, R261: the FP32 sum of a value and stored values: one value is one addition; an infinity or NaN stays; several are exact while
every partial sum is below 2^24 and an FP32 value; no rule gives another sum. -/
def sumOf (old : W32) (q : List Int) : W32 :=
  match q with
  | [a] => (fAdd 0 0 old (f32OfInt a)).1
  | _ =>
    if (f32v old).isFin then
      let parts := (q.foldl (fun (l : List Val) a => (nth (f32v old) l 0).add (Val.ofInt a) :: l) [f32v old])
      let limit : Val := .fin false (2 ^ 24) 0
      if parts.all (fun v => v.abs.cmp limit == -1 && (f32v (toW32 v)).cmp v == 0) then toW32 (nth (f32v old) parts 0)
      else Config.inexactSum old q
    else if (f32v old).isNan then nan32 else old

/-- R260: stored values q added to the value at a scratch address. -/
def Core.addSum (x : Core) (a : Nat) (q : List Int) : Core :=
  x.scrWrite a (leBytes 4 (sumOf (BitVec.ofNat 32 (ofLe (x.scr a 4))) q).toNat)

/-- R260: the sums of a load: rows under LAYOUT 0 and 1, columns under LAYOUT 2. -/
def Core.addSums (x : Core) (y : Xfer) (rows : List (List Nat)) : Core :=
  let vals := rows.map (fun r => r.map (elemInt y.scrFmt))
  let lines := if y.layout = 2 then (List.range 64).map (fun j => vals.map (fun r => nth 0 r j)) else vals
  (lines.zip (List.range lines.length)).foldl (fun x l => x.addSum (y.sums + 4 * l.2) l.1) x

/-- The scratch bytes that the sums of a load take (R260). -/
def Xfer.sumBytes (y : Xfer) : Nat := if y.sumsOn then 4 * (if y.layout = 0 then y.rows else 64) else 0

/-- R86, R88, R160, R232, R234: the data and scales of a load placed in scratch. -/
def Core.place (x : Core) (y : Xfer) (rows : List (List Nat)) (scales : List Nat) : Core :=
  let d := y.desc
  if y.layout = 0 then
    let x := (rows.zip (List.range rows.length)).foldl (fun x r => x.scrWrite (y.scr + r.2 * scrRow y.scrFmt y.elems) (pack y.scrFmt r.1)) x
    if isTb y.scrFmt then x.scrWrite (y.scr + alignUp d.dataBytes 64) (scales.map (BitVec.ofNat 8)) else x
  else
    let codes := sliceOrder y.layout rows y.elems
    (List.range d.slices).foldl (fun x j =>
      let p := if y.ring = 0 then j else j % y.ring
      let x := x.scrWrite (y.scr + p * sliceBytes y.scrFmt) (pack y.scrFmt ((codes.drop (2048 * j)).take 2048))
      if isTb y.scrFmt then
        x.scrWrite (y.scr + alignUp d.dataBytes 64 + 128 * p) (((scales.drop (128 * j)).take 128).map (BitVec.ofNat 8))
      else x) x

/-- R96, R158, R232, R253: what a load makes of the bytes it fetched, in the order of its ranges: rows of codes, block-scale bytes, events. -/
def Xfer.convert (y : Xfer) (bs : List (List Byte)) : List (List Nat) × List Nat × Evs :=
  let d := y.desc
  let k := d.extRows
  let n := d.extElems
  let data := bs.take k
  let stash := if y.stash = 0 then [] else (bs.drop k).take k
  let rest := if y.stash = 0 then bs.drop k else bs.drop (2 * k)
  let scale (r j : Nat) : Nat := ofLe (((nth [] rest r).drop j).take 1)
  let recs := rest.flatten
  let out := (List.range d.extRows).map (fun r =>
    loadRow y (scale r) (ChanRec.ofBytes ((recs.drop (8 * r)).take 8)) (ofLe (nth [] stash r)) (unpack y.extFmt n (nth [] data r)))
  let ext := out.map Prod.fst
  let placed (r j : Nat) : Nat := if (nth ([], [], {}) out r).2.1.contains j then 0xFF else scale r j
  (if y.transpose then transposeRows n ext else ext,
   if isTb y.scrFmt then scaleBytes y.scrFmt y.layout y.rows y.elems y.bf.block y.bf.scaleType placed else [],
   out.foldl (fun (e : Evs) x => e.plus x.2.2) {})

/-- May the load at the head of the path place its last slice (R88)? -/
def Core.canLoad (x : Core) (y : Xfer) : Bool :=
  y.ring == 0 || decide (y.desc.slices ≤ y.ring) ||
    (match x.queue with
     | [] => false
     | m :: _ => (decide (m.aLoad = some y.op) || decide (m.bLoad = some y.op)) && decide (y.desc.slices ≤ m.k / 32 + y.ring))

/-- Can the load at the head of the path never place its last slice: no queued operation takes it, or the one that does takes too little? -/
def Core.stuck (x : Core) (y : Xfer) : Bool :=
  !x.canLoad y && (match x.queue.find? (fun m => decide (m.aLoad = some y.op) || decide (m.bLoad = some y.op)) with
    | none => true
    | some m => decide (m.k / 32 + y.ring < y.desc.slices))

/-- LPQ_DONE: the load at the head of the load path (R96, R158): fetch, conversion, stash, transpose, sums, rearrangement. ecc is
what the tile SRAM ECC found (R79). The values that the sums add to pass the scratch ECC (R130). A load of a failed train that can never
place its last slice is given up. LOAD_BYTES counts every byte read outside the core (DESIGN CHOICE; log entry 229). -/
def State.loadNext (s : State) (c : CoreId) (ecc : Ecc) : State :=
  match (s.core c).lpq with
  | [] => s
  | y :: rest =>
    match (s.thread c y.thread).item with
    | none => s
    | some it =>
      if !(s.core c).canLoad y then
        (if (s.core c).stuck y && s.threadFailed c y.thread then (s.setCore c { s.core c with lpq := rest }).completeOp c y.thread y.op none else s)
      else
        let tile := tileOfCore c
        let d := y.desc
        let s := s.tsramEcc ecc y.ext
        match s.pathReads tile (d.ranges y.bf) with
        | .wait s => s
        | .fail s => s.failItem c y.thread
        | .ok s bs =>
        let s := if y.sumsOn then s.scratchEcc c .ok y.sums y.sumBytes else s
        if (s.core c).scratchBad y.sums y.sumBytes then s.opFault c y.thread y.op E.CORE_SCRATCH_UE
        else
          let (rows, scales, evs) := y.convert bs
          let x := { (s.core c).place y rows scales with lpq := rest }
          let at' := y.scr + alignUp d.dataBytes 64
          let x := if isTb y.scrFmt then { x with scaleTy := (at', d.groups, y.bf.scaleType) :: cutSpans at' (at' + d.groups) x.scaleTy } else x
          let s := s.setCore c (if y.sumsOn then x.addSums y rows else x)
          let s := if y.ring = 0 then s
            else s.setThread c y.thread { s.thread c y.thread with ringLoads := (s.thread c y.thread).ringLoads.map (fun r =>
              if r.op = y.op then { r with done := true, codes := sliceOrder y.layout rows y.elems, scales := scales } else r) }
          let s := (s.addEvs tile it .load evs).count (.core c) R.CORE_LOAD_BYTES (bs.foldl (fun n b => n + b.length) 0)
          s.completeOp c y.thread y.op (some y.tag)

/-- LPQ_DONE: what it does; an injected error leaves scratch as it is (R699). -/
def execLpqDone (c : CoreId) (ecc : Ecc) (s : State) : Out := s.liveIn (.tile (tileOfCore c)) ((s.loadNext c ecc).keepScratch s c)

end Sys2Proof.Machine
end

