-- ==== Sys2Proof/Machine/Trains.lean ====
section
/-! DEFINITION. Trains (R98 to R119): the TRAIN command, descriptors, launch, stages, work items, rings with credits as threads
see them (R104 to R107, R164 to R169, R790), completion, timeout and instruction-cache fills (R135). -/

namespace Sys2Proof.Machine

/-! Rings of a train (R104 to R106). -/

/-- Entries published in order become visible. -/
def RingRun.advance : Nat → RingRun → RingRun
  | 0, r => r
  | n + 1, r => if r.published.contains r.visible then RingRun.advance n { r with published := r.published.erase r.visible, visible := r.visible + 1 } else r

/-- R106: entries that every consumer has released return their credits in order; one without consumers once it is visible. -/
def RingRun.giveBack : Nat → RingRun → RingRun
  | 0, r => r
  | n + 1, r =>
    let stages := (List.range 16).filter (fun i => r.desc.consumers.testBit i)
    if r.returned < r.visible ∧ stages.all (fun i => r.released.contains (i, r.returned)) then
      RingRun.giveBack n { r with released := r.released.filter (fun x => decide (x.2 ≠ r.returned)), returned := r.returned + 1, credits := r.credits + 1 }
    else r

/-- R167: the next entry reserved, where a credit is held. -/
def RingRun.reserve (r : RingRun) : Option (Nat × RingRun) :=
  if r.credits = 0 then none else some (r.reserved, { r with reserved := r.reserved + 1, credits := r.credits - 1 })

/-- R168: entry e published. -/
def RingRun.publish (r : RingRun) (e : Nat) : RingRun :=
  let r := { r with published := r.published ++ [e] }
  let r := r.advance 256
  r.giveBack 256

/-- Entries of the ring that stage k has taken. -/
def RingRun.takenBy (r : RingRun) (k : Nat) : Nat := SMap.get (fun _ => 0) r.taken k

/-- R164: the next entry for stage k, where one is visible. -/
def RingRun.take (r : RingRun) (k : Nat) : Option (Nat × RingRun) :=
  let n := r.takenBy k
  if n < r.visible then some (n, { r with taken := SMap.set (fun _ => 0) r.taken k (n + 1) }) else none

/-- R106, R166: stage k releases entry e. -/
def RingRun.release (r : RingRun) (k e : Nat) : RingRun := ({ r with released := r.released ++ [(k, e)] }).giveBack 256

/-- The offset of entry e in the tile's window. -/
def RingRun.entryOff (r : RingRun) (e : Nat) : Nat := r.desc.base + e % r.desc.credits * r.desc.entryBytes

/-- R164: has the ring delivered its last entry to stage k? -/
def Train.ended (tr : Train) (r : RingRun) (k : Nat) : Bool :=
  if r.desc.entries ≠ 0 then decide (r.desc.entries ≤ r.takenBy k)
  else (match tr.stages[r.desc.producer]? with | some g => g.done | none => true) && decide (r.visible ≤ r.takenBy k)

/-! Descriptors (R99 to R102, R793). -/

/-- Four ring indices, low byte first. -/
def ringIdx (v : Nat) : List Nat := (List.range 4).map (fun i => fld v (8 * i + 7) (8 * i))

/-- R100: a stage record from its 64 bytes. -/
def StageRec.ofBytes (b : List Byte) : StageRec :=
  { mstate := recFld b 0 4 5 5 == 1, engine := recFld b 0 4 3 0, inRings := ringIdx (recFld b 4 4 31 0), outRings := ringIdx (recFld b 8 4 31 0),
    threads := recFld b 0xC 4 10 8 + 1, units := recFld b 0xC 4 4 0, prog := BitVec.ofNat 64 (recFld b 0x10 8 63 0),
    param := BitVec.ofNat 64 (recFld b 0x18 8 63 0), items := recFld b 0x20 4 31 0, after := recFld b 0x24 4 15 0 }

/-- R100: reserved fields and ranges of a stage record of a train of n stages; an AFTER bit beyond them names no stage
(DEDUCED, log entry 29). -/
def stageOk (b : List Byte) (n : Nat) : Bool :=
  let r := StageRec.ofBytes b
  recFld b 0 4 31 6 == 0 && recFld b 0 4 4 4 == 0 && decide (r.engine ≤ 4) && recFld b 0xC 4 31 11 == 0 && recFld b 0xC 4 7 5 == 0 &&
    recFld b 0x24 4 31 16 == 0 && (b.drop 0x28).all (fun x => x == 0#8) &&
    (match r.engine with | 0 => decide (1 ≤ r.units) && decide (r.units ≤ 16) | 1 => decide (1 ≤ r.units) && decide (r.units ≤ 4) | _ => true) &&
    r.after >>> n == 0

/-- R101: a ring record from its 32 bytes. -/
def RingRec.ofBytes (b : List Byte) : RingRec :=
  { base := recFld b 0 4 31 0, entryBytes := recFld b 4 4 23 0, consumers := recFld b 8 4 31 16, producer := recFld b 8 4 15 12,
    credits := recFld b 8 4 7 0, entries := recFld b 0xC 4 31 0 }

/-- R101: reserved fields and ranges of a ring record. -/
def ringRecOk (b : List Byte) : Bool :=
  let r := RingRec.ofBytes b
  r.base % 256 == 0 && recFld b 4 4 31 24 == 0 && r.entryBytes % 256 == 0 && decide (256 ≤ r.entryBytes) && decide (r.entryBytes ≤ 0x400000) &&
    recFld b 8 4 11 8 == 0 && decide (1 ≤ r.credits) && (b.drop 0x10).all (fun x => x == 0#8)

/-- R793: rings and stages name one another. -/
def namesOk (ss : List StageRec) (rs : List RingRec) : Bool :=
  let n := ss.length
  (ss.zip (List.range n)).all (fun s =>
    s.1.inRings.all (fun x => x == 0xFF || (match rs[x]? with | some r => r.consumers.testBit s.2 | none => false)) &&
      s.1.outRings.all (fun x => x == 0xFF || (match rs[x]? with | some r => r.producer == s.2 | none => false))) &&
    (rs.zip (List.range rs.length)).all (fun r =>
      decide (r.1.producer < n) && r.1.consumers >>> n == 0 &&
        (match ss[r.1.producer]? with | some g => g.outRings.contains r.2 | none => false) &&
        (ss.zip (List.range n)).all (fun g => !r.1.consumers.testBit g.2 || g.1.inRings.contains r.2))

/-- What the check of a train descriptor finds (R102); read says whether the descriptor was read at all. -/
structure DescCheck where
  read : Bool
  bad : Bool
  crc : Bool
  conflict : Bool
  stages : List StageRec
  rings : List RingRec
  timeoutUs : Nat
deriving DecidableEq, Repr

/-- A descriptor that cannot be read or used. -/
def DescCheck.refused : DescCheck := { read := false, bad := true, crc := false, conflict := false, stages := [], rings := [], timeoutUs := 0 }

/-- R102: the descriptor of a train of tile t at an address, len 64-byte units long. -/
def State.checkDesc (s : State) (t : TileId) (addr len : Nat) : DescCheck :=
  let n := 64 * len
  let here := match s.locate addr with
    | .hbm _ => decide (addr + n ≤ s.hbmTop)
    | .tsram p o => p == t.val && decide (o + n ≤ 0x80000000)
    | _ => false
  if addr % 64 ≠ 0 ∨ len = 0 ∨ !here then .refused
  else
    match s.unitRead addr n with
    | .ok b =>
      let nr := recFld b 0 4 15 8
      let ns := recFld b 0 4 7 0
      let crcOn := recFld b 8 4 0 0 == 1
      let headOk := recFld b 0 4 31 16 == 0 && decide (1 ≤ ns) && decide (ns ≤ 16) && decide (nr ≤ 32) && recFld b 8 4 31 1 == 0 &&
        ((b.take 0x40).drop 0x10).all (fun x => x == 0#8) && len == 1 + ns + (nr + 1) / 2
      let crc := crcOn && decide (crc32c (b.drop 0x40) ≠ recFld b 0xC 4 31 0)
      if !headOk then { DescCheck.refused with read := true, crc := crc }
      else
        let sb := (List.range ns).map (fun i => (b.drop (64 + 64 * i)).take 64)
        let rb := (List.range nr).map (fun i => (b.drop (64 + 64 * ns + 32 * i)).take 32)
        let ss := sb.map StageRec.ofBytes
        let rs := rb.map RingRec.ofBytes
        let formOk := sb.all (fun x => stageOk x ns) && rb.all ringRecOk && namesOk ss rs
        let ext (r : RingRec) : Nat := r.credits * r.entryBytes
        let outside := rs.any (fun r => decide (r.base + ext r > s.softEnd t.val))
        let meet := (List.range nr).any (fun i => (List.range i).any (fun j =>
          match rs[i]?, rs[j]? with | some x, some y => overlaps x.base (ext x) y.base (ext y) | _, _ => false))
        { read := true, bad := !formOk || crc || outside || meet, crc := crc, conflict := outside || meet, stages := ss, rings := rs,
          timeoutUs := recFld b 4 4 31 0 }
    | _ => { DescCheck.refused with read := true }

/-! Starting a train. -/

/-- A stage that has not started. -/
def StageRun.ofRec (r : StageRec) : StageRun :=
  { desc := r, started := false, done := false, cores := [], threadEn := [], nextItem := 0, doneItems := 0, matrix := {}, vector := {},
    load := {}, store := [], carry := none }

/-- R104: a ring at launch. -/
def RingRun.ofRec (r : RingRec) : RingRun :=
  { desc := r, reserved := 0, published := [], visible := 0, credits := r.credits, taken := [], released := [], returned := 0 }

/-- JOB_SEED in force. -/
def State.jobSeed (s : State) : W64 := BitVec.ofNat 64 (s.rd .mod R.MOD_JOB_SEED)
/-- RNG_CTL.LOCKSTEP in force. -/
def State.lockstep (s : State) : Bool := s.rb .mod R.MOD_RNG_CTL 0

/-- R207: JOB_SEED and LOCKSTEP as step n sampled them; the registers in force for a step that has not opened here (DEDUCED,
log entry 30). -/
def State.seedsOf (s : State) (n : W64) : W64 × Bool :=
  match s.seeds.find? (fun x => x.1 == n) with
  | some x => x.2
  | none => (s.jobSeed, s.lockstep)

/-- The completion record of R114. -/
structure Record where
  status : Nat
  failStage : Nat
  trainId : BitVec 16
  cores : Nat
  step : W64
  start : W64
  stop : W64
  evs : Evs
  stall : W32
  hold : W32
  user : W64
deriving DecidableEq, Repr

/-- The 64 bytes of a completion record, DONE 1 (R114). -/
def Record.bytes (r : Record) : List Byte :=
  leBytes 4 (r.failStage * 2 ^ 20 + r.status * 2 ^ 16 + r.trainId.toNat) ++ leBytes 4 r.cores ++ leBytes 8 r.step.toNat ++ leBytes 8 r.start.toNat ++
    leBytes 8 r.stop.toNat ++ leBytes 4 r.evs.ovf ++ leBytes 4 r.evs.sat ++ leBytes 4 r.evs.nan ++ leBytes 4 r.stall.toNat ++
    leBytes 8 r.user.toNat ++ leBytes 4 r.hold.toNat ++ leBytes 4 1

/-- R114, R118: a record written, the train counted, and its step failed where it names one. A record address that is no memory
is an unmapped access (R37). -/
def State.writeRecord (s : State) (t : TileId) (compl : Nat) (noStep : Bool) (r : Record) : State :=
  let s := match s.coreWrite compl r.bytes with | some s => s | none => s.unmapped
  let s := s.count (.cox t) (if r.status = 0 then R.COX_TRAINS_DONE else R.COX_TRAINS_FAILED) 1
  if !noStep && decide (1 ≤ r.status) && decide (r.status ≤ 5) then s.failStep r.step.toNat else s

/-- TRAIN: the command of a ring is checked; a refused train completes with STATUS 4, another waits for its launch (R98 to R103).
A spare takes no train that names a step (R559). FAIL_STAGE of a STATUS 4 record is a free value (DESIGN CHOICE;
log entry 215). -/
def execTrainCommand (t : TileId) (ring : Fin 4) (s : State) : Out :=
  s.liveIn (.tile t) (
    let g := RingId.cox t ring
    match s.cmdOf g 0x01 with
    | none => s
    | some c =>
      let b := c.body
      let noStep := recFld b 0x10 4 20 20 == 1
      if s.isSpare && !noStep then s
      else
        let step := BitVec.ofNat 64 (recFld b 8 8 63 0)
        let id := BitVec.ofNat 16 (recFld b 0x10 4 15 0)
        let compl := recFld b 0x18 8 63 0
        let user := BitVec.ofNat 64 (recFld b 0x20 8 63 0)
        let d := s.checkDesc t (recFld b 0 8 63 0) (recFld b 0x14 4 15 0)
        let s := if d.read then s.seen (recFld b 0 8 63 0) (64 * recFld b 0x14 4 15 0) else s
        if d.bad then
          let s := s.err (.cox t) E.COX_DESC_BAD
          let s := if d.crc then s.err (.cox t) E.COX_DESC_CRC else s
          let s := if d.conflict then s.err (.cox t) E.COX_RING_CONFLICT else s
          let (st, s) := s.fresh
          let (v, s) := s.fresh
          (((s.started g).writeRecord t compl noStep
            { status := 4, failStage := v.toNat % 16, trainId := id, cores := 0, step := step, start := st, stop := s.fabTime, evs := {}, stall := 0,
              hold := 0, user := user }).cmdIrq g c.irq)
        else
          let x := s.cox t
          let tr : Train := {
            uid := x.nextUid, ring := ring.val, slot := c.slot, step := step, noStep := noStep, trainId := id,
            compl := BitVec.ofNat 64 compl, user := user, timeoutUs := BitVec.ofNat 32 d.timeoutUs, stages := d.stages.map StageRun.ofRec,
            rings := d.rings.map RingRun.ofRec, launched := false, start := 0, job := 0, lockstep := false, coresUsed := 0, irq := c.irq,
            failed := none }
          let s := s.setCox t { x with trains := x.trains ++ [tr], nextUid := x.nextUid + 1 }
          let s := s.started g
          s.setRing g { s.ring g with hold := true })

/-- TRAIN_LAUNCH: the first waiting train is launched once fewer than 4 run and its rings fit in 64 contexts (R103, R104, R207);
its ring goes on (R588). -/
def execTrainLaunch (t : TileId) (s : State) : Out :=
  s.live (
    let x := s.cox t
    let run := x.trains.filter (fun tr => tr.launched)
    match x.trains.find? (fun tr => !tr.launched && tr.failed.isNone) with
    | none => s
    | some tr =>
      if decide (4 ≤ run.length) || decide (64 < run.foldl (fun n r => n + r.rings.length) 0 + tr.rings.length) then s
      else
        let s := s.modTrain t tr.uid (fun tr => { tr with launched := true, start := s.fabTime, job := s.jobSeed, lockstep := s.lockstep })
        let g := RingId.cox t (Fin.ofNat 4 tr.ring)
        s.setRing g { s.ring g with hold := false })

/-- The k-th train of a tile that runs or has failed, in slot order. -/
def Cox.running (x : Cox) (k : Nat) : Option Train := (x.trains.filter (fun tr => tr.launched || tr.failed.isSome))[k]?

/-! Stages. -/

/-- R116: is a core available to a stage: not fenced, enabled, THREAD_EN not 0? -/
def State.coreAvail (s : State) (c : CoreId) : Bool :=
  !s.rb (.core c) R.SH_STATUS 4 && s.enabled (.core c) && s.rf (.core c) R.CORE_CORE_CFG 7 0 != 0

/-- R799: is a gather engine in service? -/
def State.gatherInService (s : State) (g : GatherId) : Bool := s.enabled (.gather g) && !s.rb (.gather g) R.SH_STATUS 4

/-- May a stage start (R110): its AFTER stages done, its input rings delivering, and with MSTATE its step open here? -/
def State.stageReady (s : State) (tr : Train) (g : StageRun) (k : Nat) : Bool :=
  !g.started && tr.failed.isNone &&
    (List.range 16).all (fun i => !g.desc.after.testBit i || (match tr.stages[i]? with | some h => h.done | none => true)) &&
    g.desc.inRings.all (fun x => x == 0xFF || (match tr.rings[x]? with | some r => decide (0 < r.visible) || tr.ended r k | none => true)) &&
    (!g.desc.mstate || tr.noStep || s.opened tr.step.toNat)

/-- STAGE_START (R110, R113, R116, R129, R134, R799): stage `stage` of the k-th running train starts. Tensor-core stages take
their first UNITS available cores, gather stages their first UNITS engines in service. -/
def execStageStart (t : TileId) (k : Fin 4) (stage : Fin 16) (s : State) : Out :=
  s.live (
    match (s.cox t).running k.val with
    | none => s
    | some tr =>
      match tr.stages[stage.val]? with
      | none => s
      | some g =>
        if !s.stageReady tr g stage.val then s
        else
          let start (units en : List Nat) (s : State) : State :=
            s.modTrain t tr.uid (fun tr => tr.modStage stage.val (fun g =>
              { g with started := true, cores := units, threadEn := en, done := g.desc.items == 0 && (g.desc.engine < 2 || g.desc.engine == 4) }))
          match g.desc.engine with
          | 0 =>
            let av := (List.range 16).filter (fun c => s.coreAvail (coreOf t c))
            if av.isEmpty then (s.err (.cox t) E.COX_CORE_LOST).endTrain t tr.uid 2 stage.val
            else
              let cs := av.take g.desc.units
              let s := cs.foldl (fun s c => s.setCore (coreOf t c) { s.core (coreOf t c) with icache := [] }) s
              start cs (cs.map (fun c => s.rf (.core (coreOf t c)) R.CORE_CORE_CFG 7 0)) s
          | 1 =>
            let av := (List.range 4).filter (fun e => s.gatherInService (Fin.ofNat 32 (4 * t.val + e)))
            if av.isEmpty then s.failStage t tr.uid stage.val else start (av.take g.desc.units) [] s
          | _ => start [] [] s)

/-- A stage that has done all its items is complete. -/
def State.finishStage (s : State) (t : TileId) (uid stage : Nat) : State :=
  s.modTrain t uid (fun tr => tr.modStage stage (fun g => { g with done := true }))

/-! Work items. -/

/-- The threads of a core that run items of a stage. -/
def Core.busyWith (x : Core) (uid stage : Nat) : Nat :=
  ((List.range 8).filter (fun t => match (x.thread t).item with | some it => it.train == uid && it.stage == stage | none => false)).length

/-- R203, R204, R205: the generator states of a work item: domain 1 for the lanes, domain 2 for the store path. -/
def State.itemGens (s : State) (tr : Train) (stage item dom : Nat) : List Gen :=
  let (job, lock) := if tr.noStep then (tr.job, tr.lockstep) else s.seedsOf tr.step
  let step : W64 := if tr.noStep then BitVec.allOnes 64 else tr.step
  let coord := if lock then s.coord / 16 * 16 else s.coord
  let unit := BitVec.ofNat 64 (tr.trainId.toNat * 2 ^ 48 + stage * 2 ^ 40 + item)
  (List.range 64).map (fun l => genSeed job step dom coord unit l)

/-- ITEM_DISPATCH (R91, R108, R119, R129, R133, R650): thread th of core c takes the next item of a stage of the k-th running train. -/
def execItemDispatch (c : CoreId) (t : ThreadId) (k : Fin 4) (stage : Fin 16) (s : State) : Out :=
  s.live (
    let tile := tileOfCore c
    match (s.cox tile).running k.val with
    | none => s
    | some tr =>
      match tr.stages[stage.val]? with
      | none => s
      | some g =>
        match (g.cores.zip g.threadEn).find? (fun x => x.1 == c.val % 16) with
        | none => s
        | some (_, en) =>
          let n := g.nextItem
          if !g.started || g.done || tr.failed.isSome || decide (g.desc.items ≤ n) || (s.thread c t.val).item.isSome ||
              !en.testBit t.val || s.rb (.core c) R.CORE_CORE_CFG 8 || s.ump.due.contains c.val || !s.enabled (.core c) ||
              decide (min g.desc.threads (popN en 8) ≤ (s.core c).busyWith tr.uid stage.val) then s
          else
            let th : Thread := { Thread.init with
              item := some { train := tr.uid, stage := stage.val, index := n }, pc := g.desc.prog,
              vgen := s.itemGens tr stage.val n 1, sgen := s.itemGens tr stage.val n 2 }
            let th := ((th.sset 1 g.desc.param).sset 2 (BitVec.ofNat 64 n)).sset 3 (BitVec.ofNat 64 g.desc.items)
            let s := s.modTrain tile tr.uid (fun tr =>
              { tr.modStage stage.val (fun g => { g with nextItem := n + 1 }) with coresUsed := tr.coresUsed ||| 2 ^ (c.val % 16) })
            s.setThread c t.val th)

/-- The ring that a SLOT names for a thread's stage: its index in the train and its record; none where the slot is 0xFF (R790). -/
def State.slotRing (s : State) (c : CoreId) (it : Item) (out : Bool) (slot : Nat) : Option (Train × Nat × RingRun) :=
  match (s.cox (tileOfCore c)).train it.train with
  | none => none
  | some tr =>
    match tr.stages[it.stage]? with
    | none => none
    | some g =>
      let i := nth 0xFF (if out then g.desc.outRings else g.desc.inRings) slot
      if i = 0xFF then none else (tr.rings[i]?).map (fun r => (tr, i, r))

/-- The form of the ring instructions: layout R. -/
def ringForm (dest : Bool) : OpForm := { layout := .r, vd := if dest then .sca else .none }

/-- RGET (R164, R165, R790). The limit of 8 held entries comes first, an ended ring or not (DEDUCED; log entry 216). -/
def execRget (c : CoreId) (t : ThreadId) (f : VFields) (s : State) : Out :=
  s.live (issue c t ((ringForm true).legal f)
    (fun s th it =>
      match s.slotRing c it false (fld f.imm.toNat 1 0) with
      | none => .fault s E.CORE_ILLEGAL_OP
      | some (tr, i, r) =>
        if 8 ≤ th.held.length + th.resv.length then .wait
        else
          match r.take it.stage with
          | some (e, r') =>
            let tile := tileOfCore c
            let a := windowBase (s.logTile tile.val) + r.entryOff e
            .run (s.modTrain tile tr.uid (fun tr => tr.modRing i (fun _ => r')))
              (({ th with held := th.held ++ [HeldEntry.mk i e] } : Thread).sset f.vd.toNat (BitVec.ofNat 64 a)) 1
          | none => if tr.ended r it.stage then .run s (th.sset f.vd.toNat 0) 1 else .wait) s)

/-- The oldest entry of a ring in a list, and the list without it. -/
def dropFirst (i : Nat) : List HeldEntry → Option (Nat × List HeldEntry)
  | [] => none
  | h :: r => if h.ring = i then some (h.entry, r) else (dropFirst i r).map (fun x => (x.1, h :: x.2))

/-- RREL (R166, R790). -/
def execRrel (c : CoreId) (t : ThreadId) (f : VFields) (s : State) : Out :=
  s.live (issue c t ((ringForm false).legal f)
    (fun s th it =>
      match s.slotRing c it false (fld f.imm.toNat 1 0) with
      | none => .fault s E.CORE_ILLEGAL_OP
      | some (tr, i, _) =>
        match dropFirst i th.held with
        | none => .fault s E.CORE_ILLEGAL_OP
        | some (e, rest) =>
          .run (s.modTrain (tileOfCore c) tr.uid (fun tr => tr.modRing i (fun r => r.release it.stage e))) { th with held := rest } 1) s)

/-- ROUT (R165, R167, R790). -/
def execRout (c : CoreId) (t : ThreadId) (f : VFields) (s : State) : Out :=
  s.live (issue c t ((ringForm true).legal f)
    (fun s th it =>
      match s.slotRing c it true (fld f.imm.toNat 1 0) with
      | none => .fault s E.CORE_ILLEGAL_OP
      | some (tr, i, r) =>
        if 8 ≤ th.held.length + th.resv.length then .wait
        else
          match r.reserve with
          | none => .wait
          | some (e, r') =>
            let tile := tileOfCore c
            let a := windowBase (s.logTile tile.val) + r.entryOff e
            .run (s.modTrain tile tr.uid (fun tr => tr.modRing i (fun _ => r')))
              (({ th with resv := th.resv ++ [HeldEntry.mk i e] } : Thread).sset f.vd.toNat (BitVec.ofNat 64 a)) 1) s)

/-- RPUB (R168, R790): it waits until every MTQ, SPQ and VOUT that the thread issued has completed. -/
def execRpub (c : CoreId) (t : ThreadId) (f : VFields) (s : State) : Out :=
  s.live (issue c t ((ringForm false).legal f)
    (fun s th it =>
      match s.slotRing c it true (fld f.imm.toNat 1 0) with
      | none => .fault s E.CORE_ILLEGAL_OP
      | some (tr, i, _) =>
        match dropFirst i th.resv with
        | none => .fault s E.CORE_ILLEGAL_OP
        | some (e, rest) =>
          if th.outst.all (fun o => (s.core c).lpq.any (fun y => y.op == o.1)) then
            .run (s.modTrain (tileOfCore c) tr.uid (fun tr => tr.modRing i (fun r => r.publish e))) { th with resv := rest } 1
          else .wait) s)

/-- A thread's item has ended: the thread is idle, and a stage whose items are all done is complete. -/
def State.endItem (s : State) (c : CoreId) (t : ThreadId) (it : Item) : State :=
  let tile := tileOfCore c
  let s := s.setThread c t.val Thread.init
  s.modTrain tile it.train (fun tr => tr.modStage it.stage (fun g =>
    let n := g.doneItems + 1
    { g with doneItems := n, done := g.done || decide (g.desc.items ≤ n) }))

/-- ENDITEM (R169). A thread with a reserved output entry faults. -/
def execEnditem (c : CoreId) (t : ThreadId) (f : VFields) (s : State) : Out :=
  s.live (
    let th := s.thread c t.val
    let ready := s.canIssue c t && (s.core c).icache.contains (lineOf th.pc) && ({} : OpForm).legal f && th.outst.isEmpty && th.resv.isEmpty
    match th.item with
    | none => s
    | some it =>
      if ready then
        let s := th.held.foldl (fun s h => s.modTrain (tileOfCore c) it.train (fun tr => tr.modRing h.ring (fun r => r.release it.stage h.entry))) s
        (s.count (.core c) R.CORE_VEC_ISSUE 1).endItem c t it
      else
        issue c t (({} : OpForm).legal f)
          (fun s th _ => if !th.outst.isEmpty then .wait else .fault s E.CORE_ILLEGAL_OP) s)

/-- ICACHE_FILL (R135): the line that a thread waits for arrives; one that cannot be read fails its stage (R486). The cache holds
512 lines; it is fully associative, and the line longest in it goes (DESIGN CHOICE; log entry 214). -/
def execIcacheFill (c : CoreId) (t : ThreadId) (s : State) : Out :=
  s.liveIn (.tile (tileOfCore c)) (
    let th := s.thread c t.val
    if !th.fillWait then s
    else
      match s.readUnit (lineOf th.pc * 64) 64 with
      | (.ok _, s) =>
        let x := (s.core c).setThread t.val { th with fillWait := false }
        s.setCore c { x with icache := (lineOf th.pc :: x.icache.filter (fun l => decide (l ≠ lineOf th.pc))).take 512 }
      | (_, s) => s.failItem c t.val)

/-! Completion. -/

/-- The events of a train over all its streams (R114, R221). -/
def Train.events (tr : Train) : Evs :=
  (tr.stages.foldl (fun (e : Evs) g =>
    g.store.foldl (fun e x => e.plus x.2) (((e.plus g.matrix).plus g.vector).plus g.load)) {}).sat32

/-- TRAIN_COMPLETE (R114, R117, R118, R221): the k-th running train has completed or failed: its record is written, DONE last, its
events reach the REL block and its interrupt is raised; a failed train waits for what its faulting thread had issued (R182). The stall and hold cycles of the record are free values, and the start time of a
train that was never launched. -/
def execTrainComplete (t : TileId) (k : Fin 4) (s : State) : Out :=
  s.liveIn (.tile t) (
    match (s.cox t).running k.val with
    | none => s
    | some tr =>
      if !((tr.failed.isSome && !s.trainBusy t tr.uid) || tr.stages.all (fun g => g.done)) then s
      else
        let (status, stage) := tr.failed.getD (0, 0)
        let (a, s) := s.fresh
        let (b, s) := s.fresh
        let (st, s) := if tr.launched then (tr.start, s) else s.fresh
        let r : Record := { status := status, failStage := stage, trainId := tr.trainId, cores := tr.coresUsed, step := tr.step, start := st,
                            stop := s.fabTime, evs := tr.events, stall := a.setWidth 32, hold := b.setWidth 32, user := tr.user }
        let s := s.setCox t { s.cox t with trains := (s.cox t).trains.filter (fun x => x.uid != tr.uid) }
        let g := RingId.cox t (Fin.ofNat 4 tr.ring)
        let s := if tr.launched then s else s.setRing g { s.ring g with hold := false }
        let s := s.writeRecord t tr.compl.toNat tr.noStep r
        let s := if tr.noStep || status == 6 then s else s.modStep tr.step.toNat (fun x => { x with evs := x.evs.plus tr.events })
        s.cmdIrq g tr.irq)

/-- TRAIN_TIMEOUT (R115): every stage is abandoned, STATUS 3. No stage has failed, so FAIL_STAGE is a free value. -/
def execTrainTimeout (t : TileId) (k : Fin 4) (s : State) : Out :=
  s.live (
    match (s.cox t).running k.val with
    | none => s
    | some tr =>
      if tr.timeoutUs = 0 ∨ tr.failed.isSome then s
      else
        let s := s.err (.cox t) E.COX_TRAIN_TIMEOUT
        let (v, s) := s.fresh
        s.endTrain t tr.uid 3 (v.toNat % 16))

end Sys2Proof.Machine
end

