-- ==== Sys2Proof/Machine/Catch.lean ====
section
/-! DEFINITION. The Catch update unit (R321 to R369): rule constants, the arithmetic of an update, row transactions, the step
journal, rollback, replacement and the memory-side atomics. -/

namespace Sys2Proof.Machine

/-! Arithmetic that counts events (R334, R341). -/

/-- A value of a computation that counts events. -/
abbrev Cnt (α : Type) := StateM Evs α

/-- One result with its event. -/
def cnt (r : W32 × Ev) : Cnt W32 := fun e => (r.1, e.add r.2)
/-- a + b. -/
def cAdd (a b : W32) : Cnt W32 := cnt (fAdd 0 0 a b)
/-- a - b. -/
def cSub (a b : W32) : Cnt W32 := cnt (fSub 0 0 a b)
/-- a * b. -/
def cMul (a b : W32) : Cnt W32 := cnt (fMul 0 0 a b)
/-- a * b + c. -/
def cFma (a b c : W32) : Cnt W32 := cnt (fFma 0 0 a b c)
/-- a / b. -/
def cDiv (a b : W32) : Cnt W32 := cnt (fDiv 0 0 a b)
/-- The square root. -/
def cSqrt (a : W32) : Cnt W32 := cnt (fSqrt 0 0 a)

/-- The sign changed; of a NaN, the canonical NaN (R191). -/
def fNeg (a : W32) : W32 := if (f32v a).isNan then nan32 else a ^^^ 0x80000000#32
/-- The magnitude. -/
def magBits (a : W32) : W32 := a &&& 0x7FFFFFFF#32
/-- The magnitude of a with the sign of b. -/
def fCopySign (a b : W32) : W32 := magBits a ||| (b &&& 0x80000000#32)
/-- 1.0. -/
def one32 : W32 := 0x3F800000#32

/-- An operation on each element of a list. -/
def mapC (f : W32 → Cnt W32) : List W32 → Cnt (List W32)
  | [] => pure []
  | x :: r => do return (← f x) :: (← mapC f r)
/-- An operation on each pair of elements. -/
def zipC (f : W32 → W32 → Cnt W32) : List W32 → List W32 → Cnt (List W32)
  | x :: r, y :: t => do return (← f x y) :: (← zipC f r t)
  | _, _ => pure []

/-- An operation on each triple of elements. -/
def zip3C (f : W32 → W32 → W32 → Cnt W32) : List W32 → List W32 → List W32 → Cnt (List W32)
  | x :: r, y :: t, z :: u => do return (← f x y z) :: (← zip3C f r t u)
  | _, _, _ => pure []

/-- R336: one element x added to its partial sum. -/
def normStep (p : List W32) (x : W32 × Nat) : Cnt (List W32) := do
  let v ← cFma x.1 x.1 (nth 0 p (x.2 % 128))
  return modNth (fun _ => v) p (x.2 % 128)
/-- R336: the elements of a row summed into their partial sums. -/
def normSums : List (W32 × Nat) → List W32 → Cnt (List W32)
  | [], p => pure p
  | x :: r, p => do normSums r (← normStep p x)
/-- Neighbours added. -/
def pairSum : List W32 → Cnt (List W32)
  | a :: b :: r => do return (← cAdd a b) :: (← pairSum r)
  | l => pure l
/-- Neighbours added n times over. -/
def treeSum : Nat → List W32 → Cnt W32
  | 0, l => pure (nth 0 l 0)
  | n + 1, l => do treeSum n (← pairSum l)

/-- R336: norm2, the fixed-order sum of squares. -/
def norm2 (x : List W32) : Cnt W32 := do
  treeSum 7 (← normSums (x.zip (List.range x.length)) (List.replicate 128 0#32))

/-! Learning rate and constants (R330 to R332). -/

/-- f32 of a u32. -/
def f32u (n : Nat) : W32 := f32OfInt (n : Int)

/-- R330: the offset of a curve word. -/
def lrStep (w : Nat) : Nat := fld w 31 0
/-- R330: the value of a curve word. -/
def lrValue (w : Nat) : W32 := BitVec.ofNat 32 (fld w 63 32)

/-- R331: lr_at, over the words of the curve. -/
def lrAt (ws : List Nat) (step origin : Nat) : W32 :=
  let t := if step < origin then 0 else min (step - origin) 0xFFFFFFFF
  let pts := curvePoints (fun w => (lrStep w : Int)) ws
  let first := pts.headD 0
  let last := pts.getLastD 0
  if t ≤ lrStep first then lrValue first
  else if lrStep last ≤ t then lrValue last
  else
    let k := ((List.range pts.length).filter (fun k => decide (lrStep (nth 0 pts k) ≤ t))).getLastD 0
    let a := nth 0 pts k
    let b := nth 0 pts (k + 1)
    let fr := (fDiv 0 0 (f32u (t - lrStep a)) (f32u (lrStep b - lrStep a))).1
    let d := (fSub 0 0 (lrValue b) (lrValue a)).1
    (fFma 0 0 d fr (lrValue a)).1

/-- R332: pow_t, square and multiply, high bit first. -/
def powT (b : W32) (t : Nat) : W32 :=
  (List.range 32).foldl (fun r k =>
    let r := (fMul 0 0 r r).1
    if t.testBit (31 - k) then (fMul 0 0 r b).1 else r) one32

/-- A Catch rule descriptor (R325). -/
structure Rule where
  rule : Nat
  sfmt : Nat
  wround : Nat
  sround : Nat
  biasCorr : Bool
  decay : Nat
  clipMode : Nat
  wd : W32
  lrMul : W32
  b2 : W32
  b1 : W32
  clip : W32
  eps : W32
  l2 : W32
  l1 : W32
  trMax : W32
  fbeta : W32
  gscale : W32
deriving DecidableEq, Repr

/-- The low half of a word. -/
def lo32 (v : Nat) : W32 := BitVec.ofNat 32 (fld v 31 0)
/-- The high half of a word. -/
def hi32 (v : Nat) : W32 := BitVec.ofNat 32 (fld v 63 32)

/-- A descriptor from its eight words. -/
def Rule.ofWords (w : Nat → Nat) : Rule :=
  { rule := fld (w 0) 3 0, sfmt := fld (w 0) 7 4, wround := fld (w 0) 17 16, sround := fld (w 0) 19 18, biasCorr := (w 0).testBit 12,
    decay := fld (w 0) 11 10, clipMode := fld (w 0) 9 8, wd := hi32 (w 1), lrMul := lo32 (w 1), b2 := hi32 (w 2), b1 := lo32 (w 2),
    clip := hi32 (w 3), eps := lo32 (w 3), l2 := hi32 (w 4), l1 := lo32 (w 4), trMax := hi32 (w 5), fbeta := lo32 (w 5),
    gscale := lo32 (w 6) }

/-- R326: is a descriptor with VALID 1 valid? A descriptor with VALID 0 may not be used. -/
def ruleOk (w : Nat → Nat) : Bool :=
  let u := Rule.ofWords w
  (w 0).testBit 63 && fld (w 0) 62 20 == 0 && fld (w 0) 15 13 == 0 && fld (w 6) 63 32 == 0 && w 7 == 0 && decide (u.rule ≤ 9) &&
    decide (u.sfmt ≤ 1) && decide (u.clipMode ≠ 3) && decide (u.sround ≠ 3) && decide (u.wround ≠ 3) && decide (u.decay ≠ 3) &&
    (u.decay == 0 || !(u.rule == 7 || u.rule == 9))

/-- R327: V, the bytes of a state vector. -/
def Rule.v (u : Rule) (elems : Nat) : Nat := alignUp (elems * (elemBits u.sfmt / 8)) 8
/-- R328: state vectors of a rule. -/
def Rule.vectors (u : Rule) : Nat :=
  match u.rule with
  | 0 => 0 | 4 => 0 | 6 => 2 | 7 => 2 | 8 => 2 | 9 => 2 | _ => 1
/-- R328: the STATE_BYTES a rule requires. -/
def Rule.stateBytes (u : Rule) (elems : Nat) : Nat := if u.rule = 4 then 4 else u.vectors * u.v elems

/-- The constants of a descriptor for a step (R332). -/
structure RuleConst where
  eta : W32
  ib1 : W32
  b2 : W32
  a1 : W32
  c1 : W32
  c2 : W32
  ewd : W32
deriving DecidableEq, Repr

/-- R332. -/
def Rule.consts (u : Rule) (lr : W32) (step origin : Nat) : RuleConst :=
  let sub a b := (fSub 0 0 a b).1
  let mul a b := (fMul 0 0 a b).1
  let eta := mul u.lrMul lr
  let t := (if step < origin then 0 else min (step - origin) 0xFFFFFFFE) + 1
  let bc1 := if u.biasCorr then sub one32 (powT u.b1 t) else one32
  let bc2 := if u.biasCorr then sub one32 (powT u.b2 t) else one32
  let ib1 := (fDiv 0 0 one32 bc1).1
  { eta := eta, ib1 := ib1, b2 := (fSqrt 0 0 bc2).1, a1 := mul eta ib1, c1 := sub one32 u.b1, c2 := sub one32 u.b2, ewd := mul eta u.wd }

/-! The update (R336, R337). -/

/-- The values an update works on: weights, the two state vectors, or A as the first of them. -/
structure RowVals where
  w : List W32
  s0 : List W32
  s1 : List W32
deriving DecidableEq, Repr

/-- R336: the gradient prepared. -/
def Rule.prepare (u : Rule) (w g : List W32) : Cnt (List W32) := do
  let g ← mapC (fun x => cMul u.gscale x) g
  let g ← if u.clipMode = 1 then do
      let q ← norm2 g
      if fCmp 4 q (← cMul u.clip u.clip) then do
        let f ← cDiv u.clip (← cSqrt q)
        mapC (fun x => cMul x f) g
      else pure g
    else pure g
  let g := if u.clipMode = 2 then g.map (fun x => fMin (fMax x (fNeg u.clip)) u.clip) else g
  if u.decay = 1 then zipC (fun wi gi => cFma u.wd wi gi) w g else pure g

/-- R337, rules 0x6, 0x7 and 0x9: the two moments. -/
def Rule.moments (u : Rule) (k : RuleConst) (s0 s1 g : List W32) : Cnt (List W32 × List W32) := do
  let m ← zipC (fun m g => do cFma u.b1 m (← cMul k.c1 g)) s0 g
  let v ← zipC (fun v g => do cFma u.b2 v (← cMul k.c2 (← cMul g g))) s1 g
  return (m, v)

/-- R337: w := fma(-c, u_i, w). -/
def stepBy (c : W32) (w d : List W32) : Cnt (List W32) := zipC (fun wi di => cFma (fNeg c) di wi) w d

/-- R337, rules 0x3 and 0x5: the quotient g / (sqrt(v) + EPS). -/
def Rule.scaledBy (u : Rule) (v g : List W32) : Cnt (List W32) := zipC (fun vi gi => do cDiv gi (← cAdd (← cSqrt vi) u.eps)) v g

/-- R337: the denominator sqrt(v) / b2 + EPS. -/
def Rule.denom (u : Rule) (k : RuleConst) (v : List W32) : Cnt (List W32) := mapC (fun vi => do cAdd (← cDiv (← cSqrt vi) k.b2) u.eps) v

/-- R337, rule 0x8: one weight from its z and the square root of its n. -/
def Rule.ftrlW (u : Rule) (k : RuleConst) (z r1 : W32) : Cnt W32 := do
  let den ← cAdd (← cDiv (← cAdd u.fbeta r1) k.eta) u.l2
  if fCmp 3 (magBits z) u.l1 then pure 0#32 else do return fNeg (← cDiv (← cSub z (fCopySign u.l1 z)) den)

/-- R337. -/
def Rule.apply (u : Rule) (k : RuleConst) (x : RowVals) (g : List W32) : Cnt RowVals := do
  let w ← if u.decay = 2 then mapC (fun wi => cFma (fNeg k.ewd) wi wi) x.w else pure x.w
  let w ← if u.rule = 7 then mapC (fun wi => cFma (fNeg k.ewd) wi wi) w else pure w
  match u.rule with
  | 0 => return { x with w := (← stepBy k.eta w g) }
  | 1 => do
    let m ← zipC (fun m g => cFma u.b1 m g) x.s0 g
    return { x with w := (← stepBy k.eta w m), s0 := m }
  | 2 => do
    let m ← zipC (fun m g => cFma u.b1 m g) x.s0 g
    let n ← zipC (fun m g => cFma u.b1 m g) m g
    return { x with w := (← stepBy k.eta w n), s0 := m }
  | 3 => do
    let a ← zipC (fun a g => cFma g g a) x.s0 g
    return { x with w := (← stepBy k.eta w (← u.scaledBy a g)), s0 := a }
  | 4 => do
    let a ← cAdd (nth 0 x.s0 0) (← cDiv (← norm2 g) (f32u g.length))
    let r ← cDiv k.eta (← cAdd (← cSqrt a) u.eps)
    return { x with w := (← stepBy r w g), s0 := [a] }
  | 5 => do
    let v ← zipC (fun v g => do cFma u.b2 v (← cMul k.c2 (← cMul g g))) x.s0 g
    return { x with w := (← stepBy k.eta w (← u.scaledBy v g)), s0 := v }
  | 8 => do
    let n1 ← zipC (fun n g => do cAdd n (← cMul g g)) x.s1 g
    let r1 ← mapC cSqrt n1
    let r0 ← mapC cSqrt x.s1
    let sg ← zipC (fun a b => do cDiv (← cSub a b) k.eta) r1 r0
    let zg ← zipC cAdd x.s0 g
    let p ← zip3C (fun a b c => cFma (fNeg a) b c) sg w zg
    return { w := (← zipC (u.ftrlW k) p r1), s0 := p, s1 := n1 }
  | 9 => do
    let (m, v) ← u.moments k x.s0 x.s1 g
    let q ← zipC (fun mi d => do cDiv (← cMul mi k.ib1) d) m (← u.denom k v)
    let uu ← zipC (fun wi qi => cFma u.wd wi qi) w q
    let pw ← norm2 w
    let pu ← norm2 uu
    let tr ← if fCmp 4 pw 0#32 ∧ fCmp 4 pu 0#32 then do cDiv (← cSqrt pw) (← cSqrt pu) else pure one32
    let tr := if fCmp 4 u.trMax 0#32 then fMin tr u.trMax else tr
    return { w := (← stepBy (← cMul k.eta tr) w uu), s0 := m, s1 := v }
  | _ => do
    let (m, v) ← u.moments k x.s0 x.s1 g
    return { w := (← stepBy k.a1 w (← zipC cDiv m (← u.denom k v))), s0 := m, s1 := v }

/-! Rounding and the new row (R338 to R340, R345). -/

/-- Values rounded to a plain format, one draw each under mode 2; FP32 needs no rounding and no draw. -/
def roundRow (conv : Nat → W32 → Val → Nat × Ev) (fmt mode : Nat) : Gen → List W32 → Gen × List Nat × Evs
  | g, [] => (g, [], {})
  | g, x :: r =>
    if fmt = 0 then
      let (g, q, e) := roundRow conv fmt mode g r
      (g, x.toNat :: q, e)
    else
      let (g, d) := if mode = 2 then genDraw g else (g, 0#32)
      let (c, ev) := conv mode d (f32v x)
      let (g, q, e) := roundRow conv fmt mode g r
      (g, c :: q, e.add (convEv (f32v x) ev))

/-- R339: SCALE for the new weights of an 8-bit format. -/
def scaleFor (wfmt : Nat) (w : List W32) : Nat :=
  let m := blockMax (w.map f32v)
  let vmax : Nat := if wfmt = 3 then 448 else if wfmt = 4 then 57344 else 127
  match m with
  | .fin _ n e =>
    if n = 0 then 0x3F80
    else
      let (c, _) := fpRoundMag bf16 1 0 (.ratio n vmax e)
      let below := (fpDecode bf16 c).mul (Val.ofInt vmax)
      if below.cmp m = -1 then min (c + 1) bf16.maxCode else c
  | _ => 0x3F80

/-- R339, R197: the conversion of a weight to WFMT under SCALE. -/
def weightConv (wfmt scale mode : Nat) (d : W32) (x : Val) : Nat × Ev :=
  let sc := fpDecode bf16 scale
  let plain := wfmt ≠ 3 ∧ wfmt ≠ 4 ∧ wfmt ≠ 11
  match x with
  | .fin _ _ _ =>
    if plain then toPlain wfmt mode d x
    else
      let (neg, g) := x.quot sc
      match fpOf wfmt with
      | some f => let (c, ev) := fpRoundMag f mode d g; (fpSign f neg c, ev)
      | none => let (n, ev) := intRoundMag (-128) 127 mode d neg g; (wrap 8 n, ev)
  | _ => toPlain wfmt mode d x

/-- R335: the FP32 values of a row's weights; the product of an 8-bit element and SCALE is exact in FP32 but for its range. -/
def rowWeights (d : TDesc) (b : List Byte) : List W32 :=
  let sc := fpDecode bf16 (rowScale b)
  (unpack d.wfmt d.elems (b.drop 0x10)).map (fun q =>
    let v := elemVal d.wfmt q
    toW32 (if d.wfmt = 3 ∨ d.wfmt = 4 ∨ d.wfmt = 11 then v.mul sc else v))

/-- The FP32 values of a state vector at a row offset. -/
def rowState (u : Rule) (elems off : Nat) (b : List Byte) : List W32 :=
  (unpack u.sfmt elems (b.drop off)).map (fun q => toW32 (elemVal u.sfmt q))

/-- R345: the header and trailer of a row written: SEQ and TSEQ one above the old SEQ, STEP, SCALE and VTAG as given, CHECK. -/
def sealRow (old b : List Byte) (step : Nat) (vtag scale : Nat) : List Byte :=
  let seq := leBytes 4 (rowSeq old + 1)
  let b := patch (patch b 0xC (leBytes 2 vtag ++ leBytes 2 scale)) (b.length - 8) seq
  let b := patch b 0 (seq ++ leBytes 4 (step % 2 ^ 32))
  patch b 8 (leBytes 4 (rowCrc b))

/-- R334 to R340, R345: the new row of an update and the events of its arithmetic and conversions. -/
def Rule.newRow (u : Rule) (k : RuleConst) (d : TDesc) (gen : Gen) (step : Nat) (old : List Byte) (g : List W32) : List Byte × Evs :=
  let off := 0x10 + d.w
  let v := u.v d.elems
  let x : RowVals :=
    { w := rowWeights d old,
      s0 := if u.rule = 4 then [BitVec.ofNat 32 (recFld old off 4 31 0)] else if 1 ≤ u.vectors then rowState u d.elems off old else [],
      s1 := if 2 ≤ u.vectors then rowState u d.elems (off + v) old else [] }
  let ((g' : List W32), e0) := (u.prepare x.w g).run {}
  let ((y : RowVals), e1) := (u.apply k x g').run e0
  let sf := if u.rule = 4 then 0 else u.sfmt
  let (gen, q0, f0) := roundRow (toPlain sf) sf u.sround gen y.s0
  let (gen, q1, f1) := roundRow (toPlain sf) sf u.sround gen y.s1
  let scale := if d.wfmt = 3 ∨ d.wfmt = 4 ∨ d.wfmt = 11 then scaleFor d.wfmt y.w else 0x3F80
  let (_, qw, f2) := roundRow (weightConv d.wfmt scale) d.wfmt u.wround gen y.w
  let qb := pack d.wfmt qw
  let b := patch old 0x10 (qb ++ List.replicate (d.w - qb.length) 0#8)
  let b := patch b off (pack sf q0)
  let b := if 2 ≤ u.vectors then patch b (off + v) (pack sf q1) else b
  (sealRow old b step (recFld old 0xC 2 15 0) scale, ((e1.plus f0).plus f1).plus f2)

/-! The step journal (R353 to R356). -/

/-- Bytes of the journal in use. -/
def CatchSt.used (x : CatchSt) : Nat := x.journal.foldl (fun n r => n + r.len) 0

/-- R354: the bytes of a record with its payload, padded to its length. -/
def JRec.image (r : JRec) (payload : List Byte) : List Byte :=
  let stride := match r.d with | some d => d.stride | none => 0
  let body := leBytes 8 r.step.toNat ++ leBytes 8 (r.table * 2 ^ 52 + r.row * 2 ^ 12) ++ leBytes 8 (stride * 2 ^ 56 + r.addr) ++ payload
  let body := body ++ List.replicate (r.len - 8 - body.length) 0#8
  leBytes 4 (crc32c body) ++ leBytes 3 (r.len / 32) ++ [BitVec.ofNat 8 r.kind] ++ body

/-- The bytes of the ring where a record lies. -/
def CatchSt.recBytes (x : CatchSt) (r : JRec) : List Byte := Mem.read x.ring r.pos r.len

/-- R354: does the CRC of a record's bytes match? -/
def recWhole (b : List Byte) : Bool := crc32c (b.drop 8) == recFld b 0 4 31 0

/-- A record of a kind without row or payload (R354). -/
def JRec.mark (kind : Nat) (step : W64) (pos len : Nat) : JRec :=
  { kind := kind, step := step, table := 0, row := 0, d := none, addr := 0, pos := pos, len := len, acked := decide (kind ≠ 4), before := [],
    txn := 0, order := (0, 0, 0) }

/-- A record and its bytes written at its position of the ring. -/
def CatchSt.putRec (x : CatchSt) (r : JRec) (payload : List Byte) : CatchSt :=
  { x with journal := x.journal ++ [{ r with before := x.recBytes r }], ring := Mem.write x.ring r.pos (r.image payload) }

/-- The records that a new one of a length takes in a ring of a size: a padding record where it does not fit before the ring's end, and its
position; none without room. -/
def CatchSt.place (x : CatchSt) (size len : Nat) : Option (Nat × Nat) :=
  let pad := if x.jpos + len ≤ size then 0 else size - x.jpos
  if size < x.used + pad + len then none else some (pad, if pad = 0 then x.jpos else 0)

/-- JOURNAL_USED follows the journal. -/
def State.journalUsed (s : State) (st : StackId) : State := s.wr (.base st) R.BASE_JOURNAL_USED (s.catchSt st).used

/-- ACTIVE_MIB in bytes. -/
def State.journalSize (s : State) (st : StackId) : Nat := s.rf (.base st) R.BASE_JOURNAL_CFG 31 16 * 0x100000

/-- R462: the byte of a stack's DRAM where its journal begins. -/
def State.journalBase (s : State) (st : StackId) : Nat := 0x900000000 - s.journalSize st

/-- A word of the reserves written whole is good again. -/
def healedWords (l : List Nat) (lo hi : Nat) : List Nat := l.filter (fun w => !(decide (lo ≤ w) && decide (w < hi)))

/-- A record put into a stack's journal; none without room. -/
def State.journalPut (s : State) (st : StackId) (r : JRec) (payload : List Byte) : Option State :=
  match (s.catchSt st).place (s.journalSize st) r.len with
  | none => none
  | some (pad, p) =>
    let x := s.catchSt st
    let x := if pad = 0 then x else x.putRec (JRec.mark 4 r.step x.jpos pad) []
    let x := x.putRec { r with pos := p } payload
    let o := s.journalBase st
    let lo := if pad = 0 then p else s.journalSize st - pad
    let ue := healedWords (healedWords x.reserveUe ((o + lo) / 32) ((o + lo + (if pad = 0 then r.len else pad)) / 32)) ((o + p) / 32) ((o + p + r.len) / 32)
    let s := s.setCatch st { x with jpos := (p + r.len) % s.journalSize st, reserveUe := ue, stalled := false }
    let s := if pad = 0 then s else s.countReserve st (o + lo) pad R.BASE_WR_BYTES
    some (((s.countReserve st (o + p) r.len R.BASE_WR_BYTES).count (.base st) R.BASE_JOURNAL_BYTES (pad + r.len)).journalUsed st)

/-- A record read back: its bytes, none where the read is uncorrectable (R485, R487). -/
def State.readRec (s : State) (st : StackId) (r : JRec) : Option (List Byte) × State :=
  let o := s.journalBase st + r.pos
  let bad := (wordsOf 32 o r.len).any (fun w => (s.catchSt st).reserveUe.contains w)
  let b := (s.catchSt st).recBytes r
  let s := s.countReserve st o r.len R.BASE_RD_BYTES
  if bad then (none, s.stackUe st o) else (some b, s)

/-- The KIND 1 record of a transaction. -/
def Txn.record (t : Txn) : JRec :=
  { kind := 1, step := t.step, table := t.table, row := t.row, d := some t.d, addr := t.addr, pos := 0, len := 32 + t.d.bytes, acked := false,
    before := [], txn := t.id, order := (0, 0, 0) }

/-- R355: every record of step n or lower is freed. -/
def State.journalCommit (s : State) (st : StackId) (n : Nat) : State :=
  ((s.setCatch st { s.catchSt st with journal := (s.catchSt st).journal.filter (fun r => decide (n < r.step.toNat)) }).journalUsed st).wr
    (.base st) R.BASE_COMMITTED_STEP n

/-- R355: the KIND 3 record of the close of step n; without room the step has exceeded the journal (R356). -/
def State.journalClose (s : State) (st : StackId) (n : Nat) : State :=
  match s.journalPut st (JRec.mark 3 (BitVec.ofNat 64 n) 0 32) [] with
  | some s => s
  | none => (s.err (.base st) E.BASE_JOURNAL_OVF).failStep n

/-! Transactions. -/

/-- The open step, where one is open and not closed. -/
def State.openNow (s : State) : Option Nat :=
  match s.stepSt s.openStep with
  | some x => if x.closed then none else some s.openStep
  | none => none

/-- The first transaction of a stack in a phase. -/
def CatchSt.firstIn (x : CatchSt) (p : TxnPhase) : Option Txn := x.txns.find? (fun t => t.phase == p)
/-- A transaction moves on. -/
def CatchSt.modTxn (x : CatchSt) (t : Txn) (f : Txn → Txn) : CatchSt := { x with txns := x.txns.map (fun u => if u.id = t.id then f u else u) }
/-- A transaction ends, its lock released. -/
def State.dropTxn (s : State) (st : StackId) (t : Txn) : State :=
  let x := s.catchSt st
  s.setCatch st { x with txns := x.txns.filter (fun u => u.id != t.id), locks := x.locks.filter (fun l => decide (l.who ≠ .txn t.id)) }

/-- A transaction arrives, numbered, and asks for the lock of its row (R342, R352). -/
def CatchSt.addTxn (x : CatchSt) (t : Txn) : CatchSt :=
  { x with txns := x.txns ++ [{ t with id := x.nextTxn, phase := .lock }], nextTxn := x.nextTxn + 1,
           locks := x.locks ++ [{ addr := t.addr, who := .txn x.nextTxn, granted := false }] }

/-- R324: word j of rule descriptor d in force. -/
def State.ruleWord (s : State) (st : StackId) (d j : Nat) : Nat := s.tblWord (.crd st) (8 * d + j)

/-- R322 to R324: a request accepted, or refused with its error. -/
def State.takeRequest (s : State) (st : StackId) (u : Txn) : State :=
  let x := s.catchSt st
  let n := u.step.toNat
  if !s.enabled (.base st) then (s.err (.base st) E.WORK_REFUSED).failStep n
  else if s.openNow ≠ some n then (s.err (.base st) E.BASE_STEP_LATE).failStep n
  else if x.seen.contains (u.table, u.row) then (s.err (.base st) E.BASE_DUP_UPDATE).failStep n
  else
    let x := { x with seen := x.seen ++ [(u.table, u.row)] }
    if !ruleOk (s.ruleWord st u.d.rule) ∨ u.d.stateBytes < (Rule.ofWords (s.ruleWord st u.d.rule)).stateBytes u.d.elems then
      ((s.setCatch st x).err (.base st) E.BASE_RULE_BAD).failStep n
    else s.setCatch st (x.addTxn u)

/-- R375: MAX_TXN as it takes effect. -/
def State.maxTxn (s : State) (st : StackId) : Nat := min (max (s.rf (.base st) R.BASE_CATCH_CFG 15 8) 1) 64

/-- R356: a step that exceeds the journal: its remaining updates are abandoned. -/
def State.journalOverflow (s : State) (st : StackId) (n : W64) : State :=
  let x := s.catchSt st
  let s := s.setCatch st { x with inbox := x.inbox.filter (fun u => u.step != n),
                                  txns := x.txns.filter (fun t => t.step != n || t.phase == .record || t.phase == .write) }
  (s.err (.base st) E.BASE_JOURNAL_OVF).failStep n.toNat

/-- R344, R356: the pre-image record is issued, waits for room, or exceeds the journal. -/
def State.issueRecord (s : State) (st : StackId) (t : Txn) : State :=
  match s.journalPut st t.record t.old with
  | some s => s.setCatch st ((s.catchSt st).modTxn t (fun t => { t with phase := .record }))
  | none =>
    if (s.catchSt st).journal.any (fun r => decide (r.step.toNat < s.openStep)) then
      if t.phase = .room then s
      else (s.err (.base st) E.BASE_JOURNAL_STALL).setCatch st ((s.catchSt st).modTxn t (fun t => { t with phase := .room }))
    else s.journalOverflow st t.step

/-- R340: the generator of a row update. -/
def State.rowGen (s : State) (t : Txn) : Gen :=
  genSeed (s.seedsOf t.step).1 t.step 3 (s.coord - s.ownX) (BitVec.ofNat 64 (rowKey t.table t.row)) 0

/-- Word k of a table's sampled bank. -/
def sampledWord (tb : TableId) (m : List (Nat × W64)) (k : Nat) : Nat := (SMap.get (tblCold tb) m k).toNat

/-- R332: the constants of descriptor d for a step, from what its opening sampled. -/
def State.ruleConsts (s : State) (st : StackId) (d step : Nat) : RuleConst :=
  let x := s.catchSt st
  let u := Rule.ofWords (fun j => sampledWord (.crd st) x.crd (8 * d + j))
  u.consts (lrAt ((List.range 256).map (sampledWord (.lrcBase st) x.lrc)) step x.origin.toNat) step x.origin.toNat

/-- R333: what a step opening samples on a base die. -/
def State.sampleCatch (s : State) (st : StackId) : State :=
  s.setCatch st { s.catchSt st with origin := BitVec.ofNat 64 (s.rd (.base st) R.BASE_LR_ORIGIN),
                                    crd := (s.tbl (.crd st)).bank (s.tbl (.crd st)).active,
                                    lrc := (s.tbl (.lrcBase st)).bank (s.tbl (.lrcBase st)).active, seen := [], ce := 0, ceTold := false }

/-- R219, R341, R625: events of step n. -/
def State.stepEvs (s : State) (n : Nat) (e : Evs) : State := s.modStep n (fun x => { x with evs := x.evs.plus e })

/-- The new row of a transaction and its events. -/
def State.txnRow (s : State) (st : StackId) (t : Txn) (old : List Byte) : List Byte × Evs :=
  if t.replace then
    (sealRow old (t.image.take t.d.bytes) t.step.toNat (recFld t.image 0xC 2 15 0) (rowScale t.image), {})
  else (Rule.ofWords (s.ruleWord st t.d.rule)).newRow (s.ruleConsts st t.d.rule t.step.toNat) t.d (s.rowGen t) t.step.toNat old t.grads

/-- CATCH_ROW_READ (R343): the row of the first transaction that reads is checked, its new bytes are formed and its pre-image record is
issued. A replacement may overwrite a poisoned row (R364). -/
def State.rowRead (s : State) (st : StackId) (t : Txn) : State :=
  let n := t.d.bytes
  let bad := s.hbmBad t.addr n
  let old := s.hbmRead t.addr n
  let s := s.hbmSeen t.addr n
  if bad then (s.dropTxn st t).failStep t.step.toNat
  else
    if rowSeq old ≠ rowTseq old then ((s.tornRow st t.table t.row t.addr n).dropTxn st t).failStep t.step.toNat
    else if rowPoison old ∧ !t.replace then
      (((s.count (.base st) R.BASE_POISON_SKIPS 1).errAt (.base st) E.BASE_ROW_POISON t.addr).dropTxn st t).failStep t.step.toNat
    else if !rowPoison old ∧ rowCheck old ≠ rowCrc old then
      (((s.poisonRow st t.table t.row t.addr n).errAt (.base st) E.BASE_ROW_CHECK t.addr).dropTxn st t).failStep t.step.toNat
    else
      let (new, e) := s.txnRow st t old
      let t' := { t with old := old, new := new }
      let s := s.setCatch st ((s.catchSt st).modTxn t (fun _ => t'))
      let s := (s.countEvs (.base st) R.BASE_CATCH_OVERFLOW e).stepEvs t.step.toNat e
      s.issueRecord st t'

/-- The record of a transaction is acknowledged; the ring reaches DRAM in order. -/
def CatchSt.ackRecord (x : CatchSt) (t : Txn) : CatchSt :=
  let k := (x.journal.findIdx? (fun r => r.kind == 1 && r.txn == t.id)).getD 0
  { x with journal := (x.journal.zip (List.range x.journal.length)).map (fun r => if r.2 ≤ k then { r.1 with acked := true } else r.1) }

/-- The transaction of the oldest pre-image record that is not acknowledged. -/
def CatchSt.oldestRecord (x : CatchSt) : Option Txn :=
  (x.journal.find? (fun r => r.kind == 1 && !r.acked)).bind (fun r => x.txns.find? (fun t => t.id == r.txn && t.phase == .record))

/-- R344, R345: the row writes of a transaction. -/
def State.writeRow (s : State) (st : StackId) (t : Txn) : State :=
  let s := s.setCatch st (((s.catchSt st).ackRecord t).modTxn t (fun t => { t with phase := .write }))
  s.hbmStore t.addr t.new

/-- R348, R366, R641: the row transaction commits and its lock is released. -/
def State.commitTxn (s : State) (st : StackId) (t : Txn) : State :=
  let s := (s.moveRd st t.table t.row t.old t.new).dropTxn st t
  if t.replace then (s.count (.base st) R.BASE_REPLACE_APPLIED 1).count .hrd R.HRD_REPLACE_ROWS 1
  else s.count (.base st) R.BASE_CATCH_UPDATES 1

/-- R346: the place of an ECC word of a row in the order of writing: trailer and padding 1, state 2, weights 3, header 4. -/
def Txn.wordPos (t : Txn) (k : Nat) : Nat :=
  if k = 0 then 4 else if 32 * k < 0x10 + t.d.w then 3 else if 32 * k < 0x10 + t.d.w + t.d.stateBytes then 2 else 1

/-- R347: the row with only the first n words of a transaction written. -/
def Txn.prefix (t : Txn) (n : Nat) : List Byte :=
  let words := List.range t.d.stride
  let order := (List.range 5).flatMap (fun p => words.filter (fun k => t.wordPos k == p))
  let done := order.take n
  words.flatMap (fun k => ((if done.contains k then t.new else t.old).drop (32 * k)).take 32)

/-! Interruption, rollback and warm start (R347, R358 to R360). -/

/-- The bytes that a record not yet acknowledged leaves in the ring when its first k words have reached DRAM. -/
def CatchSt.cutRec (x : CatchSt) (r : JRec) (k : Nat) : CatchSt :=
  { x with ring := Mem.write x.ring r.pos ((x.recBytes r).take (32 * k) ++ r.before.drop (32 * k)) }

/-- R347: an interruption of the ring's writing, which reaches DRAM in order (DEDUCED, log entry 213): the records up to the last one
acknowledged are there; of the others the first n are, the next one up to its word k, and no more. -/
def CatchSt.cutJournal (x : CatchSt) (n k : Nat) : CatchSt :=
  let l := x.journal
  let sure := l.length - (l.reverse.findIdx? JRec.acked).getD l.length
  let m := min l.length (sure + n)
  let x := (l.drop (m + 1)).reverse.foldl (fun x r => x.cutRec r 0) x
  match l[m]? with
  | none => { x with journal := l.map (fun r => { r with acked := true }) }
  | some r => { x.cutRec r k with journal := (l.take (m + 1)).map (fun r => { r with acked := true }) }

/-- The write position of a ring of a size behind its last record. -/
def CatchSt.rewind (x : CatchSt) (size : Nat) : CatchSt :=
  match x.journal.getLast? with
  | some r => { x with jpos := (r.pos + r.len) % size }
  | none => x

/-- R347: a warm reset or a fence leaves a prefix of what each transaction was writing: how long a prefix is a free value. -/
def State.cutCatch (s : State) (st : StackId) : State :=
  let x := s.catchSt st
  let s := (x.txns.filter (fun t => t.phase == .write)).foldl (fun s t =>
    let (v, s) := s.fresh
    s.hbmWrite t.addr (t.prefix (v.toNat % (t.d.stride + 1)))) s
  let (v, s) := s.fresh
  let (w, s) := s.fresh
  (s.setCatch st (CatchSt.rewind { x.cutJournal (v.toNat % (x.journal.length + 1)) (w.toNat % 130) with inbox := [], txns := [], locks := [], stalled := false }
    (s.journalSize st))).journalUsed st

/-- R358, action 3: pre-images of step r or later restored, newest first, from their records in DRAM; false where a record other than
the final one fails its CRC or cannot be read (R360). -/
def State.restoreRows (s : State) (st : StackId) (r : Nat) : List JRec → State × Bool
  | [] => (s, true)
  | j :: l =>
    if r ≤ j.step.toNat then
      let (b, s) := s.readRec st j
      match b with
      | none => (s.err (.base st) E.BASE_JOURNAL_REC_BAD, false)
      | some b =>
        if !recWhole b then (s.err (.base st) E.BASE_JOURNAL_REC_BAD, false)
        else if recFld b 0 8 63 56 = 1 then
          ((s.hbmStore (recFld b 0x18 8 47 0) ((b.drop 32).take (32 * recFld b 0x18 8 63 56))).count (.base st) R.BASE_ROWS_RESTORED 1).restoreRows st r l
        else s.restoreRows st r l
    else s.restoreRows st r l

/-- R358: the transactions begun are completed: those whose record is issued. -/
def State.finishTxns (s : State) (st : StackId) : State :=
  ((s.catchSt st).txns.filter (fun t => t.phase == .record || t.phase == .write)).foldl (fun s t =>
    let s := if t.phase = .record then (s.setCatch st ((s.catchSt st).ackRecord t)).hbmStore t.addr t.new else s
    s.commitTxn st t) s

/-- Records of a journal go, with what they occupied. -/
def State.dropRecs (s : State) (st : StackId) (keep : JRec → Bool) : State :=
  (s.setCatch st (CatchSt.rewind { s.catchSt st with journal := (s.catchSt st).journal.filter keep } (s.journalSize st))).journalUsed st

/-- R358, R359: a stack rolls back every step from r on. A final record that fails its CRC is ignored. RD keeps its value here (R641). -/
def State.rollbackCatch (s : State) (st : StackId) (r : Nat) : State :=
  let s := s.finishTxns st
  let x := s.catchSt st
  let keep := fun (u : Txn) => decide (u.step.toNat < r)
  let newest := match x.journal.reverse with
    | j :: l => if recWhole (x.recBytes j) then j :: l else l
    | [] => []
  let s := (s.setCatch st { x with inbox := x.inbox.filter keep, txns := x.txns.filter keep, stalled := false }).dropRecs st
    (fun j => !(j.kind == 2 && decide (r ≤ j.step.toNat)))
  let (s, done) := s.restoreRows st r (newest.filter (fun j => j.kind != 2))
  if done then s.dropRecs st (fun j => decide (j.step.toNat < r)) else s

/-! Replacement (R366). -/

/-- What becomes of a replacement at its owner: accepted, waiting for room, or refused. -/
inductive Taking where
  | done (s : State)
  | wait (s : State)
  | refused (s : State)
deriving Repr

/-- R63, R306, R356, R366: a replacement of step n becomes a KIND 2 record. Its place under R307 is its source y, its source tile and its
arrival. -/
def State.acceptReplace (s : State) (n : Nat) (d : TDesc) (table row addr : Nat) (image : List Byte) (y tile : Nat) : Taking :=
  let st := s.stackOfAddr addr
  if !s.enabled (.base st) then .refused (s.err (.base st) E.WORK_REFUSED)
  else
    let x := s.catchSt st
    match (s.setCatch st { x with nextTxn := x.nextTxn + 1 }).journalPut st
      { kind := 2, step := BitVec.ofNat 64 n, table := table, row := row, d := some d, addr := addr, pos := 0, len := 32 + d.bytes, acked := true,
        before := [], txn := x.nextTxn, order := (y, tile, x.nextTxn) } image with
    | some s => .done s
    | none =>
      if x.journal.any (fun r => decide (r.step.toNat < s.openStep)) then
        .wait (if x.stalled then s else (s.setCatch st { x with stalled := true }).err (.base st) E.BASE_JOURNAL_STALL)
      else .refused (s.journalOverflow st (BitVec.ofNat 64 n))

/-- Is a before b in the order of R307? -/
def orderLe (a b : Nat × Nat × Nat) : Bool :=
  decide (a.1 < b.1) || (a.1 == b.1 && (decide (a.2.1 < b.2.1) || (a.2.1 == b.2.1 && decide (a.2.2 ≤ b.2.2))))

/-- R307: a record put into its place. -/
def insertRec (r : JRec) : List JRec → List JRec
  | [] => [r]
  | x :: l => if orderLe x.order r.order then x :: insertRec r l else r :: x :: l

/-- R300, action 2: the replacements queued in step n become row transactions, in the order of R307. -/
def State.startReplaces (s : State) (st : StackId) (n : Nat) : State :=
  let x := s.catchSt st
  let rs := (x.journal.filter (fun r => r.kind == 2 && r.step.toNat == n)).foldl (fun l r => insertRec r l) []
  rs.foldl (fun s r =>
    match r.d, s.readRec st r with
    | some d, (some b, s) =>
      s.setCatch st ((s.catchSt st).addTxn
        { id := 0, replace := true, table := r.table, row := r.row, step := r.step, addr := r.addr, d := d, grads := [],
          image := (b.drop 32).take d.bytes, phase := .lock, old := [], new := [] })
    | _, (_, s) => s.failStep n) s

/-! Memory-side atomics (R367, R368). -/

/-- R367: the new value of an atomic of n bits, and its event. -/
def atomicNew (op : AtomOp) (ty : AtomTy) (old x cmp : Nat) : Option (Nat × Ev) :=
  let fp (f : FpSpec) : Nat × Ev :=
    let a := fpDecode f old
    let b := fpDecode f x
    let v := a.add b
    let (c, ev) := fpRound f 0 0 v
    (c, resultEv [a, b] (fpDecode f c) ev)
  let pick (lt : Bool) (n : Nat) : Nat × Ev :=
    (if decide (sgn n old < sgn n x) == lt then old else x, .none)
  match op, ty with
  | .add, .fp32 => some (fp fp32)
  | .add, .bf16 => some (fp bf16)
  | .add, .fp16 => some (fp fp16)
  | .add, .i32 => some ((old + x) % 2 ^ 32, .none)
  | .add, .i64 => some ((old + x) % 2 ^ 64, .none)
  | .min, .i32 => some (pick true 32)
  | .min, .i64 => some (pick true 64)
  | .max, .i32 => some (pick false 32)
  | .max, .i64 => some (pick false 64)
  | .min, .fp32 => some ((fMin (BitVec.ofNat 32 old) (BitVec.ofNat 32 x)).toNat, .none)
  | .max, .fp32 => some ((fMax (BitVec.ofNat 32 old) (BitVec.ofNat 32 x)).toNat, .none)
  | .swap, .b32 => some (x % 2 ^ 32, .none)
  | .swap, .b64 => some (x % 2 ^ 64, .none)
  | .cas, .b32 => some (if old = cmp % 2 ^ 32 then x % 2 ^ 32 else old, .none)
  | .cas, .b64 => some (if old = cmp % 2 ^ 64 then x % 2 ^ 64 else old, .none)
  | _, _ => none

/-- Bytes of an atomic's type. -/
def atomBytes : AtomTy → Nat
  | .fp32 => 4 | .bf16 => 2 | .fp16 => 2 | .i32 => 4 | .i64 => 8 | .b32 => 4 | .b64 => 8

/-- R367, R368, R375: an atomic at an address of HBM. Of its events only the NaN of an ADD has a counter (CATCH_NAN). -/
def State.atomic (s : State) (a : Nat) (op : AtomOp) (ty : AtomTy) (x cmp : W64) : State × Resp :=
  let n := atomBytes ty
  if s.hbmTop < a + n then (s.unmapped, ⟨false, 0⟩)
  else
    let st := s.stackOfAddr a
    if a % n ≠ 0 ∨ (atomicNew op ty 0 0 0).isNone then (s.errAt (.base st) E.BASE_ATOMIC_BAD a, ⟨false, 0⟩)
    else if !s.enabled (.base st) then (s.err (.base st) E.WORK_REFUSED, ⟨false, 0⟩)
    else
      let bad := s.hbmBad a n
      let old := ofLe (s.hbmRead a n)
      let s := s.hbmSeen a n
      match (if bad then none else atomicNew op ty old (x.toNat % 2 ^ (8 * n)) cmp.toNat) with
      | none => (s, ⟨false, 0⟩)
      | some (v, ev) =>
        let s := (s.hbmStore a (leBytes n v)).count (.base st) R.BASE_ATOMICS 1
        (if ev = .nan then s.count (.base st) R.BASE_CATCH_NAN 1 else s, ⟨true, BitVec.ofNat 64 old⟩)

end Sys2Proof.Machine
end

