-- ==== Sys2Proof/Machine/Dense.lean ====
section
/-! DEFINITION. The arithmetic of the Finish engine: layer descriptors (R380 to R383), matrix products (R377), orthogonalised momentum
(R391, R392), Kronecker factors (R393, R394), menu rules on layers (R395), matrix programs (R409 to R412), rounding (R396 to R398). -/

namespace Sys2Proof.Machine

/-! Layer descriptors. -/

/-- A layer descriptor (R380): its addresses and shape, the rule and its parameters. -/
structure LDesc where
  master : Nat
  state : Nat
  rows : Nat
  cols : Nat
  layerId : Nat
  valid : Bool
  rule : Nat
  mfmt : Nat
  sfmt : Nat
  updTile : Nat
  wround : Nat
  sround : Nat
  cfmt : Nat
  decay : Nat
  clipMode : Nat
  copyMap : Nat
  nesterov : Bool
  biasCorr : Bool
  scaleMode : Nat
  nsIter : Nat
  kfP4 : Bool
  kfSides : Nat
  kfIter : Nat
  copyOff : Nat
  cstride : Nat
  lrMul : W32
  wd : W32
  b1 : W32
  b2 : W32
  eps : W32
  clip : W32
  gscale : W32
  kfBeta : W32
  refresh : Nat
  phase : Nat
  factEvery : Nat
  coefAddr : Nat
  progAddr : Nat
  l1 : W32
  l2 : W32
  fbeta : W32
  trMax : W32
  scaleK : W32
  pstate : Nat
deriving DecidableEq, Repr

/-- A descriptor from its 128 bytes. -/
def LDesc.ofBytes (b : List Byte) : LDesc :=
  let w (o : Nat) : Nat := recFld b o 4 31 0
  let f (o : Nat) : W32 := BitVec.ofNat 32 (w o)
  let x := w 0x18
  let y := w 0x1C
  { master := recFld b 0 8 63 0, state := recFld b 8 8 63 0, rows := fld (w 0x10) 31 16, cols := fld (w 0x10) 15 0, layerId := w 0x14,
    valid := x.testBit 31, rule := fld x 29 24, mfmt := fld x 23 20, sfmt := fld x 19 16, updTile := fld x 14 12, wround := fld x 11 10,
    sround := fld x 9 8, cfmt := fld x 7 4, decay := fld x 3 2, clipMode := fld x 1 0, copyMap := fld y 31 24, nesterov := y.testBit 23,
    biasCorr := y.testBit 22, scaleMode := fld y 21 20, nsIter := fld y 19 15, kfP4 := y.testBit 14, kfSides := fld y 13 12,
    kfIter := fld y 11 7, copyOff := w 0x20, cstride := w 0x24, lrMul := f 0x28, wd := f 0x2C, b1 := f 0x30, b2 := f 0x34, eps := f 0x38,
    clip := f 0x3C, gscale := f 0x40, kfBeta := f 0x44, refresh := fld (w 0x48) 31 16, phase := fld (w 0x48) 15 0,
    factEvery := fld (w 0x4C) 15 0, coefAddr := recFld b 0x50 8 63 0, progAddr := recFld b 0x58 8 63 0, l1 := f 0x60, l2 := f 0x64,
    fbeta := f 0x68, trMax := f 0x6C, scaleK := f 0x70, pstate := w 0x74 }

/-- Are the reserved fields of a descriptor 0? -/
def ldescReserved (b : List Byte) : Bool :=
  recFld b 0x18 4 30 30 == 0 && recFld b 0x18 4 15 15 == 0 && recFld b 0x1C 4 6 0 == 0 && recFld b 0x4C 4 31 16 == 0 && recFld b 0x78 8 63 0 == 0

/-- E. -/
def LDesc.elems (d : LDesc) : Nat := d.rows * d.cols
/-- Bytes of the master. -/
def LDesc.masterLen (d : LDesc) : Nat := d.elems * (elemBits d.mfmt / 8)

/-- The rule parameters that a layer takes from its descriptor (R395). -/
def LDesc.rule' (d : LDesc) : Rule :=
  { rule := d.rule, sfmt := d.sfmt, wround := d.wround, sround := d.sround, biasCorr := d.biasCorr, decay := d.decay, clipMode := d.clipMode,
    wd := d.wd, lrMul := d.lrMul, b2 := d.b2, b1 := d.b1, clip := d.clip, eps := d.eps, l2 := d.l2, l1 := d.l1, trMax := d.trMax,
    fbeta := d.fbeta, gscale := d.gscale }

/-- R382: the items of the state in order: elements and format. -/
def LDesc.items (d : LDesc) : List (Nat × Nat) :=
  let side (bit n : Nat) : List (Nat × Nat) := if d.kfSides.testBit bit then [(n * n, 0), (n * n, 0)] else []
  match d.rule with
  | 0x10 => [(d.elems, d.sfmt)]
  | 0x11 => (d.elems, d.sfmt) :: (side 0 d.rows ++ side 1 d.cols)
  | 0x20 => [(d.pstate / 4, 0)]
  | 4 => [(1, 0)]
  | _ => List.replicate d.rule'.vectors (d.elems, d.sfmt)

/-- R382: the offsets of state items, each on a 64-byte boundary, and the end of the last one. -/
def itemOffs (pos : Nat) : List (Nat × Nat) → List Nat × Nat
  | [] => ([], pos)
  | (n, f) :: r =>
    let o := alignUp pos 64
    let (l, e) := itemOffs (o + n * (elemBits f / 8)) r
    (o :: l, e)

/-- Bytes of the state. -/
def LDesc.stateLen (d : LDesc) : Nat := (itemOffs 0 d.items).2

/-- R383: the working set in bytes, less the scratch slots of a program. -/
def LDesc.workSet (d : LDesc) : Nat :=
  let q := min d.rows d.cols
  let k := max (if d.kfSides.testBit 0 then d.rows else 0) (if d.kfSides.testBit 1 then d.cols else 0)
  match d.rule with
  | 0x10 => 4 * (2 * d.elems + 3 * q * q)
  | 0x11 => 4 * (3 * d.elems + 5 * k * k)
  | 0x20 => 8 * d.elems + d.pstate
  | _ => 0

/-- 64 MiB, the Finish reservation. -/
def finReserve : Nat := 0x4000000

/-- R380, R381, R397: are the fields of a descriptor in range, whatever its rule uses, and its copies inside the software areas? -/
def State.ldescShape (s : State) (b : List Byte) : Bool :=
  let d := LDesc.ofBytes b
  let inHbm (a n : Nat) : Bool := decide (a + n ≤ s.hbmTop)
  ldescReserved b && (decide (d.rule ≤ 9) || d.rule == 0x10 || d.rule == 0x11 || d.rule == 0x20) && decide (1 ≤ d.rows) &&
    decide (d.rows ≤ 16384) && decide (1 ≤ d.cols) && decide (d.cols ≤ 16384) && decide (d.mfmt ≤ 1) && decide (d.sfmt ≤ 1) &&
    decide (d.wround ≤ 2) && decide (d.sround ≤ 2) && decide (d.cfmt ≤ 2) && decide (d.decay ≤ 2) && decide (d.clipMode ≤ 2) &&
    d.master % 64 == 0 && d.state % 64 == 0 && inHbm d.master d.masterLen && inHbm d.state d.stateLen && d.copyOff % 256 == 0 &&
    d.cstride % 64 == 0 && decide (1 ≤ d.nsIter) && decide (d.nsIter ≤ 16) && decide (1 ≤ d.kfIter) && decide (1 ≤ d.refresh) &&
    decide (d.phase < d.refresh) && decide (1 ≤ d.factEvery) && d.progAddr % 16 == 0 && d.pstate % 64 == 0 &&
    (List.range 8).all (fun t => !d.copyMap.testBit t ||
      decide (d.copyOff + (d.rows - 1) * d.cstride + d.cols * (elemBits d.cfmt / 8) ≤ s.softEnd (s.physTile t)))

/-- R381, R383, R397: may an update of the layer run? -/
def State.ldescOk (s : State) (expert : Bool) (b : List Byte) : Bool :=
  let d := LDesc.ofBytes b
  d.valid && s.ldescShape b && (d.scaleMode != 3 || d.rule == 0x11) && (!(d.scaleMode == 1 || d.scaleMode == 2) || d.rule == 0x10) &&
    (d.rule != 0x11 || d.kfSides != 0) && (d.rule != 0x20 || expert) && decide (d.workSet ≤ finReserve) &&
    !((d.wround == 2 || d.sround == 2) && decide (1 < s.ny))

/-! Matrices (R377). -/

/-- A matrix as its rows. -/
abbrev Mat := List (List W32)

/-- Columns as rows. -/
def Mat.transpose (n : Nat) (a : Mat) : Mat := (List.range n).map (fun j => a.map (fun r => nth 0 r j))

/-- A list cut into rows of n. -/
def Mat.ofList (n : Nat) (l : List W32) : Mat := if n = 0 then [] else chunks n l

/-- One element of a product: fma for k in ascending order. -/
def dotC : W32 → List W32 → List W32 → Cnt W32
  | acc, x :: r, y :: t => do dotC (← cFma x y acc) r t
  | acc, _, _ => pure acc

/-- One row of a product by the columns of B. -/
def rowC (a : List W32) : List W32 → Mat → Cnt (List W32)
  | c :: cs, b :: bs => do return (← dotC c a b) :: (← rowC a cs bs)
  | _, _ => pure []

/-- C0 + A · B, B given by its columns. -/
def matC (bt : Mat) : Mat → Mat → Cnt Mat
  | c :: cs, a :: as' => do return (← rowC a c bt) :: (← matC bt cs as')
  | _, _ => pure []

/-- R377: A · B, an m × k by a k × n matrix, from +0. -/
def mulC (n : Nat) (a b : Mat) : Cnt Mat := matC (Mat.transpose n b) (a.map (fun _ => List.replicate n 0#32)) a
/-- R377: C0 + A · B. -/
def mulAddC (n : Nat) (c a b : Mat) : Cnt Mat := matC (Mat.transpose n b) c a

/-- An element-wise operation. -/
def mapM' (f : W32 → Cnt W32) : Mat → Cnt Mat
  | [] => pure []
  | r :: l => do return (← mapC f r) :: (← mapM' f l)
/-- An element-wise operation on two matrices. -/
def zipM' (f : W32 → W32 → Cnt W32) : Mat → Mat → Cnt Mat
  | r :: l, t :: u => do return (← zipC f r t) :: (← zipM' f l u)
  | _, _ => pure []

/-- x on the diagonal of a d × d matrix, +0 elsewhere. -/
def Mat.diag (d : Nat) (x : W32) : Mat := (List.range d).map (fun i => (List.range d).map (fun j => if i = j then x else 0#32))

/-- x added on the diagonal, one rounding each. -/
def addDiag (x : W32) (a : Mat) : Cnt Mat := go x 0 a
where
  /-- Row i and those after it. -/
  go (x : W32) (i : Nat) : Mat → Cnt Mat
    | [] => pure []
    | r :: l => do
      let v ← cAdd (nth 0 r i) x
      return modNth (fun _ => v) r i :: (← go x (i + 1) l)

/-- x * I - M, element-wise. -/
def diagSub (x : W32) (m : Mat) : Cnt Mat := zipM' cSub (Mat.diag m.length x) m

/-! Rules 0x10 and 0x11. -/

/-- R392: the default coefficients, rounded to FP32. -/
def nsDefault : W32 × W32 × W32 := (0x405C72B0#32, 0xC098CCCD#32, 0x40020419#32)

/-- R391: one iteration on X of q rows and n columns. -/
def nsStep (q n : Nat) (x : Mat) (c : W32 × W32 × W32) : Cnt Mat := do
  let a ← mulC q x (Mat.transpose n x)
  let aa ← mulC q a a
  let b ← zipM' (fun p q => do cFma c.2.2 p (← cMul c.2.1 q)) aa a
  mulAddC n (← mapM' (fun v => cMul c.1 v) x) b x

/-- R391: the iterations in order. -/
def nsSteps (q n : Nat) : List (W32 × W32 × W32) → Mat → Cnt Mat
  | [], x => pure x
  | c :: r, x => do nsSteps q n r (← nsStep q n x c)

/-- R391: the scalar of SCALE_MODE 0 to 2. -/
def LDesc.scaleBy (d : LDesc) : Cnt W32 :=
  match d.scaleMode with
  | 1 => do cSqrt (fMax one32 (← cDiv (f32u d.rows) (f32u d.cols)))
  | 2 => do cMul d.scaleK (← cSqrt (fMax (f32u d.rows) (f32u d.cols)))
  | _ => pure one32

/-- R391: orthogonalised momentum: the new m and w. -/
def LDesc.orthogonal (d : LDesc) (k : RuleConst) (coefs : List (W32 × W32 × W32)) (w m g : List W32) : Cnt (List W32 × List W32) := do
  let m ← zipC (fun m g => cFma d.b1 m g) m g
  let u ← if d.nesterov then zipC (fun m g => cFma d.b1 m g) m g else pure m
  let n ← cAdd (← cSqrt (← norm2 u)) d.eps
  let x := Mat.ofList d.cols (← mapC (fun v => cDiv v n) u)
  let x ← if d.cols < d.rows then do
      let y ← nsSteps d.cols d.rows coefs (Mat.transpose d.cols x)
      pure (Mat.transpose d.rows y)
    else nsSteps d.rows d.cols coefs x
  let e ← cMul k.eta (← d.scaleBy)
  return (m, ← stepBy e w x.flatten)

/-- R394: one iteration of the coupled Newton iteration on (X, M). -/
def rootStep (n : Nat) (p1 pInv : W32) (p4 : Bool) (xm : Mat × Mat) : Cnt (Mat × Mat) := do
  let t ← mapM' (fun v => cMul v pInv) (← diagSub p1 xm.2)
  let x ← mulC n xm.1 t
  let t2 ← mulC n t t
  let m ← if p4 then do mulC n (← mulC n t2 t2) xm.2 else mulC n t2 xm.2
  return (x, m)

/-- R394: n iterations. -/
def rootSteps (d : Nat) (p1 pInv : W32) (p4 : Bool) : Nat → Mat × Mat → Cnt (Mat × Mat)
  | 0, xm => pure xm
  | n + 1, xm => do rootSteps d p1 pInv p4 n (← rootStep d p1 pInv p4 xm)

/-- R394: the inverse root of a d × d factor. -/
def invRoot (d : Nat) (eps : W32) (p4 : Bool) (iter : Nat) (f : Mat) : Cnt Mat := do
  let p := if p4 then 4 else 2
  let a ← addDiag eps f
  let z ← cDiv (f32u (p + 1)) (← cMul 0x40000000#32 (← cSqrt (← norm2 a.flatten)))
  let zr ← if p4 then do cSqrt (← cSqrt z) else cSqrt z
  let m ← mapM' (fun v => cMul z v) a
  let (x, _) ← rootSteps d (f32u (p + 1)) (if p4 then 0x3E800000#32 else 0x3F000000#32) p4 iter (Mat.diag d zr, m)
  return x

/-- A factor and its root of one side. -/
structure KfSide where
  f : Mat
  q : Mat
deriving DecidableEq, Repr

/-- R393: a factor accumulates and its root is refreshed, where they fall due. -/
def LDesc.kfSide (d : LDesc) (n t0 : Nat) (gg : Cnt Mat) (x : KfSide) : Cnt KfSide := do
  let f ← if t0 % d.factEvery = 0 then do
      let k1 ← cSub one32 d.kfBeta
      zipM' (fun a b => do cFma d.kfBeta a (← cMul k1 b)) x.f (← gg)
    else pure x.f
  let q ← if (t0 + d.phase) % d.refresh = 0 then invRoot n d.eps d.kfP4 d.kfIter f else pure x.q
  return { f := f, q := q }

/-- R393: Kronecker-factored preconditioning: the new m, w and sides. -/
def LDesc.kronecker (d : LDesc) (k : RuleConst) (t0 : Nat) (w m g : List W32) (l r : Option KfSide) :
    Cnt (List W32 × List W32 × Option KfSide × Option KfSide) := do
  let gm := Mat.ofList d.cols g
  let gt := Mat.transpose d.cols gm
  let l ← match l with
    | none => pure none
    | some x => do pure (some (← d.kfSide d.rows t0 (mulC d.rows gm gt) x))
  let r ← match r with
    | none => pure none
    | some x => do pure (some (← d.kfSide d.cols t0 (mulC d.cols gt gm) x))
  let p ← match l with | none => pure gm | some x => mulC d.cols x.q gm
  let p ← match r with | none => pure p | some x => mulC d.cols p x.q
  let p := p.flatten
  let p ← if d.scaleMode = 3 then do
      let sc ← cDiv (← cSqrt (← norm2 g)) (← cAdd (← cSqrt (← norm2 p)) d.eps)
      mapC (fun v => cMul v sc) p
    else pure p
  let m ← zipC (fun m p => cFma d.b1 m p) m p
  return (m, ← stepBy k.eta w m, l, r)

/-- R378: the fused multiply-adds in the products of rules 0x10 and 0x11. -/
def LDesc.fmas (d : LDesc) (t0 : Nat) : Nat :=
  let q := min d.rows d.cols
  let n := max d.rows d.cols
  let side (bit k o : Nat) : Nat :=
    if d.kfSides.testBit bit then
      (if t0 % d.factEvery = 0 then k * k * o else 0) +
        (if (t0 + d.phase) % d.refresh = 0 then d.kfIter * (if d.kfP4 then 4 else 3) * k * k * k else 0) + k * d.elems
    else 0
  match d.rule with
  | 0x10 => d.nsIter * (2 * q * q * n + q * q * q)
  | 0x11 => side 0 d.rows d.cols + side 1 d.cols d.rows
  | _ => 0

/-! Matrix programs (R409 to R412). -/

/-- An instruction of a matrix program (R410). -/
structure PIns where
  op : Nat
  d : Nat
  a : Nat
  b : Nat
  c : Nat
  ta : Bool
  tb : Bool
  zero : Nat
  imm : W32
  arg : Nat
deriving DecidableEq, Repr

/-- An instruction from its 16 bytes. -/
def PIns.ofBytes (x : List Byte) : PIns :=
  let w := recFld x 0 4 31 0
  { op := fld w 31 24, d := fld w 23 20, a := fld w 19 16, b := fld w 15 12, c := fld w 11 8, ta := w.testBit 7, tb := w.testBit 6,
    zero := fld w 5 0, imm := BitVec.ofNat 32 (recFld x 4 4 31 0), arg := recFld x 8 8 63 0 }

/-- A program goes on, has ended, or has faulted. -/
inductive PState where
  | running | ended | faulted
deriving DecidableEq, Repr

/-- A matrix slot: first word of its space (SPACE * 2^26 words and the offset), rows, columns. -/
structure PSlot where
  word : Nat
  rows : Nat
  cols : Nat
deriving DecidableEq, Repr

/-- A program in execution: words of its spaces, listed where they were given or written, the free value at which its unwritten
words start, slots, scalar registers, events, multiply-adds. -/
structure PSt where
  st : PState
  words : List (Nat × W32)
  free : Nat
  slots : List (Nat × PSlot)
  f : List W32
  evs : Evs
  fma : Nat
deriving DecidableEq, Repr

/-- What a word that nothing has given or written reads as: a free value (R409). -/
def PSt.unwritten (free k : Nat) : W32 := (Config.free (free + k)).setWidth 32

/-- The value of a word. A written word is listed whatever its value. -/
def PSt.word (x : PSt) (k : Nat) : W32 := SMap.get (PSt.unwritten x.free) x.words k

/-- A fault. -/
def PSt.fault (x : PSt) : PSt := { x with st := .faulted }

/-- The slot of a number. -/
def PSt.slot (x : PSt) (n : Nat) : Option PSlot := (x.slots.find? (fun e => e.1 == n)).map Prod.snd

/-- The matrix in a slot. -/
def PSt.mat (x : PSt) (p : PSlot) : Mat := Mat.ofList p.cols ((List.range (p.rows * p.cols)).map (fun i => x.word (p.word + i)))

/-- A computed matrix stored in a slot, its events counted. -/
def PSt.store (x : PSt) (p : PSlot) (m : Cnt Mat) : PSt :=
  let ((v : Mat), e) := m.run x.evs
  { x with evs := e, words := (v.flatten.zip (List.range (p.rows * p.cols))).foldl (fun l y => SMap.put l (p.word + y.2) y.1) x.words }

/-- A computed scalar put into a register, its events counted. -/
def PSt.setF (x : PSt) (n : Nat) (v : Cnt W32) : PSt :=
  let ((r : W32), e) := v.run x.evs
  { x with f := modNth (fun _ => r) x.f n, evs := e }

/-- R411: DEF, against the sizes in bytes of the four spaces. -/
def PSt.define (x : PSt) (i : PIns) (sizes : List Nat) : PSt :=
  let space := fld i.arg 63 62
  let off := fld i.arg 57 32
  let r := fld i.arg 31 16
  let c := fld i.arg 15 0
  if fld i.arg 61 58 ≠ 0 ∨ off % 64 ≠ 0 ∨ r = 0 ∨ c = 0 ∨ nth 0 sizes space < off + 4 * r * c then x.fault
  else { x with slots := (i.d, { word := space * 2 ^ 26 + off / 4, rows := r, cols := c }) :: x.slots.filter (fun e => decide (e.1 ≠ i.d)) }

/-- An element-wise operation of two slots into a third. -/
def PSt.zip (x : PSt) (i : PIns) (f : W32 → W32 → Cnt W32) : PSt :=
  match x.slot i.d, x.slot i.a, x.slot i.b with
  | some d, some a, some b =>
    if a.rows = b.rows ∧ a.cols = b.cols ∧ d.rows = a.rows ∧ d.cols = a.cols then x.store d (zipM' f (x.mat a) (x.mat b)) else x.fault
  | _, _, _ => x.fault

/-- R411: an operation other than LOOP, ENDL and END. -/
def PSt.exec (x : PSt) (sizes : List Nat) (i : PIns) : PSt :=
  let fr (n : Nat) : W32 := nth 0 x.f n
  if i.zero ≠ 0 then x.fault
  else
    match i.op with
    | 1 => x.define i sizes
    | 2 =>
      match x.slot i.d, x.slot i.a, x.slot i.b with
      | some d, some a, some b =>
        let (m, k) := if i.ta then (a.cols, a.rows) else (a.rows, a.cols)
        let (k', n) := if i.tb then (b.cols, b.rows) else (b.rows, b.cols)
        let am := if i.ta then Mat.transpose a.cols (x.mat a) else x.mat a
        let bm := if i.tb then Mat.transpose b.cols (x.mat b) else x.mat b
        if k ≠ k' ∨ d.rows ≠ m ∨ d.cols ≠ n then x.fault
        else
          let x' := { x with fma := x.fma + m * n * k }
          if i.imm = 0 then x'.store d (mulC n am bm)
          else
            match x.slot i.c with
            | some c =>
              if c.rows ≠ m ∨ c.cols ≠ n then x.fault
              else x'.store d (do mulAddC n (← mapM' (fun v => cMul i.imm v) (x.mat c)) am bm)
            | none => x.fault
      | _, _, _ => x.fault
    | 3 => x.zip i (fun a b => cFma (fr i.c) a b)
    | 4 => x.zip i cMul
    | 5 => x.zip i cDiv
    | 6 =>
      let op : Option (W32 → Cnt W32) :=
        match i.c with
        | 0 => some cSqrt
        | 1 => some (fun v => pure (fAbs v))
        | 2 => some (fun v => cDiv one32 v)
        | 3 => some (fun v => pure (fNeg v))
        | _ => none
      match op, x.slot i.d, x.slot i.a with
      | some f, some d, some a => if d.rows = a.rows ∧ d.cols = a.cols then x.store d (mapM' f (x.mat a)) else x.fault
      | _, _, _ => x.fault
    | 7 =>
      match x.slot i.d with
      | some d => if d.rows = d.cols then x.store d (pure (Mat.diag d.rows (fr i.a))) else x.fault
      | none => x.fault
    | 8 =>
      match x.slot i.a with
      | some a => x.setF i.d (norm2 (x.mat a).flatten)
      | none => x.fault
    | 9 =>
      match i.c with
      | 0 => x.setF i.d (cAdd (fr i.a) (fr i.b))
      | 1 => x.setF i.d (cSub (fr i.a) (fr i.b))
      | 2 => x.setF i.d (cMul (fr i.a) (fr i.b))
      | 3 => x.setF i.d (cDiv (fr i.a) (fr i.b))
      | 4 => x.setF i.d (cSqrt (fr i.a))
      | 5 => x.setF i.d (pure (fMin (fr i.a) (fr i.b)))
      | 6 => x.setF i.d (pure (fMax (fr i.a) (fr i.b)))
      | 7 => x.setF i.d (pure i.imm)
      | _ => x.fault
    | _ => x.fault

/-- The body of a loop, its ENDL and what follows; none where the END of the program comes first. -/
def splitLoop : Nat → List PIns → Option (List PIns × PIns × List PIns)
  | _, [] => none
  | d, i :: r =>
    if i.op = 0xB then
      match d with
      | 0 => some ([], i, r)
      | d + 1 => (splitLoop d r).map (fun x => (i :: x.1, x.2))
    else (splitLoop (if i.op = 0xA then d + 1 else d) r).map (fun x => (i :: x.1, x.2))

/-- A sequence of instructions; body runs the body of a loop. An END in a body ends the program in the first round. -/
def runSeq (sizes : List Nat) (body : List PIns → PSt → PSt) : Nat → List PIns → PSt → PSt
  | 0, _, x => x.fault
  | _ + 1, [], x => x
  | n + 1, i :: r, x =>
    if x.st ≠ .running then x
    else
      match i.op with
      | 0xA =>
        if i.zero ≠ 0 ∨ i.imm.toNat = 0 ∨ 1024 < i.imm.toNat then x.fault
        else
          match splitLoop 0 r with
          | none =>
            let y := body r x
            if y.st = .running then y.fault else y
          | some (b, e, rest) =>
            let round (x : PSt) : PSt :=
              let y := body b x
              if y.st = .running ∧ e.zero ≠ 0 then y.fault else y
            runSeq sizes body n rest ((List.range i.imm.toNat).foldl (fun x _ => if x.st = .running then round x else x) x)
      | 0xB => x.fault
      | 0xC => if i.zero ≠ 0 then x.fault else { x with st := .ended }
      | _ => runSeq sizes body n r (x.exec sizes i)

/-- R411: a program with loops nested up to depth. -/
def runProg (sizes : List Nat) : Nat → List PIns → PSt → PSt
  | 0 => runSeq sizes (fun _ x => x.fault) 1025
  | d + 1 => runSeq sizes (runProg sizes d) 1025

/-! An update (R389, R390, R396, R398). -/

/-- What an update needs beside the descriptor: the gradient, the master and the state as bytes, coefficients, program, constants, t0,
the generator, the number of the next free value. -/
structure DenseIn where
  g : List W32
  master : List Byte
  state : List Byte
  coefs : List (W32 × W32 × W32)
  prog : List PIns
  k : RuleConst
  t0 : Nat
  gen : Gen
  free : Nat
deriving DecidableEq, Repr

/-- What an update gives: master, state, events, multiply-adds; ok is false for a program that faults. -/
structure DenseOut where
  ok : Bool
  master : List Byte
  state : List Byte
  evs : Evs
  fma : Nat
deriving DecidableEq, Repr

/-- Elements of a format as FP32. -/
def wordsOfFmt (fmt n : Nat) (b : List Byte) : List W32 := (unpack fmt n b).map (fun q => toW32 (elemVal fmt q))

/-- R396, R398: state items and master rounded in order, state items of another format than SFMT staying FP32. -/
def roundItems (sfmt sround : Nat) : Gen → List (Nat × List W32) → Gen × List (List Byte) × Evs
  | g, [] => (g, [], {})
  | g, (f, xs) :: r =>
    let (g, q, e) := roundRow (toPlain sfmt) f sround g xs
    let (g, l, e') := roundItems sfmt sround g r
    (g, pack f q :: l, e.plus e')

/-- R390 to R398, R409: one update of a layer. -/
def LDesc.update (d : LDesc) (x : DenseIn) : DenseOut :=
  let u := d.rule'
  let offs := itemOffs 0 d.items
  let item (i : Nat) : List W32 :=
    match d.items[i]?, offs.1[i]? with
    | some (n, f), some o => wordsOfFmt f n (x.state.drop o)
    | _, _ => []
  let w := wordsOfFmt d.mfmt d.elems x.master
  let ((g : List W32), e0) := (u.prepare w x.g).run {}
  let ((w : List W32), e0) := (if d.decay = 2 then mapC (fun wi => cFma (fNeg x.k.ewd) wi wi) w else pure w).run e0
  let plain := { u with decay := 0 }
  let close (w : List W32) (items : List (Nat × List W32)) (e : Evs) (fma : Nat) : DenseOut :=
    let (gen, parts, e1) := roundItems d.sfmt d.sround x.gen items
    let (_, qm, e2) := roundRow (toPlain d.mfmt) d.mfmt d.wround gen w
    { ok := true, master := pack d.mfmt qm, state := (parts.zip offs.1).foldl (fun b p => patch b p.2 p.1) x.state, evs := (e.plus e1).plus e2,
      fma := fma }
  match d.rule with
  | 0x10 =>
    let ((r : List W32 × List W32), e) := (d.orthogonal x.k x.coefs w (item 0) g).run e0
    close r.2 [(d.sfmt, r.1)] e (d.fmas x.t0)
  | 0x11 =>
    let side (i n : Nat) : KfSide := { f := Mat.ofList n (item i), q := Mat.ofList n (item (i + 1)) }
    let hasL := d.kfSides.testBit 0
    let hasR := d.kfSides.testBit 1
    let l := if hasL then some (side 1 d.rows) else none
    let r := if hasR then some (side (if hasL then 3 else 1) d.cols) else none
    let ((y : List W32 × List W32 × Option KfSide × Option KfSide), e) := (d.kronecker x.k x.t0 w (item 0) g l r).run e0
    let both (k : Option KfSide) : List (Nat × List W32) := match k with | some k => [(0, k.f.flatten), (0, k.q.flatten)] | none => []
    close y.2.1 ((d.sfmt, y.1) :: (both y.2.2.1 ++ both y.2.2.2)) e (d.fmas x.t0)
  | 0x20 =>
    let put (space : Nat) (l : List W32) : List (Nat × W32) := (l.zip (List.range l.length)).map (fun y => (space * 2 ^ 26 + y.2, y.1))
    let f := [x.k.eta, x.k.ewd, x.k.ib1, x.k.b2, f32u (min x.t0 0xFFFFFFFE + 1)] ++ List.replicate 11 0#32
    let p0 : PSt := { st := .running, words := put 1 (item 0) ++ put 2 w ++ put 3 g, free := x.free, slots := [], f := f, evs := e0, fma := 0 }
    let p := runProg [finReserve - d.workSet, d.pstate, 4 * d.elems, 4 * d.elems] 4 x.prog p0
    if p.st = .ended then
      let get (space n : Nat) : List W32 := (List.range n).map (fun i => p.word (space * 2 ^ 26 + i))
      close (get 2 d.elems) [(0, get 1 (d.pstate / 4))] p.evs p.fma
    else { ok := false, master := x.master, state := x.state, evs := p.evs, fma := p.fma }
  | _ =>
    let v : RowVals := { w := w, s0 := item 0, s1 := item 1 }
    let ((y : RowVals), e) := (plain.apply x.k v g).run e0
    let items := if d.rule = 4 then [(0, y.s0)] else ([y.s0, y.s1].take u.vectors).map (fun l => (d.sfmt, l))
    close y.w items e 0

end Sys2Proof.Machine
end

