-- ==== Sys2Proof/Machine/Barrier.lean ====
section
/-! DEFINITION. The trees of the fabric (R545, R548, R549, R785, R786): the parent of a node, tokens, and how a barrier moves up
and completes at the root. -/

namespace Sys2Proof.Machine

/-- STATE of a port (R519): 0 DISABLED, 1 TRAINING, 2 ACTIVE, 3 RETRAIN, 4 FAULT. -/
def State.portState (s : State) (p : PortId) : Nat := s.rf (.port p) R.PORT_PORT_STATUS 30 28

/-- The route entry of a destination. -/
def State.routeEntry (s : State) (dst : Nat) : Nat := s.tblWord .rt dst

/-- What the partner on a port is called in the trees: its coordinate, or a spare's physical position. -/
def State.partner (s : State) (p : PortId) : Nat :=
  if s.rb (.port p) R.PORT_PORT_STATUS 15 then s.rf (.port p) R.PORT_PORT_STATUS 27 16 else s.rf (.port p) R.PORT_PORT_STATUS 11 0

/-- R548: is this module the root? -/
def State.isRoot (s : State) : Bool :=
  let e := s.routeEntry s.rootCoord
  e.testBit 63 && fld e 62 60 == 6

/-- R548, R785: the parent's port, where there is a parent. -/
def State.parentPort (s : State) : Option PortId :=
  let e := s.routeEntry s.rootCoord
  let p := fld e 62 60
  if e.testBit 63 && decide (p < 6) && s.portState (Fin.ofNat 6 p) == 2 then some (Fin.ofNat 6 p) else none

/-- R548, R785: the parent. -/
def State.parent (s : State) : Option Nat := s.parentPort.map s.partner

/-- R786: TOKENS of this node. -/
def State.tokens (s : State) : Nat := s.children.foldl (fun n c => n + c.2) (if s.isSpare then 0 else 1)

/-- R548: a registration sent to the parent. -/
def State.register (s : State) : State :=
  match s.parent with
  | some p => s.send p 0 (.registration s.tokens)
  | none => s

/-- A barrier that this node works on. -/
def State.bar (s : State) (kind step : Nat) : Bar :=
  (s.bars.find? (fun b => b.kind == kind && b.step.toNat == step)).getD
    { kind := kind, step := BitVec.ofNat 64 step, own := false, word := 0, ups := [], sent := false, complete := false, reported := false }

/-- A barrier of this node changes. -/
def State.setBar (s : State) (b : Bar) : State :=
  { s with bars := s.bars.filter (fun x => !(x.kind == b.kind && x.step == b.step)) ++ [b] }

/-- A barrier of this node is over. -/
def State.dropBar (s : State) (kind step : Nat) : State :=
  { s with bars := s.bars.filter (fun x => !(x.kind == kind && x.step.toNat == step)) }

/-- Down messages to every child (R549). -/
def State.sendDown (s : State) (kind step : Nat) (word : W32) : State :=
  s.children.foldl (fun s c => s.send c.1 0 (.barrierDown (BitVec.ofNat 4 kind) (BitVec.ofNat 64 step) word)) s

/-- R549, R785, R786: a node that holds its own token, or is a spare, and the up messages of all its children with tokens sends up,
or at the root completes the barrier. -/
def State.tryBar (s : State) (kind step : Nat) : State :=
  let b := s.bar kind step
  if b.sent || b.complete || !(b.own || s.isSpare) || !s.children.all (fun c => c.2 == 0 || b.ups.contains c.1) then s
  else if s.isRoot then (s.setBar { b with complete := true }).sendDown kind step b.word
  else
    match s.parent with
    | none => s
    | some p => if s.tokens = 0 then s else (s.setBar { b with sent := true }).send p 0 (.barrierUp (BitVec.ofNat 4 kind) b.step b.word)

/-- Every barrier of this node tried again (R785). -/
def State.tryBars (s : State) : State := s.bars.foldl (fun s b => s.tryBar b.kind b.step.toNat) s

/-- R696: the module is stopped. -/
def State.stopped (s : State) : Bool := s.rb .flt R.FLT_FLT_STATE 1

/-- R549: this module hands over its token of a barrier, with its word; a stopped module sends no token (R696). -/
def State.holdToken (s : State) (kind step : Nat) (word : W32) : State :=
  if s.stopped then s
  else
  let b := s.bar kind step
  (s.setBar { b with own := true, word := b.word ||| word }).tryBar kind step

/-- R550: barrier state of steps r and later is discarded. -/
def State.dropBars (s : State) (r : Nat) : State := { s with bars := s.bars.filter (fun b => decide (b.step.toNat < r)) }

/-- R545: the route entry that a module at own derives for physical position d, positions and sizes as packed coordinates. -/
def routeDerived (own d size : Nat) : Nat :=
  let axis (v a : Nat) : Nat := fld v (4 * a + 3) (4 * a)
  let r := (List.range 3).foldl (fun (acc : Nat × Nat × Nat) a =>
    let p := axis size a + 1
    let up := (axis d a + p - axis own a % p) % p
    if up = 0 then acc
    else
      let dn := p - up
      let (port, dl, hops) := acc
      let (port, dl) :=
        if port = 6 then
          (if up ≤ dn then (2 * a, if axis own a = p - 1 then 1 else 0) else (2 * a + 1, if axis own a = 0 then 1 else 0))
        else (port, dl)
      (port, dl, hops + min up dn)) (6, 0, 0)
  2 ^ 63 + r.1 * 2 ^ 60 + r.2.1 * 2 ^ 59 + r.2.2 * 2 ^ 54

end Sys2Proof.Machine
end

