-- ==== Sys2Proof/Machine/Hrd.lean ====
section
/-! DEFINITION. The HRD: descriptor store (R263 to R268, R798), directory (R293 to R297), Seats and the boundary work of R298 to R304,
staged flips (R309 to R311), statistics (R314, R315). -/

namespace Sys2Proof.Machine

/-- The HRD's own state changes. -/
def State.setHrd (s : State) (f : HrdSt → HrdSt) : State := { s with hrd := f s.hrd }

/-! The descriptor store. -/

/-- R264: the selector of a table. -/
def State.imgSel (s : State) (t : Nat) : Bool := s.rb .hrd (R.HRD_IMG_SEL + 8 * (t / 64)) (t % 64)
/-- The selector of a table changes. -/
def State.setSel (s : State) (t : Nat) (b : Bool) : State := s.wb .hrd (R.HRD_IMG_SEL + 8 * (t / 64)) (t % 64) b

/-- TDESC_BASE. -/
def State.tdescBase (s : State) : Nat := s.rf .hrd R.HRD_TDESC_BASE 63 12 * 4096

/-- R263: the address of an image. -/
def State.imageAddr (s : State) (t : Nat) (img : Bool) : Nat := s.tdescBase + 128 * t + (if img then 64 else 0)

/-- What an image gives (R268): a valid table, an invalid one, or one refused. -/
inductive ImageRes where
  | valid (d : TDesc)
  | invalid
  | bad
deriving DecidableEq, Repr

/-- R268: an image read and checked. -/
def State.readImage (s : State) (t : Nat) (img : Bool) : ImageRes :=
  match s.unitRead (s.imageAddr t img) 64 with
  | .ok b => if recFld b 0x18 4 31 31 = 0 then .invalid else if s.tdescOk b then .valid (TDesc.ofBytes b) else .bad
  | _ => .bad

/-- A table takes the descriptor that its selected image gives (R265, R268). -/
def State.loadDesc (s : State) (t : Nat) : State :=
  let img := s.readImage t (s.imgSel t)
  let s := (State.seen { s with tdescs := s.tdescs.filter (fun e => decide (e.1 ≠ t)) } (s.imageAddr t (s.imgSel t)) 64)
  match img with
  | .valid d => { s with tdescs := s.tdescs ++ [(t, d)] }
  | .invalid => s
  | .bad => s.err .hrd E.HRD_DESC_BAD

/-- Tables whose images are not all zero, or may not read so: only these need checking. -/
def State.imagesListed (s : State) : List Nat :=
  let b := s.tdescBase
  if (List.finRange 32).any (fun st => s.stackFenced st || s.injArmed (.base st) E.BASE_ECC_UE || s.injArmed (.base st) E.BASE_ECC_CE) then List.range 4096
  else
    let cells := (s.mem.filter (fun c => decide (b ≤ c.1) && decide (c.1 < b + 4096 * 128))).map (fun c => (c.1 - b) / 128)
    let errs := (s.memErr.filter (fun e => decide (b ≤ 32 * e.1) && decide (32 * e.1 < b + 4096 * 128))).map (fun e => (32 * e.1 - b) / 128)
    (cells ++ errs).eraseDups

/-- R265, R798: the descriptor store at an enable. The read of an image of zeros only counts (R514). -/
def State.loadDescs (s : State) : State :=
  let s := { s with tdescs := [] }
  if s.rb .mod R.MOD_MEM_LOCK 1 ∧ s.tdescBase + 4096 * 128 ≤ s.hbmTop then
    let ts := s.imagesListed
    (List.range 4096).foldl (fun s t => if ts.contains t then s.loadDesc t else s.countAccess (s.imageAddr t (s.imgSel t)) 64 R.BASE_RD_BYTES) s
  else s.err .hrd E.HRD_DESC_BAD

/-! The directory. -/

/-- A directory entry (R294). -/
structure DirEntry where
  table : Nat
  row : Nat
  ownerY : Nat
  pin : Bool
  state : Nat
  heat : Nat
  seatMap : Nat
  slot : Nat
deriving DecidableEq, Repr

/-- An entry from its two words. -/
def DirEntry.ofWords (a b : Nat) : DirEntry :=
  { table := fld a 63 52, row := fld a 51 12, ownerY := fld a 11 8, pin := a.testBit 3, state := fld a 2 0, heat := fld b 63 48,
    seatMap := fld b 47 40, slot := fld b 21 0 }

/-- The 16 bytes of an entry. -/
def DirEntry.bytes (e : DirEntry) : List Byte :=
  leBytes 8 (e.table * 2 ^ 52 + e.row * 2 ^ 12 + e.ownerY * 256 + b2n e.pin * 8 + e.state) ++
    leBytes 8 (e.heat * 2 ^ 48 + e.seatMap * 2 ^ 40 + e.slot)

/-- R294: the key of an entry. -/
def DirEntry.key (e : DirEntry) : Nat := rowKey e.table e.row

/-- R299: does the entry hold a slot? -/
def DirEntry.slotted (e : DirEntry) : Bool := decide (2 ≤ e.state) && decide (e.state ≤ 4)

/-- The entry at an offset of a physical tile's window. -/
def State.dirAt (s : State) (tile off : Nat) : DirEntry :=
  let b := s.tsramRead tile off 16
  DirEntry.ofWords (ofLe (b.take 8)) (ofLe (b.drop 8))

/-- The entry at an offset changes. -/
def State.setDir (s : State) (tile off : Nat) (e : DirEntry) : State := s.tsramWrite tile off e.bytes

/-- R293: the offset of way w of the set of a key. -/
def dirOff (key w : Nat) : Nat := 0x7A000000 + 128 * (mixN key % 262144) + 16 * w

/-- The offset of the entry of a key on a tile. -/
def State.dirFind (s : State) (tile key : Nat) : Option Nat :=
  ((List.range 8).map (dirOff key)).find? (fun o => let e := s.dirAt tile o; decide (1 ≤ e.state) && decide (e.state ≤ 4) && e.key == key)

/-- The offsets of the valid entries of a tile, in order of set and way. -/
def State.dirList (s : State) (tile : Nat) : List Nat :=
  let lo := tsramCell tile 0x7A000000
  let hi := tsramCell tile 0x7C000000
  let offs := (s.tsram.filter (fun c => decide (lo ≤ c.1) && decide (c.1 < hi))).map (fun c => 0x7A000000 + (c.1 - lo) / 16 * 16)
  (offs.eraseDups).filter (fun o => let e := s.dirAt tile o; decide (1 ≤ e.state) && decide (e.state ≤ 4))

/-- R294: SEAT_MAP of every entry of a key names the tiles whose entry is Seated. -/
def State.syncSeats (s : State) (key : Nat) : State :=
  let at' := (List.range 8).map (fun t => (t, s.dirFind t key))
  let map := at'.foldl (fun m x => match x.2 with | some o => if (s.dirAt x.1 o).state = 3 then m + 2 ^ x.1 else m | none => m) 0
  at'.foldl (fun s x => match x.2 with | some o => s.setDir x.1 o { s.dirAt x.1 o with seatMap := map } | none => s) s

/-- An entry changes with SEAT_MAP following. -/
def State.moveDir (s : State) (tile off : Nat) (e : DirEntry) : State := (s.setDir tile off e).syncSeats e.key

/-- R299: an entry returns to Home, its slot freed. -/
def DirEntry.toHome (e : DirEntry) : DirEntry := { e with state := 1, slot := 0 }

/-- R631: does the module run with its tiles unrotated? -/
def State.unrotated (s : State) : Bool := s.rd .rel R.REL_ROT_MAP == 0x76543210

/-- R297: the way that a new entry of a key takes on a tile. -/
def State.dirVictim (s : State) (tile key : Nat) : Option Nat :=
  let offs := (List.range 8).map (dirOff key)
  match offs.find? (fun o => let e := s.dirAt tile o; e.state == 0 || decide (4 < e.state)) with
  | some o => some o
  | none =>
    let home := offs.filter (fun o => (s.dirAt tile o).state == 1)
    home.foldl (fun (best : Option Nat) o =>
      match best with
      | none => some o
      | some b => if (s.dirAt tile o).heat < (s.dirAt tile b).heat then some o else some b) none

/-- R297: a key inserted in state Home; none where the set has no room. -/
def State.dirInsert (s : State) (tile table row ownerY heat : Nat) : Option (State × Nat) :=
  match s.dirVictim tile (rowKey table row) with
  | none => none
  | some o =>
    let e : DirEntry := { table := table, row := row, ownerY := ownerY, pin := false, state := 1, heat := heat, seatMap := 0, slot := 0 }
    some (s.moveDir tile o e, o)

/-- R297: a miss of a tile. -/
def State.dirMiss (s : State) (tile table row ownerY : Nat) : State :=
  let n := SMap.get (fun _ => 0) s.hrd.misses tile + 1
  let s := s.setHrd (fun h => { h with misses := SMap.set (fun _ => 0) h.misses tile n })
  if n % 2 ^ s.rf .hrd R.HRD_SLIDE_CTL 23 20 ≠ 0 then s
  else
    match s.dirInsert tile table row ownerY 1 with
    | some (s, _) => s
    | none => s.count .hrd R.HRD_INSERT_DROPS 1

/-- R314: a table's counts of this boundary. -/
def State.tally (s : State) (table : Nat) (f : Nat × Nat × Nat → Nat × Nat × Nat) : State :=
  s.setHrd (fun h => { h with counts := SMap.set (fun _ => (0, 0, 0)) h.counts table (f (SMap.get (fun _ => (0, 0, 0)) h.counts table)) })

/-! Seat pools. -/

/-- SEAT_BASE_t, SLOT_64 in bytes, SLOTS. -/
def State.pool (s : State) (tile : Nat) : Nat × Nat × Nat :=
  let c := s.rd .hrd (R.HRD_SEAT_CFG + 16 * tile)
  (s.rf .hrd (R.HRD_SEAT_BASE + 16 * tile) 31 6 * 64, fld c 41 32 * 64, fld c 21 0)

/-- R298: may a pool be used: wholly inside the software area, with a slot size of 1 to 64 units? -/
def State.poolOk (s : State) (tile : Nat) : Bool :=
  let (b, sz, n) := s.pool tile
  n == 0 || (decide (64 ≤ sz) && decide (sz ≤ 4096) && decide (b + sz * n ≤ s.softEnd tile))

/-- The lowest free slot of a tile's pool (R299). -/
def State.freeSlot (s : State) (tile : Nat) : Option Nat :=
  let (_, _, n) := s.pool tile
  if s.hrd.noSeat.contains tile then none
  else
    let used := ((s.dirList tile).map (s.dirAt tile)).filter DirEntry.slotted
    (List.range (min n (used.length + 1))).find? (fun k => !used.any (fun e => e.slot == k))

/-! Staged flips (R309 to R311). -/

/-- QUEUED and HELD follow the flips. -/
def State.flipRegs (s : State) : State :=
  let q := (s.hrd.flips.filter (fun f => !f.taken)).length
  let held := s.hrd.flips.any (fun f => f.taken)
  s.wr .hrd R.HRD_FLIP_CTRL (q * 256 + b2n held * 2)

/-- R61: the internal state of the HRD returns to reset; the module's boundary work (R300) is not the block's alone and stands, and
so do the flips, which R311 has take effect, return and flip again. -/
def State.restartHrd (s : State) : State :=
  (s.setHrd (fun h => { HrdSt.init with boundary := h.boundary, flips := h.flips })).flipRegs

/-- Entries of the directories that hold a slot return to Home where a condition on tile and entry says so. -/
def State.homeWhere (s : State) (f : Nat → DirEntry → Bool) : State :=
  (List.range 8).foldl (fun s t => (s.dirList t).foldl (fun s o =>
    let e := s.dirAt t o
    if e.slotted && f t e then s.moveDir t o { e.toHome with pin := false } else s) s) s

/-- R265, R298, R798: what an enable of the HRD does. A refused pool holds no Seat, nor does a slot beyond a pool; and while a step is open
no slot is known to hold what home holds (R284), so every one is given up (DEDUCED; log entry 211). -/
def State.enableHrd (s : State) : State :=
  let s := s.restartHrd
  let bad := (List.range 8).filter (fun t => !s.poolOk t)
  let s := if bad.isEmpty then s else s.err .hrd E.HRD_SEAT_CFG_BAD
  let all := (s.stepSt s.openStep).isSome
  let s := s.homeWhere (fun t e => all || bad.contains t || decide ((s.pool t).2.2 ≤ e.slot))
  (s.setHrd (fun h => { h with noSeat := bad })).loadDescs

/-- A selector flips: an enabled HRD copies the image that it now names (R265). -/
def State.turnSel (s : State) (t : Nat) : State :=
  let s := s.setSel t (!s.imgSel t)
  if s.enabled .hrd then s.loadDesc t else s

/-- R311: the flips of step n take effect; the entries of their tables go to Home (R299). -/
def State.takeFlips (s : State) (n : Nat) : State :=
  let fs := s.hrd.flips.filter (fun f => !f.taken && f.step.toNat == n)
  let s := fs.foldl (fun s f => (s.turnSel f.table).homeWhere (fun _ e => e.table == f.table)) s
  (s.setHrd (fun h => { h with flips := h.flips.map (fun f => if !f.taken ∧ f.step.toNat = n then { f with taken := true } else f) })).flipRegs

/-- R303, R311: the flips of steps r and later return; entries keep their states. -/
def State.untakeFlips (s : State) (r : Nat) : State :=
  let fs := s.hrd.flips.filter (fun f => f.taken && decide (r ≤ f.step.toNat))
  let s := fs.foldl (fun s f => s.turnSel f.table) s
  (s.setHrd (fun h => { h with flips := h.flips.map (fun f => if r ≤ f.step.toNat then { f with taken := false } else f) })).flipRegs

/-- R311: step n has committed. -/
def State.commitFlips (s : State) (n : Nat) : State :=
  (s.setHrd (fun h => { h with flips := h.flips.filter (fun f => !(f.taken && decide (f.step.toNat ≤ n))) })).flipRegs

/-! The boundary (R299, R300). -/

/-- Are the row transactions of replacements over on every stack? -/
def State.replacesDone (s : State) : Bool := (List.finRange 32).all (fun st => !(s.catchSt st).txns.any (fun t => t.replace))

/-- R299: an entry enters Seating with a slot; SEAT_FULL where no slot is free or the row does not fit. -/
def State.seat (s : State) (tile off : Nat) (pin : Bool) : State × Bool :=
  let e := s.dirAt tile off
  match s.tdesc e.table with
  | none => (s, false)
  | some d =>
    let (_, sz, _) := s.pool tile
    match (if 16 + d.w ≤ sz then s.freeSlot tile else none) with
    | none => (s.count .hrd R.HRD_SEAT_FULL 1, false)
    | some k => ((s.moveDir tile off { e with state := 2, slot := k, pin := pin || e.pin }).count .hrd R.HRD_SEATINGS 1, true)

/-- R299: an entry enters Unseating. -/
def State.unseat (s : State) (tile off : Nat) : State :=
  (s.moveDir tile off { s.dirAt tile off with state := 4 }).count .hrd R.HRD_UNSEATINGS 1

/-- R299: the automatic decisions of a tile; n counts the entries that entered Seating. -/
def State.autoSlide (s : State) (tile : Nat) : Nat → List Nat → State
  | _, [] => s
  | n, o :: r =>
    let e := s.dirAt tile o
    let c := s.rd .hrd R.HRD_SLIDE_CTL
    if e.state = 1 ∧ fld c 63 48 ≤ e.heat ∧ n < fld c 15 0 then
      let (s, ok) := s.seat tile o false
      s.autoSlide tile (if ok then n + 1 else n) r
    else if e.state = 3 ∧ e.heat < fld c 47 32 ∧ !e.pin then (s.unseat tile o).autoSlide tile n r
    else s.autoSlide tile n r

/-- R299: a SLIDE_CMD on one tile. -/
def State.slideOn (s : State) (q : SlideReq) (tile : Nat) : State :=
  let key := rowKey q.table q.row
  match q.op, s.dirFind tile key with
  | 1, some o =>
    if (s.dirAt tile o).state = 1 then (s.seat tile o true).1 else s
  | 1, none =>
    match s.tdesc q.table with
    | none => s
    | some d =>
      match s.dirInsert tile q.table q.row (d.owner s.ny q.row).1 0 with
      | some (s, o) => (s.seat tile o true).1
      | none => s.count .hrd R.HRD_INSERT_DROPS 1
  | 2, some o =>
    let e := s.dirAt tile o
    if e.state = 2 ∨ e.state = 3 then
      let s := s.unseat tile o
      s.setDir tile o { s.dirAt tile o with pin := false }
    else s
  | 3, some o => s.setDir tile o { s.dirAt tile o with pin := false }
  | _, _ => s

/-- A queued SLIDE_CMD on the tiles it names. -/
def State.slide (s : State) (q : SlideReq) : State :=
  (List.range 8).foldl (fun s t => if q.tiles.testBit t then s.slideOn q t else s) s

/-- R315: the bucket of a HEAT. -/
def heatBucket (h : Nat) : Nat := Nat.log2 h

/-- R300, action 7: HEAT decays on every valid entry. -/
def State.decay (s : State) : State :=
  let sh := s.rf .hrd R.HRD_SLIDE_CTL 27 24
  (List.range 8).foldl (fun s t => (s.dirList t).foldl (fun s o =>
    let e := s.dirAt t o
    s.setDir t o { e with heat := e.heat - e.heat / 2 ^ sh }) s) s

/-- R314: a table's statistics record; false where its address is unmapped. One that cannot be read stays as it is. -/
def State.writeStats (s : State) (base table heat seats : Nat) : State × Bool :=
  let a := base + 32 * table
  let (l, h, r) := SMap.get (fun _ => (0, 0, 0)) s.hrd.counts table
  match s.readUnit a 32 with
  | (.ok b, s) =>
    let f (k v : Nat) : List Byte := leBytes 8 (recFld b (8 * k) 8 63 0 + v)
    match s.unitWrite a (f 0 l ++ f 1 h ++ f 2 r ++ leBytes 4 (seats % 65536 + heat * 65536) ++ (b.drop 28)) with
    | some s => (s, true)
    | none => (s, false)
  | (.poison, s) => (s, true)
  | (.error, s) => (s, false)

/-- R300, action 7: Slide decisions, decay, histogram and statistics. -/
def State.boundarySlide (s : State) : State :=
  let heats := (List.range 8).flatMap (fun t => (s.dirList t).map (fun o => ((s.dirAt t o).table, (s.dirAt t o).heat)))
  let s := if s.rb .hrd R.HRD_SLIDE_CTL 31 then (List.range 8).foldl (fun s t => s.autoSlide t 0 (s.dirList t)) s else s
  let s := s.hrd.slides.foldl (fun s q => s.slide q) s
  let s := (s.setHrd (fun h => { h with slides := [] })).decay
  let s := (List.range 16).foldl (fun s b =>
    s.wr .hrd (R.HRD_HEAT_HIST + 8 * b) (heats.filter (fun e => heatBucket e.2 == b)).length) s
  let base := s.rf .hrd R.HRD_STATS_BASE 63 6 * 64
  let s :=
    if base = 0 then s
    else
      let seated := (List.range 8).flatMap (fun t => ((s.dirList t).map (s.dirAt t)).filter (fun e => e.state == 3))
      let r := (List.range 4096).foldl (fun (acc : State × Bool) t =>
        let heat := (heats.filter (fun e => e.1 == t)).foldl (fun m e => max m e.2) 0
        let n := min (seated.filter (fun e => e.table == t)).length 0xFFFF
        let (s, ok) := acc.1.writeStats base t heat n
        (s, acc.2 && ok)) (s, true)
      if r.2 then r.1 else r.1.err .hrd E.HRD_STATS_WRITE
  s.setHrd (fun h => { h with counts := [] })

/-- R300, actions 7 and 8, once no slot is left to refresh. -/
def State.endBoundary (s : State) (b : Boundary) : State :=
  let s := if s.unrotated then s.boundarySlide else s
  (s.setHrd (fun h => { h with boundary := some { b with phase := .done, refresh := [] } })).holdToken 2 b.step 0

/-- R300, actions 4 to 6: the work of the module, its HRD enabled or not (DEDUCED; log entry 212). The directories stand as they are in a
rotated run (R632). -/
def State.startRefresh (s : State) (b : Boundary) : State :=
  if s.unrotated then
    let s := (List.range 8).foldl (fun s t => (s.dirList t).foldl (fun s o =>
      let e := s.dirAt t o
      if e.state = 4 then s.moveDir t o e.toHome else s) s) s
    let todo := (List.range 8).flatMap (fun t =>
      ((s.dirList t).filter (fun o => let e := s.dirAt t o; e.state == 2 || e.state == 3)).map (fun o => (t, o)))
    let b := { b with phase := .refreshing, refresh := todo }
    if todo.isEmpty then s.endBoundary b else s.setHrd (fun h => { h with boundary := some b })
  else s.endBoundary { b with phase := .refreshing }

/-- R300: action 2 is over: the base dies are ready (R357), flips of the next step take effect and the refreshes start. -/
def State.advanceBoundary (s : State) : State :=
  match s.hrd.boundary with
  | some b =>
    if b.phase = .replacing ∧ s.replacesDone then (s.takeFlips (b.step + 1)).startRefresh b else s
  | none => s

/-- R300: the boundary after step n begins with action 2. -/
def State.startBoundary (s : State) (n : Nat) : State :=
  let s := (List.finRange 32).foldl (fun s st => s.startReplaces st n) s
  (s.setHrd (fun h => { h with boundary := some { step := n, phase := .replacing, refresh := [] } })).advanceBoundary

/-- R304, R638: actions 4 to 9 of the boundary after step n, before step n + 1 opens again or for the first time. -/
def State.repeatBoundary (s : State) (n : Nat) : State :=
  (s.takeFlips (n + 1)).startRefresh { step := n, phase := .refreshing, refresh := [] }

/-- R303: Seating and Unseating entries return to Home when steps roll back; the boundary's reads of other modules are forgotten. -/
def State.rollbackDir (s : State) : State :=
  let s := { s with remoteReads := s.remoteReads.filter (fun r => r.seat.isNone) }
  (List.range 8).foldl (fun s t => (s.dirList t).foldl (fun s o =>
    let e := s.dirAt t o
    if e.state = 2 ∨ e.state = 4 then s.moveDir t o e.toHome else s) s) s

/-! Commands. -/

/-- The gather engine of a tile that does its Seat refreshes: the first in service. -/
def State.refreshEngine (s : State) (tile : Nat) : Option GatherId :=
  ((List.range 4).map (fun e => (Fin.ofNat 32 (4 * tile + e) : GatherId))).find? s.gatherInService

/-- R302: a slot filled, or its entry returned to Home. -/
def State.fillSlot (s : State) (tile off : Nat) (row : Option (List Byte)) : State :=
  let e := s.dirAt tile off
  match row, s.tdesc e.table with
  | some b, some d =>
    let (base, sz, _) := s.pool tile
    let bs := b.take (16 + d.w)
    let s := s.tsramWrite tile (base + e.slot * sz) (bs ++ List.replicate (sz - bs.length) 0#8)
    let s := if e.state = 2 then s.moveDir tile off { e with state := 3 } else s
    let s := s.count .hrd R.HRD_REFRESH_ROWS 1
    match s.refreshEngine tile with | some g => s.count (.gather g) R.GATHER_REFRESH_ROWS 1 | none => s
  | _, _ => (s.err .hrd E.HRD_REFRESH_FAIL).moveDir tile off e.toHome

/-- A slot of the boundary in progress is done. -/
def State.slotDone (s : State) (x : Nat × Nat) : State :=
  match s.hrd.boundary with
  | none => s
  | some b =>
    let b := { b with refresh := b.refresh.erase x }
    if b.refresh.isEmpty then s.endBoundary b else s.setHrd (fun h => { h with boundary := some b })

/-- R61, R64, R302: the refreshes of a boundary are abandoned with their HRD; each fails, and so does the step that the boundary closes. -/
def State.dropRefreshes (s : State) : State :=
  match s.hrd.boundary with
  | some b =>
    if b.phase = .refreshing then
      let s := { s with remoteReads := s.remoteReads.filter (fun r => r.seat.isNone) }
      (b.refresh.foldl (fun s x => (s.fillSlot x.1 x.2 none).slotDone x) s).failStep b.step
    else s
  | none => s

/-- R285, R302, R317: a read of home by a tile counts as near or far. -/
def State.countHome (s : State) (tile addr : Nat) : State :=
  s.count .hrd (if (s.stackOfAddr addr).val / 4 = tile then R.HRD_HOME_NEAR else R.HRD_HOME_FAR) 1

/-- The tag of a gather request: the number of the message; bit 31, of a NOSTEP command's, the selector of its image; bit 30, a read for a
Seat (DESIGN CHOICE; log entries 209 and 210). -/
def gatherTag (n : BitVec 16) (sel seat : Bool) : W32 := BitVec.ofNat 32 (n.toNat + b2n sel * 2 ^ 31 + b2n seat * 2 ^ 30)

/-- R300, action 6: the read of a slot whose owner is another module, at y. -/
def State.askSeat (s : State) (t y : Nat) (x : Nat × Nat) (e : DirEntry) (d : TDesc) (step : Nat) : State :=
  let n := s.nextTag
  let tag := gatherTag n false true
  let g := match s.refreshEngine t with | some g => g.val | none => 4 * t
  let s := s.send (s.ownX + 16 * y) n.toNat (.gatherReq (BitVec.ofNat 12 e.table) 0 (BitVec.ofNat 13 g) tag (BitVec.ofNat 64 (step + 1)) [BitVec.ofNat 64 e.row])
  let rd : RemoteRead :=
    { tag := tag, engine := g, train := 0, stage := 0, table := e.table, form := 0, rows := [(e.row, 0, 0)], slotBytes := alignUp (16 + d.w) 64,
      ring := 0, entry := 0, replace := false, seat := some x }
  ({ s with nextTag := n + 1, remoteReads := s.remoteReads ++ [rd] }).count .hrd R.HRD_HOME_REMOTE 1

/-- The slots of a tile that a boundary has still to refresh and that wait for no answer. -/
def State.toRefresh (s : State) (t : Nat) (b : Boundary) : List (Nat × Nat) :=
  b.refresh.filter (fun x => x.1 == t && !s.remoteReads.any (fun r => r.seat == some x))

/-- SEAT_REFRESH (R300, R302): a slot of a tile is refreshed from its home. No rule orders the slots: k is the place of the slot among those
that are due (DESIGN CHOICE; log entry 111). The owner of a row may be another module: it is asked, and serves the read once it has reached
its action 4. -/
def State.refreshNext (s : State) (t k : Nat) : State :=
  match s.hrd.boundary with
  | none => s
  | some b =>
    match (s.toRefresh t b)[k]? with
    | none => s
    | some x =>
      let e := s.dirAt t x.2
      match s.tdesc e.table with
      | none => (s.fillSlot t x.2 none).slotDone x
      | some d =>
        let (y, l) := d.owner s.ny e.row
        if y = s.ownY ∧ s.ownZ = 0 then
          match s.homeRead (.refresh t x.2) d e.table e.row (d.addr l) with
          | (.wait, s) => s
          | (.ok bs, s) => ((s.countHome t (d.addr l)).fillSlot t x.2 (some bs)).slotDone x
          | (_, s) => ((s.countHome t (d.addr l)).fillSlot t x.2 none).slotDone x
        else s.askSeat t y x e d b.step

/-- SEAT_REFRESH. -/
def execSeatRefresh (t : TileId) (k : Nat) (s : State) : Out := s.live (s.refreshNext t.val k)

/-- R300, R302: the answer for a slot of another owner, or none where the read failed. -/
def State.seatAnswer (s : State) (x : Nat × Nat) (row : Option (List Byte)) : State :=
  if (match s.hrd.boundary with | some b => b.refresh.contains x | none => false) then (s.fillSlot x.1 x.2 row).slotDone x else s

/-- A write of SLIDE_CMD (R58, R299, R316). -/
def State.slideCmd (s : State) (v : Nat) : State :=
  if !s.expert .hrd then s.ctlAccess .hrd
  else if !s.enabled .hrd then s.err .hrd E.WORK_REFUSED
  else if 1024 ≤ s.hrd.slides.length then s.err .hrd E.HRD_SLIDE_CMD_OVF
  else
    let k := s.rd .hrd R.HRD_SLIDE_KEY
    s.setHrd (fun h => { h with slides := h.slides ++ [{ table := fld k 51 40, row := fld k 39 0, tiles := fld v 15 8, op := fld v 1 0 }] })

/-- SLIDE_CMD. -/
def execSlideCmd (v : W32) (s : State) : Out := s.live (s.slideCmd v.toNat)

/-- R310: has action 3 of the boundary before step n begun? -/
def State.flipLate (s : State) (n : Nat) : Bool :=
  s.opened n ||
    (match s.hrd.boundary with | some b => decide (n ≤ b.step + 1) && b.phase != .replacing | none => false)

/-- A write of FLIP_CTRL.ARM (R309, R310). -/
def State.armFlip (s : State) : State :=
  if !s.expert .hrd then s.ctlAccess .hrd
  else if !s.enabled .hrd then s.err .hrd E.WORK_REFUSED
  else
    let t := s.rf .hrd R.HRD_FLIP_TABLE 11 0
    let n := s.rd .hrd R.HRD_FLIP_STEP
    let img := s.readImage t (!s.imgSel t)
    let s := s.seen (s.imageAddr t (!s.imgSel t)) 64
    match img with
    | .bad => (s.err .hrd E.HRD_FLIP_BAD).err .hrd E.HRD_DESC_BAD
    | _ =>
      if s.flipLate n then s.err .hrd E.HRD_FLIP_LATE
      else if 64 ≤ (s.hrd.flips.filter (fun f => !f.taken)).length then s.err .hrd E.HRD_FLIP_FULL
      else (s.setHrd (fun h => { h with flips := h.flips ++ [{ table := t, step := BitVec.ofNat 64 n, taken := false }] })).flipRegs

/-- ARM. -/
def execFlipArm (s : State) : Out := s.live s.armFlip

end Sys2Proof.Machine
end

