-- ==== Sys2Proof/Machine/CatchCmds.lean ====
section
/-! DEFINITION. The commands of the Catch units and of the atomic adders (R321 to R369). A transaction that ends may end action 2 of
the boundary (R300). -/

namespace Sys2Proof.Machine

/-- CATCH_UPDATE_REQUEST (R321 to R324): the Catch unit of a stack takes the oldest request handed to it. -/
def execCatchUpdateRequest (st : StackId) (s : State) : Out :=
  s.live (
    match (s.catchSt st).inbox with
    | [] => s
    | u :: r => (s.setCatch st { s.catchSt st with inbox := r }).takeRequest st u)

/-- ROW_LOCK_GRANT (R342, R350 to R352): the first waiting request of a stack that can be granted is: a transaction, while fewer than MAX_TXN
are in flight, goes on; a reader holds the lock until its command comes. -/
def execRowLockGrant (st : StackId) (s : State) : Out :=
  s.live (
    let x := s.catchSt st
    let ls := s.locks st
    match nextLock (decide ((x.txns.filter (fun t => decide (t.phase ≠ .lock))).length < s.maxTxn st)) ls [] ls with
    | none => s
    | some l =>
      let x := { x with locks := ls.map (fun m => if m = l then { m with granted := true } else m) }
      s.setCatch st { x with txns := x.txns.map (fun t => if l.who = .txn t.id ∧ t.phase = .lock then { t with phase := .read } else t) })

/-- CATCH_ROW_READ. -/
def execCatchRowRead (st : StackId) (s : State) : Out :=
  s.liveIn (.base st) (match (s.catchSt st).firstIn .read with | none => s | some t => (s.rowRead st t).advanceBoundary)

/-- JOURNAL_ROOM (R356): the first transaction that waits for journal room takes it. -/
def execJournalRoom (st : StackId) (s : State) : Out :=
  s.liveIn (.base st) (match (s.catchSt st).firstIn .room with | none => s | some t => (s.issueRecord st t).advanceBoundary)

/-- JOURNAL_RECORD_ACK (R344 to R346): the oldest record is acknowledged and its row is written. -/
def execJournalRecordAck (st : StackId) (s : State) : Out :=
  s.liveIn (.base st) (match (s.catchSt st).oldestRecord with | none => s | some t => s.writeRow st t)

/-- CATCH_WRITE_ACK (R342, R348, R349): the oldest row writes end. -/
def execCatchWriteAck (st : StackId) (o : WriteEnd) (s : State) : Out :=
  s.liveIn (.base st) (State.advanceBoundary (
    match (s.catchSt st).firstIn .write with
    | none => s
    | some t =>
      match o with
      | .acked => s.commitTxn st t
      | .failed =>
        let s := ((s.hbmStore t.addr t.old).count (.base st) R.BASE_ROWS_RESTORED 1).dropTxn st t
        (s.errAt (.base st) E.BASE_CATCH_TEAR t.addr).suspect.failStep t.step.toNat
      | .restoreFailed =>
        let (v, s) := s.fresh
        let torn := t.prefix (v.toNat % (t.d.stride + 1))
        let s := (s.hbmStore t.addr torn).moveRd st t.table t.row t.old torn
        let s := (s.poisonRow st t.table t.row t.addr t.d.bytes).dropTxn st t
        let s := (s.errAt (.base st) E.BASE_CATCH_TEAR t.addr).suspect.failStep t.step.toNat
        s.errAt (.base st) E.BASE_RESTORE_FAIL t.addr))

/-- ATOMIC (R367 to R369): the old value is the answer. A dirty line of the host region is recalled first (R573). -/
def execAtomic (a : Addr) (op : AtomOp) (ty : AtomTy) (x cmp : W64) (dirty : Option (Addr × List Byte)) (s : State) : Out :=
  s.liveIn (s.islandOf a.toNat) (
    let (s, r) := (s.recall dirty).atomic a.toNat op ty x cmp
    { s with lastResp := r })


end Sys2Proof.Machine
end

