-- ==== Sys2Proof/Machine/Gather.lean ====
section
/-! DEFINITION. Gather engines (R276 to R292, R295 to R297, R305, R306, R799): gather commands, lookups, ring entries, remote rows and
replacements. -/

namespace Sys2Proof.Machine

/-! Gather commands (R277, R281). -/

/-- A gather command. -/
structure GCmd where
  idAddr : Nat
  nIds : Nat
  op : Nat
  table : Nat
  form : Nat
  cont : Bool
  homeOnly : Bool
  outSlot : Nat
  src : Nat
  rpe : Nat
deriving DecidableEq, Repr

/-- A command from its 32 bytes. -/
def GCmd.ofBytes (b : List Byte) : GCmd :=
  let w := recFld b 0xC 4 31 0
  { idAddr := recFld b 0 8 63 0, nIds := recFld b 8 4 31 0, op := fld w 31 28, table := fld w 27 16, form := fld w 15 14, cont := w.testBit 13,
    homeOnly := w.testBit 12, outSlot := fld w 11 10, src := recFld b 0x10 8 63 0, rpe := recFld b 0x18 4 15 0 }

/-- R276, R281: does a byte range lie wholly in HBM below HBM_TOP or wholly in the tile's SRAM window? -/
def State.inTileMem (s : State) (t : TileId) (a n : Nat) : Bool :=
  let w := windowBase (s.logTile t.val)
  decide (a + n ≤ s.hbmTop) || (decide (w ≤ a) && decide (a + n ≤ w + 0x80000000))

/-- R280: the slot of a form: its bytes, and with FORM 2 the SCALE entry beside it. -/
def slotSize (d : TDesc) (form : Nat) : Nat :=
  match form with
  | 0 => alignUp (16 + d.w) 64
  | 3 => alignUp d.bytes 64
  | _ => alignUp d.w 64

/-- R280: the bytes of a row in a slot, from the row or from the header and weights of a Seat. -/
def slotOfRow (d : TDesc) (form : Nat) (row : List Byte) : List Byte :=
  let b := match form with
    | 0 => row.take (16 + d.w)
    | 3 => row.take d.bytes
    | _ => (row.drop 16).take d.w
  b ++ List.replicate (slotSize d form - b.length) 0#8

/-- R281: the checks that need no descriptor. -/
def State.gcmdOk (s : State) (t : TileId) (outRings : List Nat) (b : List Byte) : Bool :=
  let c := GCmd.ofBytes b
  recFld b 0xC 4 9 0 == 0 && recFld b 0x18 4 31 16 == 0 && recFld b 0x1C 4 31 0 == 0 && decide (1 ≤ c.op) && decide (c.op ≤ 3) &&
    c.idAddr % 8 == 0 && s.inTileMem t c.idAddr (8 * c.nIds) && decide (1 ≤ c.nIds) && decide (c.nIds ≤ 1048576) &&
    (c.op == 2 || c.src == 0) && (c.op == 2 || (decide (1 ≤ c.rpe) && nth 0xFF outRings c.outSlot != 0xFF)) &&
    (c.op != 3 || c.form == 3) && (c.op != 2 || c.form == 0)

/-- R281: the checks against the descriptor: the form, the images of a REPLACE. -/
def State.gcmdFits (s : State) (t : TileId) (c : GCmd) (d : TDesc) : Bool :=
  (c.form != 1 || !(d.wfmt == 3 || d.wfmt == 4 || d.wfmt == 11)) && (c.op != 2 || s.inTileMem t c.src (c.nIds * d.bytes))

/-- R281: do RPE slots and their scales fit the ring's entries? -/
def GCmd.inEntry (c : GCmd) (d : TDesc) (entryBytes : Nat) : Bool :=
  decide (c.rpe * slotSize d c.form + (if c.form = 2 then 2 * c.rpe else 0) ≤ entryBytes)

/-! Reading one row. -/

/-- What the read of one ID gives: a row, or the header and weights of a Seat; a null slot; a row of a remote owner; the row's lock
is held; an error of R286. -/
inductive RowRes where
  | row (b : List Byte)
  | null
  | remote (y : Nat)
  | wait
  | fail (bitNo : Nat)
deriving DecidableEq, Repr

/-- The bit of the GATHER page for a home read that fails (R286). -/
def homeBit : HomeRes → Nat
  | .torn => E.GATHER_ROW_TORN
  | .poison => E.GATHER_ROW_POISON
  | .check => E.GATHER_ROW_CHECK
  | _ => E.GATHER_ROW_UE

/-- R284, R285: a row read from home by a tile, near and far reads counted. -/
def State.gatherHome (s : State) (w : LockWho) (tile : Nat) (d : TDesc) (table row : Nat) : RowRes × State :=
  let (y, l) := d.owner s.ny row
  if y = s.ownY ∧ s.ownZ = 0 then
    match s.homeRead w d table row (d.addr l) with
    | (.wait, s) => (.wait, s)
    | (.ok b, s) => (.row b, s.countHome tile (d.addr l))
    | (r, s) => (.fail (homeBit r), s.countHome tile (d.addr l))
  else (.remote y, s.count .hrd R.HRD_HOME_REMOTE 1)

/-- R295, R298: the entry whose Seat serves a lookup of a tile. -/
def State.seatOf (s : State) (tile table id form : Nat) (dir : Bool) : Option DirEntry :=
  if dir && decide (form < 3) && !s.hrd.noSeat.contains tile then
    ((s.dirFind tile (rowKey table id)).map (s.dirAt tile)).filter (fun e => e.state == 3)
  else none

/-- R295, R297, R314: what a lookup does to counts and directory, whatever its read then finds. -/
def State.lookedUp (s : State) (tile table id ownerY : Nat) : State :=
  let s := (s.count .hrd R.HRD_LOOKUPS 1).tally table (fun x => (x.1 + 1, x.2.1, x.2.2))
  match s.dirFind tile (rowKey table id) with
  | some o => let e := s.dirAt tile o; s.setDir tile o { e with heat := min (e.heat + 1) 0xFFFF }
  | none => s.dirMiss tile table id ownerY

/-- R295: the header and weights of a Seat. -/
def State.seatRead (s : State) (tile table : Nat) (d : TDesc) (e : DirEntry) : RowRes × State :=
  let (base, sz, _) := s.pool tile
  let a := base + e.slot * sz
  let bad := s.tsramBad tile a (16 + d.w)
  let s := s.tsramSeen tile a (16 + d.w)
  if bad then (.fail E.GATHER_ROW_UE, s)
  else (.row (s.tsramRead tile a (16 + d.w)), (s.count .hrd R.HRD_SEAT_HITS 1).tally table (fun x => (x.1, x.2.1 + 1, x.2.2)))

/-- R295, R296, R297, R632: one ID of a command. dir says whether the lookup uses the directory. -/
def State.gatherRow (s : State) (w : LockWho) (tile : Nat) (d : TDesc) (c : GCmd) (dir : Bool) (id : Nat) : RowRes × State :=
  if id.testBit 63 then (.null, s.count .hrd R.HRD_NULL_IDS 1)
  else if d.rows ≤ id then (.fail E.GATHER_ID_RANGE, s)
  else if !dir then s.gatherHome w tile d c.table id
  else
    let y := (d.owner s.ny id).1
    match s.seatOf tile c.table id c.form dir with
    | some e => (s.lookedUp tile c.table id y).seatRead tile c.table d e
    | none =>
      match s.gatherHome w tile d c.table id with
      | (.wait, s) => (.wait, s)
      | (.remote y, s) => (.remote y, (s.lookedUp tile c.table id y).tally c.table (fun x => (x.1, x.2.1, x.2.2 + 1)))
      | (r, s) => (r, s.lookedUp tile c.table id y)

/-! Stage access. -/

/-- The carry of a stage changes. -/
def State.setCarry (s : State) (t : TileId) (uid stage : Nat) (c : GatherCarry) : State :=
  s.modTrain t uid (fun tr => tr.modStage stage (fun g => { g with carry := some c }))

/-- A stage of an engine fails with a bit of its GATHER page (R115, R319). -/
def State.gatherFail (s : State) (t : TileId) (uid stage : Nat) (g : GatherId) (bitNo : Nat) : State :=
  (s.err (.gather g) bitNo).failStage t uid stage

/-- Outstanding remote rows of an engine. -/
def State.outstanding (s : State) (g : GatherId) : Nat :=
  (s.remoteReads.filter (fun r => r.engine == g.val && !r.replace && r.seat.isNone)).foldl (fun n r => n + r.rows.length) 0

/-- Does a remote read serve a stage of a train of a tile? -/
def RemoteRead.of (t : TileId) (uid stage : Nat) (r : RemoteRead) : Bool :=
  r.seat.isNone && r.engine / 4 == t.val && r.train == uid && r.stage == stage

/-- Does a remote read of the stage name an entry? -/
def State.entryWaits (s : State) (t : TileId) (uid stage ring entry : Nat) : Bool :=
  s.remoteReads.any (fun r => r.of t uid stage && !r.replace && r.ring == ring && r.entry == entry)

/-- Entries filled and no longer waited for are published, and a stage with nothing left is complete. -/
def State.settleStage (s : State) (t : TileId) (uid stage : Nat) : State :=
  match ((s.cox t).train uid).bind (fun tr => (tr.stages[stage]?).bind (fun g => g.carry.map (fun c => (g, c)))) with
  | none => s
  | some (g, c) =>
    let ready := c.closed.filter (fun x => !s.entryWaits t uid stage x.1 x.2)
    let s := ready.foldl (fun s x => s.modTrain t uid (fun tr => tr.modRing x.1 (fun r => r.publish x.2))) s
    let c := { c with closed := c.closed.filter (fun x => s.entryWaits t uid stage x.1 x.2) }
    let s := s.setCarry t uid stage c
    if g.desc.items ≤ g.nextItem ∧ c.closed.isEmpty ∧ c.entry.isNone ∧ !s.remoteReads.any (RemoteRead.of t uid stage) then
      s.modTrain t uid (fun tr => tr.modStage stage (fun g => { g with doneItems := g.desc.items, done := true }))
    else s

/-! Filling one ring entry. -/

/-- The progress of a fill: IDs done, slots filled, remote rows met as (owner y, row, slot), stopped by a lock or a limit, failed. -/
structure Fill where
  pos : Nat
  slot : Nat
  remote : List (Nat × Nat × Nat)
  stop : Bool
  fail : Option Nat
deriving DecidableEq, Repr

/-- R280: a row written into its slot of an entry at offset off of the tile's SRAM. -/
def State.putSlot (s : State) (tile off : Nat) (d : TDesc) (c : GCmd) (slot : Nat) (row : Option (List Byte)) : State :=
  let sz := slotSize d c.form
  let bs := match row with | some b => slotOfRow d c.form b | none => List.replicate sz 0#8
  let s := s.tsramWrite tile (off + slot * sz) bs
  if c.form = 2 then s.tsramWrite tile (off + c.rpe * sz + 2 * slot) (match row with | some b => (b.drop 14).take 2 | none => [0#8, 0#8]) else s

/-- The slots of IDs in order, until the entry is full, a lock is held, the remote limit is reached or a row fails. -/
def State.fillIds (s : State) (g : GatherId) (w : LockWho) (tile off : Nat) (d : TDesc) (c : GCmd) (dir : Bool) (room : Nat) :
    Fill → List Nat → Fill × State
  | f, [] => (f, s)
  | f, id :: r =>
    if c.rpe ≤ f.slot then (f, s)
    else
      let seat := (s.seatOf tile c.table id c.form dir).isSome
      match s.gatherRow w tile d c dir id with
      | (.row b, s) =>
        let s := if seat then s.count (.gather g) R.GATHER_SEAT_ROWS 1 else s
        (s.putSlot tile off d c f.slot (some b)).fillIds g w tile off d c dir room { f with pos := f.pos + 1, slot := f.slot + 1 } r
      | (.null, s) => (s.putSlot tile off d c f.slot none).fillIds g w tile off d c dir room { f with pos := f.pos + 1, slot := f.slot + 1 } r
      | (.remote y, s') =>
        if room ≤ f.remote.length then ({ f with stop := true }, s)
        else s'.fillIds g w tile off d c dir room { f with pos := f.pos + 1, slot := f.slot + 1, remote := f.remote ++ [(y, id, f.slot)] } r
      | (.wait, s) => ({ f with stop := true }, s)
      | (.fail b, s) => ({ f with fail := some b }, s)

/-- The step of a train as messages carry it (R289). -/
def Train.stepWord (tr : Train) : W64 := if tr.noStep then BitVec.allOnes 64 else tr.step

/-- R289, R313: the requests for the remote rows of a fill, batched per owner, up to 28 per request. One of a NOSTEP train names the image. -/
def State.askRemote (s : State) (g : GatherId) (tr : Train) (stage : Nat) (sel : Bool) (d : TDesc) (c : GCmd) (off ring entry : Nat)
    (rows : List (Nat × Nat × Nat)) : State :=
  let sz := slotSize d c.form
  let owners := (rows.map Prod.fst).eraseDups
  owners.foldl (fun s y =>
    (chunks 28 (rows.filter (fun x => x.1 == y))).foldl (fun s batch =>
      let n := s.nextTag
      let tag := gatherTag n (tr.noStep && sel) false
      let s := s.send (s.ownX + 16 * y) n.toNat
        (.gatherReq (BitVec.ofNat 12 c.table) (BitVec.ofNat 2 c.form) (BitVec.ofNat 13 g.val) tag tr.stepWord (batch.map (fun x => BitVec.ofNat 64 x.2.1)))
      let rd : RemoteRead :=
        { tag := tag, engine := g.val, train := tr.uid, stage := stage, table := c.table, form := c.form,
          rows := batch.map (fun x => (x.2.1, off + x.2.2 * sz, off + c.rpe * sz + 2 * x.2.2)), slotBytes := sz, ring := ring, entry := entry,
          replace := false, seat := none }
      ({ s with nextTag := n + 1, remoteReads := s.remoteReads ++ [rd] }).count (.gather g) R.GATHER_REMOTE_ROWS batch.length) s) s

/-- The bytes of gather command number n of a stage. -/
def State.gcmdBytes (s : State) (g : StageRun) (n : Nat) : RdRes := s.unitRead (g.desc.prog.toNat + 32 * n) 32

/-- R282: is there a CONT successor that goes on with the entry of the current command? -/
def State.contNext (s : State) (g : StageRun) (ring : Nat) : Bool :=
  decide (g.nextItem + 1 < g.desc.items) &&
    (match s.gcmdBytes g (g.nextItem + 1) with
     | .ok b => (GCmd.ofBytes b).cont && (GCmd.ofBytes b).op != 2 && nth 0xFF g.desc.outRings (GCmd.ofBytes b).outSlot == ring
     | _ => false)

/-- The IDs of a command from number pos on, at most n; none where one cannot be read. -/
def State.readIds (s : State) (c : GCmd) (pos n : Nat) : Option (List Nat) × State :=
  let k := min n (c.nIds - pos)
  if k = 0 then (some [], s)
  else
    match s.readUnit (c.idAddr + 8 * pos) (8 * k) with
    | (.ok b, s) => (some (words64 b), s)
    | (_, s) => (none, s)

/-- R277 to R284, R287: the next ring entry of a GATHER or EXPORT command. -/
def State.runEntry (s : State) (t : TileId) (tr : Train) (stage : Nat) (g : StageRun) (e : GatherId) (c : GCmd) (d : TDesc) (k : GatherCarry) : State :=
  let ringNo := nth 0xFF g.desc.outRings c.outSlot
  match tr.rings[ringNo]? with
  | none => s.gatherFail t tr.uid stage e E.GATHER_CMD_BAD
  | some ring =>
    if !c.inEntry d ring.desc.entryBytes then (s.err (.gather e) E.GATHER_RING_FULL_FORM).gatherFail t tr.uid stage e E.GATHER_CMD_BAD
    else
      let held : Option (Nat × State) :=
        match k.entry with
        | some n => some (n, s)
        | none => (ring.reserve).map (fun x => (x.1, s.modTrain t tr.uid (fun tr => tr.modRing ringNo (fun _ => x.2))))
      match held with
      | none => s
      | some (n, s) =>
        match s.readIds c k.pos (c.rpe - k.filled) with
        | (none, s) => s.failStage t tr.uid stage
        | (some ids, s) =>
          let off := ring.entryOff n
          let dir := !tr.noStep && !c.homeOnly && c.op == 1 && s.unrotated
          let room := max 1 (s.rf (.gather e) R.GATHER_GATHER_CFG 23 16) - s.outstanding e
          let (f, s) := s.fillIds e (.stage t.val tr.uid stage) t.val off d c dir room { pos := k.pos, slot := k.filled, remote := [], stop := false, fail := none } ids
          let s := s.askRemote e tr stage k.sel d c off ringNo n f.remote
          let made := f.slot - k.filled - f.remote.length
          let per := slotSize d c.form + (if c.form = 2 then 2 else 0)
          let s := (s.count (.gather e) R.GATHER_ROWS_DELIVERED made).count (.gather e) R.GATHER_BYTES_DELIVERED (made * per)
          match f.fail with
          | some b => s.gatherFail t tr.uid stage e b
          | none =>
            let past := decide (c.nIds ≤ f.pos)
            let cont := past && s.contNext g ringNo
            let full := decide (c.rpe ≤ f.slot)
            let close := full || (past && !cont)
            let empty := if close then c.rpe - f.slot else 0
            let s := (List.range empty).foldl (fun s i => s.putSlot t.val off d c (f.slot + i) none) s
            let s := (s.count (.gather e) R.GATHER_ROWS_DELIVERED empty).count (.gather e) R.GATHER_BYTES_DELIVERED (empty * per)
            let k : GatherCarry := { k with pos := if past then 0 else f.pos, ring := ringNo, entry := if close then none else some n,
                                            filled := if close then 0 else f.slot, closed := if close then k.closed ++ [(ringNo, n)] else k.closed,
                                            desc := if past then none else some d }
            let s := s.setCarry t tr.uid stage k
            let s := if past then s.modTrain t tr.uid (fun tr => tr.modStage stage (fun g => { g with nextItem := g.nextItem + 1 })) else s
            s.settleStage t tr.uid stage

/-! Replacement (R305, R306). -/

/-- How the sending of replacement images stops: no image is left or one must wait, or the stage fails, with a bit of the GATHER page or
without. -/
inductive Sending where
  | on
  | fail (bitNo : Option Nat)
deriving DecidableEq, Repr

/-- R305: replacement images sent in ID order: accepted here, or sent to their owners; stops where the journal has no room. -/
def State.sendImages (s : State) (e : GatherId) (t : TileId) (tr : Train) (stage : Nat) (c : GCmd) (d : TDesc) : Nat → List Nat → Nat × Sending × State
  | pos, [] => (pos, .on, s)
  | pos, id :: r =>
    if id.testBit 63 then (s.count .hrd R.HRD_NULL_IDS 1).sendImages e t tr stage c d (pos + 1) r
    else if d.rows ≤ id then (pos, .fail (some E.GATHER_ID_RANGE), s)
    else
      match s.readUnit (c.src + pos * d.bytes) d.bytes with
      | (.ok image, s) =>
        let (y, l) := d.owner s.ny id
        if y = s.ownY ∧ s.ownZ = 0 then
          match s.acceptReplace tr.step.toNat d c.table id (d.addr l) image s.ownY (s.logTile t.val) with
          | .wait s => (pos, .on, s)
          | .refused s => (pos, .fail none, s)
          | .done s => (s.count (.gather e) R.GATHER_REPLACE_ROWS 1).sendImages e t tr stage c d (pos + 1) r
        else
          let n := s.nextTag
          let tag := gatherTag n false false
          let s := s.send (s.ownX + 16 * y) n.toNat
            (.replaceReq (BitVec.ofNat 12 c.table) (BitVec.ofNat 64 id) tr.step (Fin.ofNat 8 (s.logTile t.val)) tag image)
          let rd : RemoteRead :=
            { tag := tag, engine := e.val, train := tr.uid, stage := stage, table := c.table, form := 0, rows := [(id, 0, 0)],
              slotBytes := 0, ring := 0, entry := 0, replace := true, seat := none }
          (({ s with nextTag := n + 1, remoteReads := s.remoteReads ++ [rd] }).count (.gather e) R.GATHER_REPLACE_ROWS 1).sendImages e t tr stage c d (pos + 1) r
      | (_, s) => (pos, .fail none, s)

/-- R305, R306: a REPLACE command goes on. A step that has not opened here is waited for. -/
def State.runReplace (s : State) (t : TileId) (tr : Train) (stage : Nat) (e : GatherId) (c : GCmd) (d : TDesc) (k : GatherCarry) : State :=
  if tr.noStep then s.gatherFail t tr.uid stage e E.GATHER_REPLACE_REFUSED
  else if s.openNow ≠ some tr.step.toNat then s
  else
    match s.readIds c k.pos c.nIds with
    | (none, s) => s.failStage t tr.uid stage
    | (some ids, s) =>
      match s.sendImages e t tr stage c d k.pos ids with
      | (_, .fail none, s) => s.failStage t tr.uid stage
      | (_, .fail (some b), s) => s.gatherFail t tr.uid stage e b
      | (pos, .on, s) =>
        let past := decide (c.nIds ≤ pos)
        let s := s.setCarry t tr.uid stage { k with pos := if past then 0 else pos, desc := if past then none else some d }
        let s := if past then s.modTrain t tr.uid (fun tr => tr.modStage stage (fun g => { g with nextItem := g.nextItem + 1 })) else s
        s.settleStage t tr.uid stage

/-! Rows for other modules. -/

/-- R291: the engine that serves a request for a row in a stack: one in service of the stack's tile, else of the lowest tile that has
one. -/
def State.servingEngine (s : State) (st : StackId) : Option GatherId :=
  match s.refreshEngine (st.val / 4) with
  | some g => some g
  | none => (List.range 8).findSome? s.refreshEngine

/-- R291, R300: may a request be served now? One of a NOSTEP train always; one for step s once the boundary work before s is done and s is
open here, or, for a Seat, once action 4 of that boundary has begun. -/
def State.mayServe (s : State) (step : W64) (tag : W32) : Bool :=
  step == BitVec.allOnes 64 || s.opened step.toNat ||
    (tag.getLsbD 30 && (match s.hrd.boundary with | some b => b.step + 1 == step.toNat && b.phase != .replacing | none => false))

/-- R313: the descriptor that serves a request: of a NOSTEP train, by the image that its tag names. -/
def State.servingDesc (s : State) (table : Nat) (step : W64) (tag : W32) : Option TDesc :=
  if !s.enabled .hrd then none
  else if step == BitVec.allOnes 64 && tag.getLsbD 31 != s.imgSel table then
    (match s.readImage table (tag.getLsbD 31) with | .valid d => some d | _ => none)
  else s.tdesc table

/-- The stack of the first row of a request. -/
def State.requestStack (s : State) (d : Option TDesc) (ids : List W64) : StackId :=
  match d, ids with
  | some d, id :: _ => s.stackOfAddr (d.addr (d.owner s.ny id.toNat).2)
  | _, _ => stackOf 0

/-- Does a reader wait in the row-lock table of a stack? -/
def State.lockWaits (s : State) (w : LockWho) : Bool :=
  (List.finRange 32).any (fun st => (s.catchSt st).locks.any (fun l => l.who == w && !l.granted))

/-- R291: does a request of another module that can be served now wait for engine e? One that waits for a row's lock does not hold it up. -/
def State.remoteFirst (s : State) (e : GatherId) : Bool :=
  s.arrived.any (fun m =>
    match m.body with
    | .gatherReq table _ _ tag step ids =>
      s.mayServe step tag && !s.lockWaits (.remote m.src m.tag) && s.servingEngine (s.requestStack (s.servingDesc table.toNat step tag) ids) == some e
    | _ => false)

/-! The commands of a gather stage. -/

/-- May engine e run the current command of a stage (R283, R799)? -/
def StageRun.engineFits (g : StageRun) (e : GatherId) (cont : Bool) : Bool :=
  g.cores.contains (e.val % 4) &&
    (match g.carry with | some k => (!cont && k.pos == 0) || k.engine == e.val | none => true)

/-- R61, R799: may engine e go on with a stage: it is in service, or it shuts down and completes a command, or a run of commands joined by
CONT, that it has begun? -/
def State.engineRuns (s : State) (e : GatherId) (g : StageRun) : Bool :=
  s.gatherInService e ||
    (s.rb (.gather e) R.SH_STATUS 1 && !s.rb (.gather e) R.SH_STATUS 5 &&
      (match g.carry with | some k => k.engine == e.val && (k.desc.isSome || k.entry.isSome) | none => false))

/-- The current command of a gather stage goes on at engine e, where its OP is one that the row serves. Requests of other modules come
first (R291). -/
def State.runGather (s : State) (e : GatherId) (k : Fin 4) (stage : Nat) (serves : Nat → Bool) : State :=
  let t : TileId := Fin.ofNat 8 (e.val / 4)
  match (s.cox t).running k.val with
  | none => s
  | some tr =>
    match tr.stages[stage]? with
    | none => s
    | some g =>
      if g.desc.engine ≠ 1 ∨ !g.started ∨ g.done ∨ tr.failed.isSome ∨ g.desc.items ≤ g.nextItem ∨ !s.engineRuns e g ∨ s.remoteFirst e then s
      else if g.desc.prog.toNat % 32 ≠ 0 ∨ !s.inTileMem t g.desc.prog.toNat (32 * g.desc.items) then s.gatherFail t tr.uid stage e E.GATHER_CMD_BAD
      else
        let old : GatherCarry := g.carry.getD { engine := e.val, desc := none, sel := false, pos := 0, ring := 0, entry := none, filled := 0, closed := [] }
        -- a command is read once, as it begins
        let seen := fun (s : State) => if old.desc.isNone then s.seen (g.desc.prog.toNat + 32 * g.nextItem) 32 else s
        match s.gcmdBytes g g.nextItem with
        | .ok b =>
          let c := GCmd.ofBytes b
          if !serves c.op ∨ !g.engineFits e c.cont then s
          else
            let s := seen s
            if !s.gcmdOk t g.desc.outRings b then
              (if s.enabled .hrd then s else s.err (.gather e) E.GATHER_TABLE_INVALID).gatherFail t tr.uid stage e E.GATHER_CMD_BAD
            else
              let d? := if !s.enabled .hrd then none else match old.desc with | some d => some d | none => s.tdesc c.table
              match d? with
              | none => s.gatherFail t tr.uid stage e E.GATHER_TABLE_INVALID
              | some d =>
                if !s.gcmdFits t c d then s.gatherFail t tr.uid stage e E.GATHER_CMD_BAD
                else
                  let k := { old with engine := e.val, sel := if old.desc.isSome then old.sel else s.imgSel c.table }
                  if c.op = 2 then s.runReplace t tr stage e c d k else s.runEntry t tr stage g e c d k
        | _ => (seen s).failStage t tr.uid stage

/-- GATHER (R276 to R297): the next ring entry of the current command, an OP 1 command or one with a reserved OP. -/
def execGather (g : GatherId) (k : Fin 4) (stage : Fin 16) (s : State) : Out := s.liveIn (.tile (tileOf (g.val / 4))) (s.runGather g k stage.val (fun op => op != 2 && op != 3))

/-- EXPORT (R287): the next ring entry of an OP 3 command, every row read from home. -/
def execExportRows (g : GatherId) (k : Fin 4) (stage : Fin 16) (s : State) : Out := s.liveIn (.tile (tileOf (g.val / 4))) (s.runGather g k stage.val (fun op => op == 3))

/-- REPLACE (R305, R306): the row images of an OP 2 command are sent to their owners. -/
def execReplace (g : GatherId) (k : Fin 4) (stage : Fin 16) (s : State) : Out := s.liveIn (.tile (tileOf (g.val / 4))) (s.runGather g k stage.val (fun op => op == 2))

/-! Remote rows (R290 to R292). -/

/-- A message that the router delivered is taken by its unit. -/
def State.taken (s : State) (m : Msg) : State := { s with arrived := s.arrived.erase m }

/-- R290: the status byte of a home read. -/
def homeStatus : HomeRes → Byte
  | .torn => 3
  | .poison => 4
  | .check => 5
  | _ => 6

/-- R290: the rows of a request, each with its status and slot; none where a lock is held, and the state in which it is waited for. -/
def State.serveRows (s : State) (w : LockWho) (d : Option TDesc) (table form : Nat) (s0 : State) :
    List W64 → List (Byte × List Byte) → Option (List (Byte × List Byte)) × State
  | [], acc => (some acc, s)
  | id :: r, acc =>
    match d with
    | none => s.serveRows w d table form s0 r (acc ++ [(2#8, [])])
    | some x =>
      let a := x.addr (x.owner s.ny id.toNat).2
      if x.rows ≤ id.toNat then s.serveRows w d table form s0 r (acc ++ [(1#8, [])])
      else
        match s.homeRead w x table id.toNat a with
        | (.wait, _) => (none, (s0.lockShared (s0.stackOfAddr a) a w).2)
        | (.ok b, s) => s.serveRows w d table form s0 r (acc ++ [(0#8, slotOfRow x form b ++ (if form = 2 then (b.drop 14).take 2 else []))])
        | (h, s) => s.serveRows w d table form s0 r (acc ++ [(homeStatus h, [])])

/-- R307: does a replacement from the same tile of the same module stand before a message? -/
def olderImage (m : Msg) (tile : TileId) : List Msg → Bool
  | [] => false
  | x :: l => if x = m then false else (match x.body with | .replaceReq _ _ _ t _ _ => x.src == m.src && t == tile | _ => false) || olderImage m tile l

/-- R290, R291: a gather request, or a replacement (R305, R306), arrives at the owner. With no engine in service the request is refused
(R63) by a response without rows. -/
def State.remoteGather (s : State) (m : Msg) : State :=
  match m.body with
  | .gatherReq table form _ tag step ids =>
    if !s.mayServe step tag then s
    else
      let d := s.servingDesc table.toNat step tag
      match s.servingEngine (s.requestStack d ids) with
      | none =>
        let g : GatherId := Fin.ofNat 32 ((s.requestStack d ids).val / 4 * 4)
        ((s.taken m).err (.gather g) E.WORK_REFUSED).send m.src.toNat m.tag.toNat (.gatherResp tag [])
      | some g =>
        match s.serveRows (.remote m.src m.tag) d table.toNat form.toNat s ids [] with
        | (none, s) => s
        | (some rows, s) =>
          let s := (s.taken m).count (.gather g) R.GATHER_REMOTE_SERVED (rows.filter (fun x => x.1 == 0#8)).length
          s.send m.src.toNat m.tag.toNat (.gatherResp tag rows)
  | .replaceReq table row step tile tag image =>
    let refuse := fun (s : State) => (s.taken m).send m.src.toNat m.tag.toNat (.replaceResp tag false)
    match s.tdesc table.toNat with
    | none => refuse s
    | some d =>
      if !s.opened step.toNat || olderImage m tile s.arrived then s
      else if s.openNow ≠ some step.toNat then refuse s
      else
        match s.acceptReplace step.toNat d table.toNat row.toNat (d.addr (d.owner s.ny row.toNat).2) image (fld m.src.toNat 7 4) tile.val with
        | .wait s => s
        | .refused s => refuse s
        | .done s => (s.taken m).send m.src.toNat m.tag.toNat (.replaceResp tag true)
  | _ => s

/-- REMOTE_GATHER_REQUEST. -/
def execRemoteGatherRequest (m : Msg) (s : State) : Out := s.live (if s.arrived.contains m then s.remoteGather m else s)

/-- R290: the bit of a status byte. -/
def statusBit (st : Byte) : Nat :=
  match st.toNat with
  | 1 => E.GATHER_ID_RANGE
  | 2 => E.GATHER_TABLE_INVALID
  | 3 => E.GATHER_ROW_TORN
  | 4 => E.GATHER_ROW_POISON
  | 5 => E.GATHER_ROW_CHECK
  | 6 => E.GATHER_ROW_UE
  | _ => E.GATHER_REMOTE_ERR

/-- R628: the IN terms of a slot. -/
def slotTerms (table row : Nat) (bs : List Byte) : W64 :=
  let a := mix64 (BitVec.ofNat 64 (rowKey table row))
  let ws := words64 bs
  (ws.zip (List.range ws.length)).foldl (fun acc w => acc + wordTerm (a ^^^ BitVec.ofNat 64 w.2) (BitVec.ofNat 64 w.1)) 0

/-- R289, R290, R320, R628: the slots of a response delivered. -/
def State.deliver (s : State) (rd : RemoteRead) (rows : List (Byte × List Byte)) : State :=
  let tile := rd.engine / 4
  let step := (((s.cox (tileOf tile)).train rd.train).bind (fun tr => if tr.noStep then none else some tr.step.toNat))
  let e : GatherId := Fin.ofNat 32 rd.engine
  (rd.rows.zip rows).foldl (fun s x =>
    let ((row, slot, scale), (_, bs)) := x
    let s := (s.count (.gather e) R.GATHER_ROWS_DELIVERED 1).count (.gather e) R.GATHER_BYTES_DELIVERED bs.length
    let s := s.tsramWrite tile slot (bs.take rd.slotBytes)
    let s := if rd.form = 2 then s.tsramWrite tile scale (bs.drop rd.slotBytes) else s
    match step with
    | some n => s.addIn n (slotTerms rd.table row (bs.take rd.slotBytes))
    | none => s) s

/-- R290: the rows of a response that a stage waits for: delivered; or each status sets its bit, and the stage fails. -/
def State.rowsArrive (s : State) (rd : RemoteRead) (rows : List (Byte × List Byte)) : State :=
  let t := tileOf (rd.engine / 4)
  let e : GatherId := Fin.ofNat 32 rd.engine
  let want := rd.slotBytes + (if rd.form = 2 then 2 else 0)
  let bad := decide (rows.length ≠ rd.rows.length) || rows.any (fun x => x.1 == 0#8 && x.2.length != want)
  let bits := ((rows.filter (fun x => x.1 != 0#8)).map (fun x => statusBit x.1) ++ (if bad then [E.GATHER_REMOTE_ERR] else [])).eraseDups
  if bits.isEmpty then (s.deliver rd rows).settleStage t rd.train rd.stage
  else (bits.foldl (fun s b => s.err (.gather e) b) s).failStage t rd.train rd.stage

/-- R302: the answer for a Seat: header and weights, or a failed read. -/
def seatRow (rd : RemoteRead) (rows : List (Byte × List Byte)) : Option (List Byte) :=
  match rows with
  | [(st, bs)] => if st = 0 ∧ bs.length = rd.slotBytes then some bs else none
  | _ => none

/-- REMOTE_GATHER_RESPONSE (R290, R302, R306). A response that no read waits for is dropped. -/
def State.remoteResponse (s : State) (m : Msg) : State :=
  let s := s.taken m
  match m.body with
  | .gatherResp tag rows =>
    match s.remoteReads.find? (fun r => r.tag == tag && !r.replace) with
    | none => s
    | some rd =>
      let s := { s with remoteReads := s.remoteReads.erase rd }
      match rd.seat with
      | some x => s.seatAnswer x (seatRow rd rows)
      | none =>
        match (s.cox (tileOf (rd.engine / 4))).train rd.train with
        | none => s
        | some tr => if tr.failed.isSome then s else s.rowsArrive rd rows
  | .replaceResp tag ok =>
    match s.remoteReads.find? (fun r => r.tag == tag && r.replace) with
    | none => s
    | some rd =>
      let s := { s with remoteReads := s.remoteReads.erase rd }
      let t := tileOf (rd.engine / 4)
      if ok then s.settleStage t rd.train rd.stage else s.gatherFail t rd.train rd.stage (Fin.ofNat 32 rd.engine) E.GATHER_REMOTE_ERR
  | _ => s

/-- REMOTE_GATHER_RESPONSE. -/
def execRemoteGatherResponse (m : Msg) (s : State) : Out := s.live (if s.arrived.contains m then s.remoteResponse m else s)

/-- REMOTE_TIMEOUT (R292): the oldest remote request of an engine has gone unanswered for REMOTE_TIMEOUT_US. -/
def execRemoteTimeout (g : GatherId) (s : State) : Out :=
  s.live (
    if s.rf (.gather g) R.GATHER_GATHER_CFG 15 0 = 0 then s
    else
      match s.remoteReads.find? (fun r => r.engine == g.val && !r.replace) with
      | none => s
      | some rd =>
        let s := { s with remoteReads := s.remoteReads.erase rd }
        match rd.seat with
        | some x => (s.err (.gather g) E.GATHER_REMOTE_TIMEOUT).seatAnswer x none
        | none => s.gatherFail (tileOf (g.val / 4)) rd.train rd.stage g E.GATHER_REMOTE_TIMEOUT)

end Sys2Proof.Machine
end

