-- ==== Sys2Proof/Machine/Finish.lean ====
section
/-! DEFINITION. The Finish stage and the dense journal (R385 to R388, R399 to R408, R415, R416). -/

namespace Sys2Proof.Machine

/-! Layers. -/

/-- LDESC_BASE. -/
def State.ldescBase (s : State) (t : TileId) : Nat := s.rf (.fin t) R.FIN_LDESC_BASE 63 7 * 128

/-- R380: the bytes of descriptor n as tile t's FIN block reads them. -/
def State.ldescBytes (s : State) (t : TileId) (n : Nat) : Option (List Byte) :=
  match s.unitRead (s.ldescBase t + 128 * n) 128 with
  | .ok b => some b
  | _ => none

/-- R380, R381: descriptor n where an update of the layer may run. -/
def State.layer (s : State) (t : TileId) (n : Nat) : Option LDesc :=
  match s.ldescBytes t n with
  | some b => if s.ldescOk (s.expert (.fin t)) b then some (LDesc.ofBytes b) else none
  | none => none

/-- R415: the layers that exist and that logical tile l updates, as tile t's FIN block reads them. -/
def State.layersOf (s : State) (t : TileId) : List (Nat × LDesc) :=
  let b := s.ldescBase t
  let ns := ((s.mem.filter (fun c => decide (b ≤ c.1) && decide (c.1 < b + 4096 * 128))).map (fun c => (c.1 - b) / 128)).eraseDups
  ns.filterMap (fun n => match s.ldescBytes t n with
    | some x =>
      let d := LDesc.ofBytes x
      if d.valid && s.ldescShape x && d.updTile == s.logTile t.val then some (n, d) else none
    | none => none)

/-- R642: the DF term of a layer. -/
def layerTerm (layerId : Nat) (bytes : List Byte) : W64 :=
  mix64 (mix64 (BitVec.ofNat 64 layerId) ^^^ BitVec.ofNat 64 (crc64 bytes))

/-- R399: the copies of a layer written from its master; the events of the conversions. -/
def State.writeCopies (s : State) (d : LDesc) (master : List Byte) : State × Evs :=
  let w := wordsOfFmt d.mfmt d.elems master
  let (_, q, e) := roundRow (toPlain d.cfmt) d.cfmt 0 0 w
  let rows := chunks d.cols q
  let tiles := (List.range 8).filter (fun t => d.copyMap.testBit t)
  let s := tiles.foldl (fun s t =>
    (rows.zip (List.range d.rows)).foldl (fun s r => s.tsramWrite (s.physTile t) (d.copyOff + r.2 * d.cstride) (pack d.cfmt r.1)) s) s
  (s, tiles.foldl (fun a _ => a.plus e) {})

/-! The dense journal (R402 to R404). -/

/-- Bytes of a dense journal in use. -/
def FinSt.used (x : FinSt) : Nat := x.journal.foldl (fun n r => n + r.len) 0

/-- R402: the header and payload of a record. -/
def DRec.bytes (r : DRec) (payload : List Byte) : List Byte :=
  let tail := leBytes 8 r.step.toNat ++ leBytes 8 (r.layerId * 2 ^ 32 + r.layer) ++ leBytes 8 r.master ++ payload ++
    List.replicate (r.len - 32 - payload.length) 0#8
  leBytes 4 (crc32c tail) ++ leBytes 4 (r.kind * 2 ^ 24 + r.len / 32) ++ tail

/-- A record put into the ring, written to HBM; none without room. -/
def State.djPut (s : State) (t : TileId) (r : DRec) (payload : List Byte) : Option State :=
  let x := s.fin t
  let pad := if x.pos + r.len ≤ x.size then 0 else x.size - x.pos
  if x.size < x.used + pad + r.len then none
  else
    let padding : DRec := { kind := 4, step := r.step, layerId := 0, layer := 0, master := 0, masterLen := 0, stateAddr := 0, stateLen := 0,
                            pos := x.pos, len := pad, acked := true }
    let p := if pad = 0 then x.pos else 0
    let r := { r with pos := p }
    let s := if pad = 0 then s else s.hbmStore (x.base + x.pos) (padding.bytes [])
    let s := s.hbmStore (x.base + p) (r.bytes payload)
    let x := { x with journal := x.journal ++ (if pad = 0 then [] else [padding]) ++ [r], pos := (p + r.len) % x.size }
    let s := (s.setFin t x).count (.fin t) R.FIN_DJ_BYTES (pad + r.len)
    some (s.wr (.fin t) R.FIN_DJ_USED x.used)

/-- R403: every record of step n or lower is freed. -/
def State.djCommit (s : State) (t : TileId) (n : Nat) : State :=
  let x := { s.fin t with journal := (s.fin t).journal.filter (fun r => decide (n < r.step.toNat)) }
  ((s.setFin t x).wr (.fin t) R.FIN_DJ_USED x.used).wr (.fin t) R.FIN_COMMITTED_STEP n

/-- R403, R404: the KIND 3 record of the close of step n; without room the step has exceeded the journal. -/
def State.djClose (s : State) (t : TileId) (n : Nat) : State :=
  match s.djPut t { kind := 3, step := BitVec.ofNat 64 n, layerId := 0, layer := 0, master := 0, masterLen := 0, stateAddr := 0, stateLen := 0,
                    pos := 0, len := 32, acked := true } [] with
  | some s => s
  | none => (s.err (.fin t) E.FIN_DJ_OVF).failStep n

/-- R389: what a step opening samples in a FIN block. -/
def State.sampleFin (s : State) (t : TileId) : State :=
  s.setFin t { s.fin t with origin := BitVec.ofNat 64 (s.rd (.fin t) R.FIN_LR_ORIGIN),
                            lrc := (s.tbl (.lrcFin t)).bank (s.tbl (.lrcFin t)).active, noted := [], ovf := none }

/-- R416: what an enable of a FIN block samples. A write position that the new ring does not have returns to its start. -/
def State.enableFin (s : State) (t : TileId) : State :=
  let size := max 1 (min 4096 (s.rf (.fin t) R.FIN_DJ_CFG 15 0)) * 0x100000
  let x := s.fin t
  s.setFin t { x with base := s.rf (.fin t) R.FIN_DJ_BASE 63 6 * 64, size := size, pos := if x.pos < size then x.pos else 0, job := none, noted := [],
                      refreshing := false, ovf := none }

/-! An update. -/

/-- R385: the layer indices of a stage. -/
def State.finList (s : State) (g : StageRun) : Option (List Nat) :=
  match s.unitRead g.desc.prog.toNat (4 * g.desc.items) with
  | .ok b => some ((List.range g.desc.items).map (fun i => recFld b (4 * i) 4 31 0))
  | _ => none

/-- R392: the coefficients of a layer. -/
def State.nsCoefs (s : State) (d : LDesc) : Option (List (W32 × W32 × W32)) :=
  if d.rule ≠ 0x10 then some []
  else if d.coefAddr = 0 then some (List.replicate d.nsIter nsDefault)
  else
    match s.unitRead d.coefAddr (12 * d.nsIter) with
    | .ok b =>
      let f (i : Nat) : W32 := BitVec.ofNat 32 (recFld b (4 * i) 4 31 0)
      some ((List.range d.nsIter).map (fun i => (f (3 * i), f (3 * i + 1), f (3 * i + 2))))
    | _ => none

/-- R410, R412: the instructions of a program up to its END, at most 1,024. -/
def State.readProg (s : State) (a : Nat) : Nat → Option (List PIns)
  | 0 => some []
  | n + 1 =>
    match s.unitRead a 16 with
    | .ok b => if (PIns.ofBytes b).op = 0xC then some [PIns.ofBytes b] else (s.readProg (a + 16) n).map (fun l => PIns.ofBytes b :: l)
    | _ => none

/-- The instructions that the reading of a program fetches. -/
def State.progFetches (s : State) (a : Nat) : Nat → Nat
  | 0 => 0
  | n + 1 =>
    match s.unitRead a 16 with
    | .ok b => if (PIns.ofBytes b).op = 0xC then 1 else s.progFetches (a + 16) n + 1
    | _ => 1

/-- What reading each of some byte ranges does. -/
def State.seenAll (s : State) (l : List (Nat × Nat)) : State := l.foldl (fun s r => if r.2 = 0 then s else s.seen r.1 r.2) s

/-- R389: t0 and the constants of a layer for a step. -/
def State.layerConsts (s : State) (t : TileId) (d : LDesc) (step : Nat) : RuleConst × Nat :=
  let x := s.fin t
  let o := x.origin.toNat
  (d.rule'.consts (lrAt ((List.range 256).map (sampledWord (.lrcFin t) x.lrc)) step o) step o, if step < o then 0 else step - o)

/-- The bytes that an update reads; none where one read is poisoned or fails. -/
def State.layerIn (s : State) (t : TileId) (d : LDesc) (step gradAddr : Nat) : Option DenseIn :=
  match s.unitRead gradAddr (4 * d.elems), s.unitRead d.master d.masterLen, (if d.stateLen = 0 then .ok [] else s.unitRead d.state d.stateLen),
        s.nsCoefs d, (if d.rule = 0x20 then s.readProg d.progAddr 1024 else some []) with
  | .ok g, .ok m, .ok st, some coefs, some prog =>
    let (k, t0) := s.layerConsts t d step
    some { g := wordsOfFmt 0 d.elems g, master := m, state := st, coefs := coefs, prog := prog, k := k, t0 := t0,
           gen := genSeed (s.seedsOf (BitVec.ofNat 64 step)).1 (BitVec.ofNat 64 step) 4 (s.coord - s.ownX) (BitVec.ofNat 64 d.layerId) 0,
           free := s.freeCtr }
  | _, _, _, _, _ => none

/-- The byte ranges that an update reads. -/
def State.layerReads (s : State) (d : LDesc) (gradAddr : Nat) : List (Nat × Nat) :=
  [(gradAddr, 4 * d.elems), (d.master, d.masterLen), (d.state, d.stateLen)] ++
    (if d.rule = 0x10 ∧ d.coefAddr ≠ 0 then [(d.coefAddr, 12 * d.nsIter)] else []) ++
    (if d.rule = 0x20 then [(d.progAddr, 16 * s.progFetches d.progAddr 1024)] else [])

/-- A Finish stage fails with a bit of its FIN page (R387). -/
def State.finFail (s : State) (t : TileId) (uid stage bitNo : Nat) : State := (s.err (.fin t) bitNo).failStage t uid stage

/-- The notice's entry is released, the update counted as done; the stage is complete after its last (R388). -/
def State.noticeDone (s : State) (t : TileId) (uid stage ring entry : Nat) : State :=
  let s := s.modTrain t uid (fun tr => tr.modRing ring (fun r => r.release stage entry))
  let s := s.modTrain t uid (fun tr => tr.modStage stage (fun g => { g with doneItems := g.doneItems + 1 }))
  match ((s.cox t).train uid).bind (fun tr => tr.stages[stage]?) with
  | some g => if g.desc.items ≤ g.doneItems then s.finishStage t uid stage else s
  | none => s

/-- R401, R404: the pre-image record of the update in progress is issued, waits for room, or exceeds the journal: then the step's remaining
updates are abandoned. -/
def State.finRecord (s : State) (t : TileId) (j : FinJob) : State :=
  let d := LDesc.ofBytes j.desc
  let payload := j.oldMaster ++ j.oldState
  let r : DRec := { kind := 1, step := j.step, layerId := d.layerId, layer := j.layer, master := d.master, masterLen := j.oldMaster.length,
                    stateAddr := d.state, stateLen := j.oldState.length, pos := 0, len := 32 + alignUp payload.length 32, acked := false }
  match s.djPut t r payload with
  | some s' =>
    let before := match (s'.fin t).journal.getLast? with | some r => s.hbmRead ((s.fin t).base + r.pos) r.len | none => []
    s'.setFin t { s'.fin t with job := some { j with recorded := true, before := before } }
  | none =>
    if (s.fin t).journal.any (fun r => decide (r.step.toNat < s.openStep)) then
      (if (s.fin t).job = some j then s else (s.err (.fin t) E.FIN_DJ_STALL).setFin t { s.fin t with job := some j })
    else
      ((s.setFin t { s.fin t with job := none, ovf := some j.step }).finFail t j.train j.stage E.FIN_DJ_OVF).failStep j.step.toNat

/-- R219, R408: events of a FIN block's arithmetic; those of a step reach the REL block. -/
def State.finEvs (s : State) (t : TileId) (step : Option Nat) (e : Evs) : State :=
  let s := s.countEvs (.fin t) R.FIN_FIN_OVERFLOW e
  match step with | some n => s.stepEvs n e | none => s

/-- R379, R383, R409: an update that needs a working set places it in the reservation of its tile. -/
def State.useReserve (s : State) (t : TileId) (d : LDesc) : State :=
  if d.workSet = 0 then s
  else { s.setFin t { s.fin t with temp := some s.freeCtr } with freeCtr := s.freeCtr + 1 }

/-- R380 to R398, R408: the update of a layer is computed and its pre-image record issued. The notice of a refused one stays (R388). -/
def State.startLayer (s : State) (t : TileId) (uid stage ring entry layer step gradAddr : Nat) : State :=
  match s.ldescBytes t layer with
  | none => s.failStage t uid stage
  | some b =>
    if !s.ldescOk (s.expert (.fin t)) b then (s.err (.fin t) E.FIN_LAYER_BAD).failStep step
    else
      let d := LDesc.ofBytes b
      let input := s.layerIn t d step gradAddr
      let s := s.seenAll (s.layerReads d gradAddr)
      match input with
      | none => s.failStage t uid stage
      | some x =>
        let o := d.update x
        let s := (if d.rule = 0x20 then { s with freeCtr := s.freeCtr + 2 ^ 26 } else s).useReserve t d
        let s := (s.finEvs t (some step) o.evs).count (.fin t) R.FIN_FIN_FMA o.fma
        if !o.ok then ((s.err (.fin t) E.FIN_PROG_FAULT).failStep step).failStage t uid stage
        else
          s.finRecord t { train := uid, stage := stage, ring := ring, entry := entry, layer := layer, step := BitVec.ofNat 64 step,
                          oldMaster := x.master, oldState := x.state, newMaster := o.master, newState := o.state, desc := b,
                          recorded := false, before := [] }

/-- R387: a notice taken. -/
def State.takeNotice (s : State) (t : TileId) (tr : Train) (stage : Nat) (ring entry : Nat) (list : List Nat) (b : List Byte) : State :=
  let step := recFld b 0 8 63 0
  let layer := recFld b 8 4 11 0
  let mine := match s.ldescBytes t layer with | some x => (LDesc.ofBytes x).updTile == s.logTile t.val | none => true
  let s := s.seen (s.ldescBase t + 128 * layer) 128
  if recFld b 0xC 4 31 0 ≠ 0 ∨ tr.noStep ∨ step ≠ tr.step.toNat ∨ !list.contains layer ∨ !mine then s.finFail t tr.uid stage E.FIN_NOTICE_BAD
  else if s.openNow ≠ some step then s.finFail t tr.uid stage E.FIN_STEP_LATE
  else if (s.fin t).noted.contains (tr.uid, stage, layer) then s.finFail t tr.uid stage E.FIN_DUP_UPDATE
  else
    (s.setFin t { s.fin t with noted := (s.fin t).noted ++ [(tr.uid, stage, layer)] }).startLayer t tr.uid stage ring entry layer step (recFld b 0x10 8 63 0)

/-- FINISH_UPDATE (R385 to R398, R401, R404): the engine of a tile takes the next notice of a Finish stage, or goes on with an update that
waits for journal room, also while its block completes its work (R61). -/
def State.finishNext (s : State) (t : TileId) (k : Fin 4) (stage : Nat) : State :=
  match (s.cox t).running k.val with
  | none => s
  | some tr =>
    match tr.stages[stage]? with
    | none => s
    | some g =>
      if g.desc.engine ≠ 4 ∨ !g.started ∨ g.done ∨ tr.failed.isSome then s
      else
        match (s.fin t).job with
        | some j => if j.recorded then s else s.finRecord t j
        | none =>
          if !s.enabled (.fin t) then s.finFail t tr.uid stage E.WORK_REFUSED
          else if (s.fin t).ovf = some tr.step then s.failStage t tr.uid stage
          else
          let ringNo := nth 0xFF g.desc.inRings 0
          match s.finList g, tr.rings[ringNo]? with
          | some list, some r =>
            match r.take stage with
            | none => if tr.ended r stage then s.failStage t tr.uid stage else s
            | some (e, r') =>
              -- the list of layers is read once
              let s := if (s.fin t).noted.any (fun x => x.1 == tr.uid && x.2.1 == stage) then s else s.seen g.desc.prog.toNat (4 * g.desc.items)
              let s := s.modTrain t tr.uid (fun tr => tr.modRing ringNo (fun _ => r'))
              let bad := s.tsramBad t.val (r.entryOff e) 64
              let s := s.tsramSeen t.val (r.entryOff e) 64
              if bad then s.failStage t tr.uid stage
              else s.takeNotice t tr stage ringNo e list (s.tsramRead t.val (r.entryOff e) 64)
          | _, _ => s.failStage t tr.uid stage

/-- FINISH_UPDATE. -/
def execFinishUpdate (t : TileId) (k : Fin 4) (stage : Fin 16) (s : State) : Out := s.liveIn (.tile t) (s.finishNext t k stage.val)

/-- The record of the update in progress is acknowledged. -/
def FinSt.ack (x : FinSt) : FinSt := { x with journal := x.journal.map (fun r => { r with acked := true }) }

/-- R399, R401, R627, R642: the state, the master and the copies of the update in progress are written. -/
def State.finWrite (s : State) (t : TileId) (j : FinJob) : State :=
  let d := LDesc.ofBytes j.desc
  let s := (s.hbmStore d.state j.newState).hbmStore d.master j.newMaster
  let (s, e) := s.writeCopies d j.newMaster
  let x := (s.fin t).ack
  let df := x.df + layerTerm d.layerId (j.newMaster ++ j.newState) - layerTerm d.layerId (j.oldMaster ++ j.oldState)
  let s := (s.setFin t { x with job := none, df := df }).count (.fin t) R.FIN_FIN_UPDATES 1
  (s.finEvs t (some j.step.toNat) e).addOut j.step.toNat (s.logTile t.val) (wordTerms d.state j.newState + wordTerms d.master j.newMaster)

/-- FINISH_UPDATE_WRITTEN (R388, R401): the update in progress is written and its notice released. -/
def execFinishUpdateWritten (t : TileId) (s : State) : Out :=
  s.liveIn (.tile t) (
    match (s.fin t).job with
    | none => s
    | some j => if j.recorded then (s.finWrite t j).noticeDone t j.train j.stage j.ring j.entry else s)

/-! Copies on request (R415). -/

/-- A write of FIN_CTL.REFRESH_COPIES. -/
def State.startCopies (s : State) (t : TileId) : State :=
  if !s.enabled (.fin t) then s.err (.fin t) E.WORK_REFUSED
  else (s.setFin t { s.fin t with refreshing := true }).wb (.fin t) R.FIN_FIN_CTL 0 true

/-- REFRESH_COPIES. -/
def execRefreshCopies (t : TileId) (s : State) : Out := s.live (s.startCopies t)

/-- REFRESH_COPIES_DONE (R415): the copies of every valid layer of the tile are rewritten from its master. -/
def execRefreshCopiesDone (t : TileId) (s : State) : Out :=
  s.liveIn (.tile t) (
    if !(s.fin t).refreshing then s
    else
      let s := (s.layersOf t).foldl (fun s l =>
        match s.readUnit l.2.master l.2.masterLen with
        | (.ok m, s) =>
          let (s, e) := s.writeCopies l.2 m
          s.finEvs t none e
        | (_, s) => s) (s.seenAll ((s.layersOf t).map (fun l => (s.ldescBase t + 128 * l.1, 128))))
      (s.setFin t { s.fin t with refreshing := false }).wb (.fin t) R.FIN_FIN_CTL 0 false)

/-! Rollback (R405, R406). -/

/-- Is a record intact in HBM (R402)? -/
def State.djWhole (s : State) (t : TileId) (r : DRec) : Bool :=
  let b := s.hbmRead ((s.fin t).base + r.pos) r.len
  !s.hbmBad ((s.fin t).base + r.pos) r.len && recFld b 0 4 31 0 == crc32c (b.drop 8)

/-- Can n bytes at an address be written: HBM that no fence keeps (R693)? -/
def State.hbmWritable (s : State) (a n : Nat) : Bool := decide (a + n ≤ s.hbmTop) && !(s.stacksAt a n).any s.stackFenced

/-- R405: the layer of a record restored into its master and state, and its copies rewritten. -/
def State.djUndo (s : State) (t : TileId) (j : DRec) : State :=
  let p := s.hbmRead ((s.fin t).base + j.pos + 32) (j.masterLen + j.stateLen)
  if !(s.hbmWritable j.master j.masterLen && (j.stateLen == 0 || s.hbmWritable j.stateAddr j.stateLen)) then s.err (.fin t) E.FIN_RESTORE_FAIL
  else
    let m := p.take j.masterLen
    let s := s.hbmStore j.master m
    let s := if j.stateLen = 0 then s else s.hbmStore j.stateAddr (p.drop j.masterLen)
    let s := match s.layer t j.layer with
      | some d =>
        if d.layerId = j.layerId then
          let (s, e) := s.writeCopies d m
          s.finEvs t none e
        else s
      | none => s
    s.count (.fin t) R.FIN_LAYERS_RESTORED 1

/-- R405, R406: the records of a journal, newest first: pre-images of step r or later are restored; false where a record fails its CRC. -/
def State.djRestore (s : State) (t : TileId) (r : Nat) : List DRec → State × Bool
  | [] => (s, true)
  | j :: l =>
    let ok := s.djWhole t j
    let s := s.seen ((s.fin t).base + j.pos) j.len
    if !ok then (s.err (.fin t) E.FIN_DJ_REC_BAD, false)
    else (if j.kind = 1 ∧ r ≤ j.step.toNat then s.djUndo t j else s).djRestore t r l

/-- The write position of a ring behind its last record. -/
def FinSt.rewind (x : FinSt) : FinSt :=
  match x.journal.getLast? with
  | some r => { x with pos := (r.pos + r.len) % x.size }
  | none => x

/-- R405, R406: a FIN block rolls back every step from r on. A final record that fails its CRC is ignored. -/
def State.rollbackFin (s : State) (t : TileId) (r : Nat) : State :=
  let s := match (s.fin t).job with
    | some j => if j.recorded then s.finWrite t j else s.setFin t { s.fin t with job := none }
    | none => s
  let s := s.setFin t { s.fin t with noted := [], ovf := none }
  let newest := match (s.fin t).journal.reverse with
    | j :: l => if s.djWhole t j then j :: l else l
    | [] => []
  let (s, done) := s.djRestore t r newest
  if done then
    let x := FinSt.rewind { s.fin t with journal := (s.fin t).journal.filter (fun j => decide (j.step.toNat < r)) }
    (s.setFin t x).wr (.fin t) R.FIN_DJ_USED x.used
  else s

/-- What an interruption leaves of the update in progress: a prefix of its record, if that was not acknowledged, how long is a free value. The rest of
its place keeps what it held. -/
def State.cutFin (s : State) (t : TileId) : State :=
  match (s.fin t).job, (s.fin t).journal.getLast? with
  | some j, some r =>
    let (v, s) := s.fresh
    let s := s.setFin t { s.fin t with job := none }
    if j.recorded ∧ !r.acked then
      let n := v.toNat % (r.len / 32 + 1) * 32
      s.hbmWrite ((s.fin t).base + r.pos + n) (j.before.drop n)
    else s
  | _, _ => s.setFin t { s.fin t with job := none }

end Sys2Proof.Machine
end

