-- ==== Sys2Proof/Machine/MemCmds.lean ====
section
/-! DEFINITION. The stacks, the geometry lock, the tile caches and loans as commands (R458 to R515). -/

namespace Sys2Proof.Machine

/-! Reads and writes of the stacks (R459, R460, R484, R485, R488). -/

/-- R459: a parity error repeats the access once and counts as a corrected error. -/
def State.parityError (s : State) (a : Nat) (parity : Bool) : State :=
  if parity && !s.frameFenced a then s.countCe (s.stackOfAddr a) a else s

/-- HBM_READ (R459, R472, R484, R485, R571, R693): before the read the named symbols of its first word go bad; a word that an injection meets
stays as it is (R699, R700). -/
def State.stackRead (s : State) (a n : Nat) (err : ReadErr) : State :=
  if n = 0 ∨ s.hbmTop < a + n then { s.unmapped with lastRead := none }
  else
    let s := if s.frameFenced a then s else s.spoil (a / 32) err.bad
    let s := s.parityError a err.parity
    let r := if s.hbmBad a n then none else some (s.hbmRead a n)
    { s.hbmSeen a n with lastRead := r }

/-- HBM_READ. A dirty line of the host region is recalled first. -/
def execHbmRead (a : Addr) (n : Nat) (err : ReadErr) (dirty : Option (Addr × List Byte)) (s : State) : Out :=
  s.liveIn (s.islandOf a.toNat) ((s.recall dirty).stackRead a.toNat n err)

/-- HBM_WRITE (R459, R460, R472, R693): the bytes merged into their words. -/
def execHbmWrite (a : Addr) (w : WriteData) (dirty : Option (Addr × List Byte)) (s : State) : Out :=
  s.liveIn (s.islandOf a.toNat) (
    let s := s.recall dirty
    let a := a.toNat
    if w.bytes = [] ∨ s.hbmTop < a + w.bytes.length then s.unmapped else (s.parityError a w.parity).hbmStore a w.bytes)

/-! Geometry (R462 to R473). -/

/-- R471: is the geometry locked? -/
def State.geoLocked (s : State) : Bool := s.rb .mod R.MOD_MEM_LOCK 1

/-- NEXT_MIB of a stack as it takes effect (R375). -/
def State.nextMib (s : State) (st : StackId) : Nat := effNextMib (s.rf (.base st) R.BASE_JOURNAL_CFG 15 0)

/-- R463, R466, R467: may the geometry of the registers be locked? HOST_32G outside 1 to 16 is refused too (DEDUCED from R489; log
entry 33). -/
def State.geoOk (s : State) : Bool :=
  let h := s.rf .mod R.MOD_HOST_CFG 4 0
  let j := s.nextMib 0
  let specs := s.regionSpecs j
  let rs := layRegions 0 specs
  decide (1 ≤ h) && decide (h ≤ 16) && (List.finRange 32).all (fun st => s.rf (.base st) R.BASE_JOURNAL_CFG 15 0 == s.rf (.base 0) R.BASE_JOURNAL_CFG 15 0) &&
    specs.all (fun x => decide (1 ≤ x.2.2.2.1)) &&
    (List.range 32).all (fun st => decide (rs.foldl (fun n r => n + r.part st) 0 ≤ usableMib j * 0x100000)) &&
    decide (rs.foldl (fun n r => n + r.size) 0 ≤ 1152 * gib)

/-- Every base die takes NEXT_MIB as ACTIVE_MIB. -/
def State.takeMib (s : State) : State :=
  (List.finRange 32).foldl (fun s st => s.wf (.base st) R.BASE_JOURNAL_CFG 31 16 (s.nextMib st)) s

/-- R471: a write of LOCK_REQ. -/
def State.lockGeometry (s : State) : State :=
  if s.geoLocked then s.ctlAccess .mod
  else if !s.geoOk then s.err .mod E.MOD_GEO_BAD
  else
    let s := s.takeMib
    (s.wr .mod R.MOD_HBM_TOP (s.regions.foldl (fun n r => n + r.size) 0)).wb .mod R.MOD_MEM_LOCK 1 true

/-- LOCK_REQ. -/
def execLockReq (s : State) : Out := s.live s.lockGeometry

/-! Skew, temperature, refresh, scrubbing (R475 to R488). -/

/-- The accesses of a stack's window per pseudo-channel, with more of them of one (R475). -/
def CatchSt.windowWith (x : CatchSt) (pc more : Nat) : List (Nat × Nat) :=
  SMap.set (fun _ => 0) x.window pc (SMap.get (fun _ => 0) x.window pc + more)

/-- SKEW_WINDOW (R475, R476): a window of 1 ms ends, in which pseudo-channel pc had more accesses than the commands that reached the stack
show (DESIGN CHOICE; log entry 104). -/
def execSkewWindow (st : StackId) (pc : Fin 32) (more : Nat) (s : State) : Out :=
  s.live (
    let x := s.catchSt st
    let w := x.windowWith pc.val more
    let total := w.foldl (fun n e => n + e.2) 0
    let busiest := w.foldl (fun n e => max n e.2) 0
    let x := { x with window := [] }
    let r := s.rf (.base st) R.BASE_SKEW_CFG 15 8
    let w := s.rf (.base st) R.BASE_SKEW_CFG 7 0
    if 40000 ≤ total ∧ (if r = 0 then 2 else r) * total ≤ 32 * busiest then
      let n := x.skewRun + 1
      let s := (s.setCatch st { x with skewRun := n }).count (.base st) R.BASE_SKEW_WINDOWS 1
      if (if w = 0 then 1 else w) ≤ n then
        let s := s.err (.base st) E.BASE_HASH_SKEW
        let s := s.setCatch st { s.catchSt st with skewRun := 0 }
        if s.rb .mod R.MOD_REKEY 1 then s.wb .mod R.MOD_REKEY 0 true else s
      else s
    else s.setCatch st { x with skewRun := 0 })

/-- MEM_TEMP_READ (R479 to R482, R726): none is a failed readout. -/
def execMemTempRead (st : StackId) (temp : Option Byte) (s : State) : Out :=
  s.live (
    let s := if temp.isNone then s.err (.base st) E.BASE_TEMP_READ else s
    let t := (temp.getD 95#8)
    let old := s.rf (.base st) R.BASE_MEM_TEMP 10 8
    let k := s.rfcPoint st old (sgn 8 t.toNat)
    let s := s.wr (.base st) R.BASE_MEM_TEMP (k * 256 + t.toNat)
    (s.setCatch st { s.catchSt st with tempPoint := k }).actTemp st (decide (k ≠ old)))

/-- DRAM_REFRESH (R459, R482): a refresh keeps the contents of the bank. With it come a refresh-management command for a bank that has been
activated since its last, and the errors that the die's own ECC has corrected since the last reading; neither is an error of R488 (DEDUCED;
log entry 217). -/
def execDramRefresh (r : Refresh) (s : State) : Out :=
  let st := r.st
  s.liveIn (.base st) (
    let s := if r.onDie = 0 then s else s.count (.base st) R.BASE_ECC_CE_CNT r.onDie
    match r.rfm with
    | none => s
    | some b =>
      let x := s.catchSt st
      if SMap.get (fun _ => 0) x.acts b.val = 0 then s
      else (s.setCatch st { x with acts := SMap.erase x.acts b.val }).count (.base st) R.BASE_RFM_CMDS 1)

/-- R468 inverted: the module address of local frame lf of a stack, where a region holds it. -/
def State.frameAddr (s : State) (st lf : Nat) : Option Nat :=
  let rs := s.regions
  let key := s.rd .mod R.MOD_HASH_KEY
  (rs.find? (fun r => decide (soff rs r.index st ≤ lf) && decide (lf < soff rs r.index st + r.part st / 4096))).map (fun r =>
    let g := lf - soff rs r.index st
    let h := mixN (key ^^^ (r.index <<< 56) ^^^ g)
    let f := if r.near then g * 4 + ((st % 4) ^^^ (h % 4)) else g * 32 + (st ^^^ (h % 32))
    r.start + f * 4096)

/-- Words of 32 bytes in a stack (R458). -/
def stackWords : Nat := 0x900000000 / 32

/-- R487: a word of a reserve scrubbed: bad names the symbols that have gone bad since. -/
def State.scrubReserve (s : State) (st : StackId) (w : Nat) (bad : BitVec 36) : State :=
  let x := s.catchSt st
  if x.reserveUe.contains w || decide (2 ≤ symbolErrs bad) then (s.setCatch st { x with reserveUe := NSet.add x.reserveUe w }).stackUe st 0
  else if symbolErrs bad = 1 then s.countCe st 0
  else s

/-- R487: a word of a frame of the address map scrubbed. A corrected one is rewritten. -/
def State.scrubWord (s : State) (st : StackId) (w : Nat) (bad : BitVec 36) : State :=
  let s := s.spoil w bad
  if s.injArmed (.base st) E.BASE_ECC_UE then s.stackUe st (32 * w)
  else if s.injArmed (.base st) E.BASE_ECC_CE then s.countCe st (32 * w)
  else
    match symbolErrs (s.errOf w) with
    | 0 => s
    | 1 => ({ s with memErr := SMap.erase s.memErr w }).countCe st (32 * w)
    | _ => s.stackUe st (32 * w)

/-- SCRUB (R484, R487): the next word of a stack is read; the named symbols of it have gone bad since it was read last. -/
def execScrub (st : StackId) (bad : BitVec 36) (s : State) : Out :=
  s.liveIn (.base st) (
    if s.rf (.base st) R.BASE_ECC_CFG 7 0 = 0 then s
    else
      let x := s.catchSt st
      let w := x.scrub
      let s := (s.setCatch st { x with scrub := (w + 1) % stackWords }).count (.base st) R.BASE_SCRUB_WORDS 1
      match s.frameAddr st.val (w / 128) with
      | some a => s.scrubWord st (a / 32 + w % 128) bad
      | none => s.scrubReserve st w bad)

/-! Tile caches (R495). -/

/-- A write of TCACHE_CTL.FLUSH or INVAL: refused while BUSY. -/
def State.tcacheRequest (s : State) (t : TileId) (inval : Bool) : State :=
  if !s.enabled (.cox t) then s.err (.cox t) E.WORK_REFUSED
  else if s.rb (.cox t) R.COX_TCACHE_CTL 8 then s.ctlAccess (.cox t)
  else (if inval then s.invalCache t else s.flushCache t).wb (.cox t) R.COX_TCACHE_CTL 8 true

/-- FLUSH: every dirty tile is written back. -/
def execTcacheFlush (t : TileId) (s : State) : Out := s.live (s.tcacheRequest t false)

/-- INVAL: every dirty tile is written back, then every entry invalidated. -/
def execTcacheInval (t : TileId) (s : State) : Out := s.live (s.tcacheRequest t true)

/-- TCACHE_FLUSH_DONE: BUSY clears once no write-back of the tile waits for its lender. -/
def execTcacheFlushDone (t : TileId) (s : State) : Out :=
  s.live (
    if s.loanReqs.any (fun q => q.tile == t.val && q.write) then s
    else s.wb (.cox t) R.COX_TCACHE_CTL 8 false)

/-! Loans (R500 to R507). -/

/-- R503: does a loan lie wholly in the range above HBM_TOP, clear of every other enabled loan? A size of 0 or above 160 units and a
PORT that names no port are refused too (DEDUCED; log entry 34). -/
def State.loanOk (s : State) (k : Nat) (v : Nat) : Bool :=
  let b := s.loanBase k
  let n := fld v 26 16 * 0x4000000
  decide (1 ≤ fld v 26 16) && decide (fld v 26 16 ≤ 160) && decide (fld v 30 28 < 6) && decide (s.hbmTop ≤ b) && decide (b + n ≤ 0x12000000000) &&
    (List.range 4).all (fun j => j == k || !s.loanOn j || !overlaps b n (s.loanBase j) (s.loanSize j))

/-- R503, R507: a write of LOAN_CFG_k. -/
def State.loanCfg (s : State) (k : Nat) (v : Nat) : State :=
  let off := R.MOD_LOAN_CFG + 16 * k
  if v.testBit 31 then
    if s.loanOk k v then s.wr .mod off (setFld (v % 2 ^ 32) 27 27 0)
    else (s.wr .mod off (setFld (setFld (v % 2 ^ 32) 31 31 0) 27 27 (s.rf .mod off 27 27))).err .mod E.MOD_LOAN_BAD
  else s.wr .mod off (setFld (v % 2 ^ 32) 27 27 (s.rf .mod off 27 27))

/-- LOAN_ENABLE: a write of LOAN_CFG_k with EN 1. -/
def execLoanEnable (k : Fin 4) (v : W32) (s : State) : Out := s.live (s.loanCfg k.val (setFld v.toNat 31 31 1))

/-- R500: a class-3 request refused. -/
def State.lendRefuse (s : State) (m : Msg) : State :=
  ((s.count .mod R.MOD_LEND_REFUSALS 1).err .mod E.MOD_LEND_REFUSED).send m.src.toNat m.tag.toNat (.loanResp .refused [])

/-- Is a message a class-3 request? -/
def isLoanReq (m : Msg) : Bool := match m.body with | .loanRead .. => true | .loanWrite .. => true | _ => false

/-- R500: is a request the next of its port: the module that the port joins sent it, and none of that module's came before it? -/
def State.lendNext (s : State) (p : PortId) (m : Msg) : Bool :=
  m.src.toNat == s.partner p && (s.arrived.find? (fun x => isLoanReq x && x.src == m.src)) == some m

/-- R500: where a request on a port lies in HBM, when it is to be served. -/
def State.lendAddr (s : State) (p : PortId) (off n : Nat) : Option Nat :=
  let a := s.rf .mod R.MOD_LEND_BASE 40 26 * 0x4000000 + off
  if s.rb .mod R.MOD_LEND_CFG (16 + p.val) ∧ off + n ≤ s.rf .mod R.MOD_LEND_CFG 15 0 * 0x4000000 ∧ off % 4096 = 0 ∧ n = 4096 ∧ a + n ≤ s.hbmTop then some a
  else none

/-- LOAN_READ (R500, R485): a poisoned read has a poisoned response. -/
def execLoanRead (p : PortId) (m : Msg) (s : State) : Out :=
  s.live (
    match m.body with
    | .loanRead off len =>
      if !s.lendNext p m then s
      else
        let s := s.taken m
        match s.lendAddr p off.toNat len with
        | none => s.lendRefuse m
        | some a =>
          let t := s.hbmSeen a len
          if s.hbmBad a len then t.send m.src.toNat m.tag.toNat (.loanResp .poisoned [])
          else (t.count .mod R.MOD_NBR_SERVED_BYTES len).send m.src.toNat m.tag.toNat (.loanResp .done (s.hbmRead a len))
    | _ => s)

/-- LOAN_WRITE (R500). -/
def execLoanWrite (p : PortId) (m : Msg) (s : State) : Out :=
  s.live (
    match m.body with
    | .loanWrite off data =>
      if !s.lendNext p m then s
      else
        let s := s.taken m
        match s.lendAddr p off.toNat data.length with
        | none => s.lendRefuse m
        | some a => ((s.hbmStore a data).count .mod R.MOD_NBR_SERVED_BYTES data.length).send m.src.toNat m.tag.toNat (.loanResp .done [])
    | _ => s)

/-- The threads of a tile with a path operation that reaches any of n bytes from an address. -/
def State.pathWaiters (s : State) (t : TileId) (a n : Nat) : List (CoreId × Nat) :=
  let on (l : List (Nat × Nat)) : Bool := l.any (fun r => overlaps r.1 r.2 a n)
  (List.range 16).flatMap (fun c =>
    let x := s.core (coreOf t c)
    let l := x.lpq.filter (fun y => on (y.desc.ranges y.bf))
    let w := x.spq.filterMap (fun y => match y with
      | .spq y => if on (y.desc.ranges y.bf) then some y.thread else none
      | .vout y => if on (storeRanges y.bf.fmt y.bf y.addr y.scBase 0 1 64) then some y.thread else none)
    let m := x.queue.filter (fun y => y.out == 2 && on (storeRanges y.bf.fmt y.bf y.base y.scBase y.stride 64 64))
    (l.map (fun y => y.thread) ++ w ++ m.map (fun y => y.thread)).map (fun th => (coreOf t c, th)))

/-- The stages of the threads that wait for any of n bytes from an address fail. -/
def State.failWaiters (s : State) (t : TileId) (a n : Nat) (f : State → State) : State :=
  (s.pathWaiters t a n).foldl (fun s w =>
    match (s.thread w.1 w.2).item with
    | none => s
    | some it => (f s).failStage t it.train it.stage) s

/-- R506: a loan is lost: LOST, NBR_LOST, the counters; every stage that waits on it fails. -/
def State.loseLoan (s : State) (k : Nat) : State :=
  if !s.loanOn k ∨ s.loanLost k then s
  else
    let tiles := ((s.loanReqs.filter (fun q => q.loan == k)).map (fun q => q.tile)).eraseDups
    let s := (s.wb .mod (R.MOD_LOAN_CFG + 16 * k) 27 true).err .mod E.MOD_NBR_LOST
    let s := { s.count .mod R.MOD_NBR_LOST_EVENTS 1 with loanReqs := s.loanReqs.filter (fun q => q.loan != k) }
    tiles.foldl (fun s t =>
      s.failWaiters (tileOf t) (s.loanBase k) (s.loanSize k) (fun s => s.count (.cox (tileOf t)) R.COX_NBR_LOST_CNT 1)) s

/-- LOAN_RESPONSE (R486, R493, R494, R506): a fill or a write-back completes; a refusal loses the loan; a poisoned fill fails the stages that
wait for it. -/
def execLoanResponse (m : Msg) (s : State) : Out :=
  s.live (
    match m.body with
    | .loanResp res data =>
      if !s.arrived.contains m then s
      else
        let s := s.taken m
        match s.loanReqs.find? (fun q => q.tag == m.tag) with
        | none => s
        | some q =>
          if res = .refused then s.loseLoan q.loan
          else
            let s := { s with loanReqs := s.loanReqs.erase q }
            if q.write then s
            else if res = .poisoned then s.failWaiters (tileOf q.tile) q.addr 4096 id
            else
              let t := tileOf q.tile
              let s := s.cacheAlloc t (q.addr / 0x10000) true
              match (s.cox t).cached (q.addr / 0x10000) with
              | none => s
              | some e =>
                let s := s.setCox t ((s.cox t).putTile (e.put (q.addr % 0x10000) data (2 ^ (q.addr / 4096 % 16)) 0))
                (s.count (.cox t) R.COX_TCACHE_FILLS 1).count .mod R.MOD_NBR_FILL_BYTES data.length
    | _ => s)

/-- LOAN_TIMEOUT (R506): the oldest request of loan k has had no response within NBR_TIMEOUT_US. -/
def execLoanTimeout (k : Fin 4) (s : State) : Out :=
  s.live (if s.loanReqs.any (fun q => q.loan == k.val) then s.loseLoan k.val else s)

/-- LOAN_PORT_INACTIVE_TIMEOUT (R506): the port of loan k has been out of ACTIVE for NBR_TIMEOUT_US. -/
def execLoanPortInactiveTimeout (k : Fin 4) (s : State) : Out :=
  s.live (
    if s.loanOn k.val ∧ s.portState (Fin.ofNat 6 (s.rf .mod (R.MOD_LOAN_CFG + 16 * k.val) 30 28)) ≠ 2 then s.loseLoan k.val else s)

end Sys2Proof.Machine
end

