-- ==== Sys2Proof/Machine/Chain.lean ====
section
/-! DEFINITION. The chain unit (R417 to R457): contribution records and their local merge, sparse, dense and top-k chains, chain
packets, chain send and receive stages. -/

namespace Sys2Proof.Machine

/-- The chain unit changes. -/
def State.modChain (s : State) (f : ChainSt → ChainSt) : State := { s with chain := f s.chain }

/-! Paths (R418). -/

/-- A hop of a path: whether a value comes in, whether one goes out, and where to. -/
structure Hop where
  hasIn : Bool
  hasOut : Bool
  next : Nat
deriving DecidableEq, Repr

/-- The next module along an axis: 0 X, 1 Y, 2 Z. -/
def State.plus (s : State) (axis : Nat) : Nat :=
  let x := s.ownX
  let y := s.ownY
  let z := s.ownZ
  match axis with
  | 0 => (x + 1) % s.nx + 16 * y + 256 * z
  | 1 => x + 16 * ((y + 1) % s.ny) + 256 * z
  | _ => x + 16 * y + 256 * ((z + 1) % s.nz)

/-- Hop number i of a path of n modules along an axis. -/
def State.hop (s : State) (axis i n : Nat) : Hop := { hasIn := decide (0 < i), hasOut := decide (i + 1 < n), next := s.plus axis }

/-- The sum path of stream no on a leg (0 Y, 1 X, 2 Z): Y streams start after their owner, X streams at their start crew. -/
def State.sumHop (s : State) (leg no : Nat) : Hop :=
  match leg with
  | 0 => s.hop 1 ((s.ownY + 2 * s.ny - 1 - no) % s.ny) s.ny
  | 1 => s.hop 0 ((s.ownX + s.nx - no) % s.nx) s.nx
  | _ => s.hop 2 ((s.ownZ + s.nz - 1) % s.nz) s.nz

/-- The distribution path of X stream h: it starts at crew l = h + NX - 1. -/
def State.finalHop (s : State) (no : Nat) : Hop := s.hop 0 ((s.ownX + s.nx + 1 - no) % s.nx) s.nx

/-- R419: the start crew of a row's X leg. -/
def State.startCrew (s : State) (key : Nat) : Nat := (key / 2 ^ 40 + key % 2 ^ 40) % s.nx

/-! Failures (R443, R451). -/

/-- A chain fails: the bit in the router page, the notice STATUS, the step. -/
def State.chainFail (s : State) (bitNo status : Nat) : State :=
  let s := s.err .router bitNo
  match s.chain.step with
  | none => s
  | some n => (s.modChain (fun c => { c with failed := some (c.failed.getD status) })).failStep n

/-- R443: the notice STATUS with which receive stages of the step fail, once a chain has failed or the step is abandoned. -/
def State.chainStatus (s : State) : Option Nat :=
  match s.chain.failed with
  | some v => some v
  | none =>
    match s.chain.step.bind s.stepSt with
    | some x => if x.word.getLsbD 2 then some 3 else none
    | none => none

/-- A send or receive entry is refused: CHAIN_BAD, and its stage fails. -/
def State.chainRefuse (s : State) (t : TileId) (uid stage : Nat) : State := (s.err .router E.ROUTER_CHAIN_BAD).failStage t uid stage

/-- Packets of a chain that wait on its two sum legs. -/
def BChain.queued (x : BChain) : Nat := x.yIn.length + x.xIn.length

/-- R447, R453: bytes of the chain area in use: contribution records, and for every dense layer or top-k group its receive buffer, the
packets that wait beyond the one in it, its partials and its finals. -/
def ChainSt.used (c : ChainSt) : Nat :=
  let blk (x : BChain) : Nat := 4160 * max 1 x.queued + x.parts.foldl (fun n p => n + p.2.length) 0 + x.fin.foldl (fun n p => n + p.length) 0
  c.recBytes + c.blocks.foldl (fun n x => n + blk x) 0

/-- R453. -/
def State.checkArea (s : State) : State := if s.chain.area < s.chain.used then s.chainFail E.ROUTER_CHAIN_AREA_OVF 3 else s

/-! Packets (R430, R431). -/

/-- The bytes of a packet from offset 8 on. -/
def pktTail (p : ChainPkt) : List Byte :=
  leBytes 8 p.step.toNat ++ leBytes 4 p.pseq.toNat ++ leBytes 4 (p.stream.toNat * 2 ^ 16) ++
    leBytes 4 (p.src.toNat * 2 ^ 12 + p.dst.toNat) ++ leBytes 4 p.info.toNat ++ p.body

/-- LEN_32 in bytes. -/
def pktBytes (p : ChainPkt) : Nat := alignUp (32 + p.body.length) 32

/-- The CSUM that a packet ought to have. -/
def pktCrc (p : ChainPkt) : Nat := crc32c (pktTail p ++ List.replicate (pktBytes p - 32 - p.body.length) 0#8)

/-- The number of a sequence of packets: KIND 1, 3, 5 sums and 2, 4, 6 finals, by leg and stream. -/
def seqNo (kind leg stream : Nat) : Nat := kind * 2 ^ 18 + leg * 2 ^ 16 + stream

/-- A packet of the open step sent to a module, in the sequence of kind seqKind. A failed chain sends nothing (R451). -/
def State.sendPkt (s : State) (kind seqKind leg stream info next : Nat) (body : List Byte) : State :=
  match s.chain.step, s.chainStatus with
  | some n, none =>
    let k := seqNo seqKind leg stream
    let q := SMap.get (fun _ => 0) s.chain.tx k
    let p : ChainPkt :=
      { kind := BitVec.ofNat 4 kind, leg := BitVec.ofNat 2 leg, step := BitVec.ofNat 64 n, stream := BitVec.ofNat 16 stream,
        pseq := BitVec.ofNat 32 q, info := BitVec.ofNat 32 info, src := BitVec.ofNat 12 s.coord, dst := BitVec.ofNat 12 next, csum := 0, body := body }
    let p := { p with csum := BitVec.ofNat 32 (pktCrc p) }
    let s := s.modChain (fun c => { c with tx := SMap.set (fun _ => 0) c.tx k (q + 1) })
    ((s.count .router R.ROUTER_CHAIN_TX_PKTS 1).count .router R.ROUTER_CHAIN_TX_BYTES (pktBytes p)).send next 0 (.chain p)
  | _, _ => s

/-- FP32 values as bytes. -/
def f32Bytes (l : List W32) : List Byte := l.flatMap (fun x => leBytes 4 x.toNat)

/-- A sparse record in a packet. -/
def CVal.bytes (v : CVal) : List Byte :=
  leBytes 8 (v.key / 2 ^ 40 * 2 ^ 52 + v.key % 2 ^ 40 * 2 ^ 12) ++ leBytes 4 v.nuse ++ leBytes 4 0 ++ f32Bytes v.vals

/-- Sparse records of a packet body; none where one names no valid table or does not fit. -/
def State.parseVals (s : State) : Nat → List Byte → Option (List CVal)
  | 0, _ => some []
  | n + 1, b =>
    if b = [] then some []
    else
      let key := recFld b 0 8 63 52 * 2 ^ 40 + recFld b 0 8 51 12
      match s.tdesc (key / 2 ^ 40) with
      | none => none
      | some d =>
        let len := 16 + 4 * d.elems
        if b.length < len then none
        else (s.parseVals n (b.drop len)).map (fun l =>
          { key := key, vals := wordsOfFmt 0 d.elems ((b.take len).drop 16), nuse := recFld b 8 4 31 0 } :: l)

/-! Sparse streams (R428, R432 to R436). -/

/-- R428: in + own, in first, by elements; NUSE saturates (R431). -/
def CVal.combine (i o : CVal) : CVal :=
  { key := i.key, vals := List.zipWith (fun a b => (fAdd 0 0 a b).1) i.vals o.vals, nuse := min (i.nuse + o.nuse) 0xFFFFFFFF }

/-- The next merged record of a stream, where both inputs allow one, and the stream without it. -/
def SStream.next (x : SStream) : Option (CVal × SStream) :=
  match x.inq, x.own with
  | i :: is, o :: os =>
    if i.key < o.key then some (i, { x with inq := is })
    else if o.key < i.key then some (o, { x with own := os })
    else some (i.combine o, { x with inq := is, own := os })
  | i :: is, [] => if x.ownReady then some (i, { x with inq := is }) else none
  | [], o :: os => if x.inClosed then some (o, { x with own := os }) else none
  | [], [] => none

/-- All merged records that a stream can give. -/
def SStream.drain : Nat → SStream → List CVal × SStream
  | 0, x => ([], x)
  | n + 1, x =>
    match x.next with
    | none => ([], x)
    | some (v, x) => let (l, x) := x.drain n; (v :: l, x)

/-- The stream of a leg, number and kind. -/
def ChainSt.stream (c : ChainSt) (leg no : Nat) (final : Bool) : Option SStream :=
  c.streams.find? (fun x => x.leg == leg && x.no == no && x.final == final)

/-- A stream changes. -/
def State.modStream (s : State) (leg no : Nat) (final : Bool) (f : SStream → SStream) : State :=
  s.modChain (fun c => { c with streams := c.streams.map (fun x => if x.leg == leg && x.no == no && x.final == final then f x else x) })

/-- Records that fill a packet of at most 4,160 bytes, and the rest. -/
def fillPacket (room : Nat) : List CVal → List CVal × List CVal
  | [] => ([], [])
  | v :: r =>
    let n := v.bytes.length
    if n ≤ room then let (a, b) := fillPacket (room - n) r; (v :: a, b) else ([], v :: r)

/-- Packets of a stream: every full one, and with flush the last one too. -/
def State.sendVals (s : State) (leg no : Nat) (final flush : Bool) (next : Nat) : Nat → List CVal → State
  | 0, buf => s.modStream leg no final (fun x => { x with buf := buf })
  | n + 1, buf =>
    let (a, b) := fillPacket 4128 buf
    if a = [] ∨ (b = [] ∧ !flush) then s.modStream leg no final (fun x => { x with buf := buf })
    else
      let kind := if final then 2 else 1
      let s := s.sendPkt kind kind leg no 0 next (a.flatMap CVal.bytes)
      (s.modStream leg no final (fun x => { x with sent := x.sent + a.length })).sendVals leg no final flush next n b

/-- R321, R435, R628: a total handed to the Catch unit of the row's owner stack. -/
def State.toCatch (s : State) (v : CVal) : State :=
  let table := v.key / 2 ^ 40
  let row := v.key % 2 ^ 40
  match s.chain.step, s.tdesc table with
  | some n, some d =>
    let a := d.addr (d.owner s.ny row).2
    let u : Txn := { id := 0, replace := false, table := table, row := row, step := BitVec.ofNat 64 n, addr := a, d := d, grads := v.vals, image := [], phase := .lock,
                     old := [], new := [] }
    let st := s.stackOfAddr a
    let s := (s.setCatch st { s.catchSt st with inbox := (s.catchSt st).inbox ++ [u] }).count .router R.ROUTER_CHAIN_TO_CATCH 1
    let ws := words64 (f32Bytes v.vals)
    s.addIn n ((ws.zip (List.range ws.length)).foldl
      (fun acc w => acc + wordTerm (mix64 (BitVec.ofNat 64 v.key) ^^^ BitVec.ofNat 64 w.2) (BitVec.ofNat 64 w.1)) 0)
  | _, _ => s

/-- Records that enter a stream as the module's own value. -/
def State.feedOwn (s : State) (leg no : Nat) (final : Bool) (v : CVal) : State :=
  s.modStream leg no final (fun x => { x with own := x.own ++ [v] })

/-- R420, R433 to R435: what becomes of a record merged at the last module of a sum path. -/
def State.endOfPath (s : State) (leg no : Nat) (v : CVal) : State :=
  match leg with
  | 2 =>
    match s.tdesc (v.key / 2 ^ 40) with
    | some d => s.feedOwn 0 (d.owner s.ny (v.key % 2 ^ 40)).1 false v
    | none => s
  | 0 => s.feedOwn 1 (s.startCrew v.key) false v
  | _ => (s.toCatch v).feedOwn 1 no true v

/-- The streams whose own value is complete once a sum stream has closed at the end of its path. -/
def State.closeOwn (s : State) (leg no : Nat) : State :=
  match leg with
  | 2 => (List.range s.ny).foldl (fun s y => s.modStream 0 y false (fun x => { x with ownReady := true })) s
  | 0 => (List.range s.nx).foldl (fun s h => s.modStream 1 h false (fun x => { x with ownReady := true })) s
  | _ => s.modStream 1 no true (fun x => { x with ownReady := true })

/-- A stream goes on as far as its inputs allow, and closes when both are done (R432). -/
def State.pump (s : State) (leg no : Nat) (final : Bool) : State :=
  match s.chain.stream leg no final with
  | none => s
  | some x =>
    if x.closed then s
    else
      let hop := if final then s.finalHop no else s.sumHop leg no
      let (vs, x') := x.drain (x.inq.length + x.own.length)
      let past := x'.inq.isEmpty && x'.inClosed && x'.own.isEmpty && x'.ownReady
      let s := s.modStream leg no final (fun _ => x')
      let s := if final && hop.hasIn then vs.foldl State.toCatch s else s
      let s := if hop.hasOut then s.sendVals leg no final past hop.next (vs.length + x.buf.length + 1) (x.buf ++ vs)
               else if final then s else vs.foldl (fun s v => s.endOfPath leg no v) s
      if !past then s
      else
        let sent := match s.chain.stream leg no final with | some x => x.sent | none => 0
        let s := if hop.hasOut then s.sendPkt 7 (if final then 2 else 1) leg no sent hop.next [] else s
        let s := s.modStream leg no final (fun x => { x with closed := true })
        if final ∨ hop.hasOut then s else s.closeOwn leg no

/-- Every sparse stream goes on, in the order of the legs. -/
def State.pumpAll (s : State) : State :=
  if s.chainStatus.isSome then s else s.chain.streams.foldl (fun s x => s.pump x.leg x.no x.final) s

/-- The sparse streams of a module: the Z leg, and at z = 0 the Y streams, the X sums and the X finals. -/
def State.newStreams (s : State) : List SStream :=
  let mk (leg no : Nat) (final : Bool) : SStream :=
    let hop := if final then s.finalHop no else s.sumHop leg no
    { leg := leg, no := no, final := final, inq := [], inClosed := !hop.hasIn, own := [], ownReady := final && hop.hasIn, buf := [], sent := 0,
      closed := false }
  mk 2 0 false :: (if s.ownZ = 0 then
    (List.range s.ny).map (fun y => mk 0 y false) ++ (List.range s.nx).map (fun h => mk 1 h false) ++ (List.range s.nx).map (fun h => mk 1 h true)
    else [])

/-! Dense and top-k chains (R438 to R446). -/

/-- A top-k entry of R445 from its 16 bytes. -/
def topEntry (b : List Byte) : W32 × Int := (BitVec.ofNat 32 (recFld b 0 4 31 0), sgn 64 (recFld b 8 8 63 0))

/-- A top-k entry as R445 lays it out. -/
def topBytes (e : W32 × Int) : List Byte := leBytes 8 e.1.toNat ++ leBytes 8 (wrap 64 e.2)

/-- R446: the K best entries of a union, in order, unused ranks filled as R445 says. An entry with position -1 is unused; a NaN does not
take part, as in R173 (DEDUCED; log entry 31). -/
def topBest (k : Nat) (es : List (W32 × Int)) : List Byte :=
  let l := ((es.filter (fun e => !(f32v e.1).isNan && decide (e.2 ≠ -1))).foldl (fun l e => topInsert e l) []).take k
  (l ++ List.replicate (k - l.length) (0xFF800000#32, -1)).flatMap topBytes

/-- The entries of a packet body. -/
def topList (b : List Byte) : List (W32 × Int) := (chunks 16 b).map topEntry

/-- Two packet bodies combined at a hop, the incoming one first; none where their lengths differ. -/
def BChain.combine (x : BChain) (i o : List Byte) : Option (List Byte) :=
  if i.length ≠ o.length then none
  else if x.topk then some (topBest x.size (topList i ++ topList o))
  else some (f32Bytes (List.zipWith (fun a b => (fAdd 0 0 a b).1) (wordsOfFmt 0 (i.length / 4) i) (wordsOfFmt 0 (o.length / 4) o)))

/-- Packets of a chain's value. -/
def BChain.packets (x : BChain) : Nat := if x.topk then 1 else cdiv x.size 1024

/-- The root row yr and start crew h (R418). -/
def BChain.root (x : BChain) (n : Nat) : Nat := if x.topk then 0 else x.no % n

/-- The chain of a layer or group, a fresh one where there is none. -/
def ChainSt.block (c : ChainSt) (topk : Bool) (no : Nat) : BChain :=
  (c.blocks.find? (fun x => x.topk == topk && x.no == no)).getD
    { topk := topk, no := no, size := 0, nparts := 0, scope := true, parts := [], own := none, yIn := [], crew := [], xIn := [], yPos := 0, xPos := 0,
      fin := [], got := 0 }

/-- The chain of a layer or group takes a value. -/
def State.setBlock (s : State) (x : BChain) : State :=
  s.modChain (fun c => { c with blocks := c.blocks.filter (fun y => !(y.topk == x.topk && y.no == x.no)) ++ [x] })

/-- KIND of a sum packet of a chain; a final has the next one. -/
def BChain.kind (x : BChain) : Nat := if x.topk then 5 else 3

/-- INFO of packet i. -/
def BChain.info (x : BChain) (i : Nat) : Nat := if x.topk then x.size else 1024 * i

/-- Module (l, yr) or a later one holds final packet i: it is kept, and sent on (R418). x is where it came from: 0 the sum path, 1 the
X distribution, 2 the Y distribution. -/
def State.blockFinal (s : State) (x : BChain) (origin : Nat) (b : List Byte) : State :=
  let i := x.got
  let x := { x with fin := x.fin ++ [b], got := i + 1 }
  let s := s.setBlock x
  let l := (x.root s.nx + s.nx - 1) % s.nx
  let yr := x.root s.ny
  let s := if x.scope && decide (origin ≤ 1) && (s.ownX + 1) % s.nx != l && decide (1 < s.nx) then s.sendPkt (x.kind + 1) (x.kind + 1) 1 x.no (x.info i) (s.plus 0) b else s
  let s := if (s.ownY + 1) % s.ny ≠ yr ∧ 1 < s.ny then s.sendPkt (x.kind + 1) (x.kind + 1) 0 x.no (x.info i) (s.plus 1) b else s
  if x.got = x.packets then s.modChain (fun c => { c with finished := c.finished ++ [(x.topk, x.no)] }) else s

/-- The value of the next packet at a hop: the own body, combined with the incoming one. None where one is still to come; some none
where their lengths differ. -/
def BChain.atHop (x : BChain) (hop : Hop) (inq : List (List Byte)) (own : List Byte) : Option (Option (List Byte)) :=
  if !hop.hasIn then some (some own) else match inq with | i :: _ => some (x.combine i own) | [] => none

/-- One packet moves on along the Y or the X sum leg (R418, R439); none where nothing can move. -/
def State.blockStep (s : State) (x : BChain) : Option State :=
  let yHop := s.hop 1 ((s.ownY + 2 * s.ny - 1 - x.root s.ny) % s.ny) s.ny
  let xHop := s.hop 0 ((s.ownX + s.nx - x.root s.nx) % s.nx) s.nx
  let onY : Option State :=
    match x.own.bind (fun o => o[x.yPos]?) with
    | none => none
    | some o =>
      match x.atHop yHop x.yIn o with
      | none => none
      | some none => some (s.chainFail E.ROUTER_CHAIN_BAD 3)
      | some (some v) =>
        let x' := { x with yPos := x.yPos + 1, yIn := x.yIn.drop (if yHop.hasIn then 1 else 0) }
        if yHop.hasOut then some ((s.setBlock x').sendPkt x.kind x.kind 0 x.no (x.info x.yPos) yHop.next v)
        else if x.scope then some (s.setBlock { x' with crew := x'.crew ++ [v] })
        else some (s.blockFinal x' 0 v)
  match onY with
  | some s => some s
  | none =>
    match x.crew with
    | [] => none
    | o :: r =>
      match x.atHop xHop x.xIn o with
      | none => none
      | some none => some (s.chainFail E.ROUTER_CHAIN_BAD 3)
      | some (some v) =>
        let x' := { x with crew := r, xPos := x.xPos + 1, xIn := x.xIn.drop (if xHop.hasIn then 1 else 0) }
        if xHop.hasOut then some ((s.setBlock x').sendPkt x.kind x.kind 1 x.no (x.info x.xPos) xHop.next v)
        else some (s.blockFinal x' 0 v)

/-- The packets of one chain move on. -/
def State.pumpBlock (s : State) (topk : Bool) (no : Nat) : Nat → State
  | 0 => s
  | n + 1 =>
    if s.chainStatus.isSome then s
    else
      match s.blockStep (s.chain.block topk no) with
      | none => s
      | some s => s.pumpBlock topk no n

/-- The trains of a step on this module. -/
def State.stepTrains (s : State) (n : Nat) : List (Nat × Train) :=
  s.coxes.flatMap (fun x => (x.2.trains.filter (fun tr => !tr.noStep && tr.step.toNat == n && tr.failed.isNone)).map (fun tr => (x.1, tr)))

/-- The TRAIN bodies announced to a Cox ring that no train has been made of: the command that waits to start, and the slots not yet read. -/
def State.unreadTrains (s : State) (g : RingId) : List (List Byte) :=
  let n := s.nextSlot g
  let cmd := match (s.ring g).cmd with | some c => if c.opcode = 0x01 then [c.body] else [] | none => []
  cmd ++ (List.range (min (s.ringSize g) ((s.announced g + 2 ^ 32 - n) % 2 ^ 32))).filterMap (fun i =>
    match s.unitRead (s.ringRd g R.RING_BASE / 64 * 64 + 64 * ((n + i) % s.ringSize g)) 64 with
    | .ok bs => if recFld bs 8 8 7 0 = 0x01 then some (bs.drop 16) else none
    | _ => none)

/-- Does a TRAIN body name step n? -/
def trainOf (n : Nat) (b : List Byte) : Bool := recFld b 0x10 4 20 20 == 0 && recFld b 8 8 63 0 == n

/-- R29: does a tile's ring hold a train of step n with a gather stage that the Cox has yet to take? -/
def State.gatherUnread (s : State) (t : TileId) (n : Nat) : Bool :=
  (List.finRange 4).any (fun r => (s.unreadTrains (.cox t r)).any (fun b => trainOf n b &&
    (let d := s.checkDesc t (recFld b 0 8 63 0) (recFld b 0x14 4 15 0)
     !d.bad && d.stages.any (fun g => g.engine == 1))))

/-- R29: is the last gather of a step on this module done? No gather stage of a train of the step is still to be done, be the train running,
waiting, or announced in a ring and not yet read. What software has not announced cannot be known (DESIGN CHOICE; log entry 218). -/
def State.gathersDone (s : State) (n : Nat) : Bool :=
  (s.stepTrains n).all (fun x => x.2.stages.all (fun g => g.desc.engine != 1 || g.done)) && (List.finRange 8).all (fun t => !s.gatherUnread t n)

/-- A send entry (R422). -/
structure SendEnt where
  kind : Nat
  inSlot : Nat
  bf16 : Bool
  last : Bool
  scope : Bool
  k : Nat
  no : Nat
  count : Nat
  addr : Nat
  aux : Nat
deriving DecidableEq, Repr

/-- A send entry from its 32 bytes. -/
def SendEnt.ofBytes (b : List Byte) : SendEnt :=
  let w := recFld b 0 4 31 0
  { kind := fld w 31 28, inSlot := fld w 27 26, bf16 := w.testBit 25, last := w.testBit 24, scope := w.testBit 23, k := fld w 18 12, no := fld w 11 0,
    count := recFld b 4 4 31 0, addr := recFld b 8 8 63 0, aux := recFld b 0x10 8 63 0 }

/-- The address of a send or receive entry. -/
def StageRun.entryAddr (g : StageRun) (n : Nat) : Nat := g.desc.prog.toNat + 32 * n

/-- Bytes of a send or receive entry. -/
def State.chainEntry (s : State) (g : StageRun) (n : Nat) : RdRes := s.unitRead (g.entryAddr n) 32

/-- R446: does a launched train of the step still hold a top-k list of group g? Until none does, the module's own list is not complete
(DESIGN CHOICE; log entry 32). -/
def State.topkWaits (s : State) (n g : Nat) : Bool :=
  (s.stepTrains n).any (fun x => x.2.launched && x.2.stages.any (fun st =>
    st.desc.engine == 2 && !st.done && (List.range st.desc.items).any (fun i => decide (st.nextItem ≤ i) &&
      (match s.chainEntry st i with | .ok b => (SendEnt.ofBytes b).kind == 3 && (SendEnt.ofBytes b).no == g | _ => false))))

/-- R427, R438: the partials of a layer summed in ascending PART. -/
def sumParts (x : BChain) : List Byte :=
  let at' (p : Nat) : List W32 := match x.parts.find? (fun e => e.1 == p) with | some e => wordsOfFmt 0 x.size e.2 | none => []
  f32Bytes ((List.range x.nparts).foldl (fun acc p => if p = 0 then at' 0 else List.zipWith (fun a b => (fAdd 0 0 a b).1) acc (at' p)) [])

/-- The local value of a chain is formed once all of it is here and the step's gathers are done (R29, R438, R446). -/
def State.formOwn (s : State) (x : BChain) : State :=
  match s.chain.step, x.own with
  | some n, none =>
    if x.parts.isEmpty ∨ !s.gathersDone n then s
    else if x.topk then
      if s.topkWaits n x.no then s else s.setBlock { x with own := some [topBest x.size (x.parts.flatMap (fun p => topList p.2))] }
    else if x.parts.length = x.nparts then s.setBlock { x with own := some (chunks 4096 (sumParts x)) }
    else s
  | _, _ => s

/-- Every dense and top-k chain goes on as far as it can. -/
def State.chainAdvance (s : State) : State :=
  if s.chainStatus.isSome then s
  else
    s.chain.blocks.foldl (fun s x =>
      let s := s.formOwn (s.chain.block x.topk x.no)
      s.pumpBlock x.topk x.no (2 * (s.chain.block x.topk x.no).packets + 2)) s

/-! Enable, opening, closing, discarding (R426, R442, R452, R457). -/

/-- R457: what a router enable samples. -/
def State.enableChain (s : State) : State :=
  s.modChain (fun c => { c with base := s.rf .router R.ROUTER_CHAIN_AREA_BASE 63 16 * 65536, area := s.rf .router R.ROUTER_CHAIN_AREA_CFG 15 0 * 0x100000,
                                sparse := s.rf .router R.ROUTER_CHAIN_CFG 7 0 })

/-- A chain unit without a step. -/
def ChainSt.clear (c : ChainSt) : ChainSt :=
  { ChainSt.init with base := c.base, area := c.area, sparse := c.sparse }

/-- Is the tile that runs a logical tile in service: enabled and not fenced? -/
def State.tileServes (s : State) (l : Nat) : Bool :=
  let p := Page.cox (tileOf (s.physTile l))
  s.enabled p && !s.rb p R.SH_STATUS 4

/-- The chain unit takes up step n: TIMEOUT_US sampled, the tiles of SPARSE_TILES in service that must send LAST (R426). -/
def State.openChain (s : State) (n : Nat) : State :=
  let tiles := (List.range 8).filter (fun t => s.chain.sparse.testBit t && s.tileServes t)
  s.modChain (fun c => { c.clear with step := some n, timeoutUs := s.rf .router R.ROUTER_CHAIN_CFG 31 16, need := tiles, streams := s.newStreams })

/-- R452: streams, packets and records of steps r and later are discarded. -/
def State.dropChain (s : State) (r : Nat) : State :=
  let s := { s with arrived := s.arrived.filter (fun m => match m.body with | .chain p => decide (p.step.toNat < r) | _ => true) }
  match s.chain.step with
  | some n => if r ≤ n then s.modChain ChainSt.clear else s
  | none => s

/-- Is a dense or top-k chain over at this module: its own value formed, every final packet here and sent on? -/
def BChain.over (x : BChain) : Bool := x.own.isSome && decide (x.got = x.packets)

/-- R31: has the chain unit sent every packet of the step, and handed on every total? -/
def State.chainDone (s : State) : Bool := s.chain.streams.all (fun x => x.closed) && s.chain.blocks.all BChain.over

/-! Local merge (R425 to R427). -/

/-- Records in ascending order of key and ORD. -/
def insertCRec (r : CRec) : List CRec → List CRec
  | [] => [r]
  | x :: l => if x.key < r.key ∨ (x.key = r.key ∧ x.ord < r.ord) then x :: insertCRec r l else r :: x :: l

/-- R427: local sums of sorted records, one per key. -/
def localSums : List CRec → List CVal → List CVal
  | [], acc => acc.reverse
  | r :: l, [] => localSums l [{ key := r.key, vals := r.vals, nuse := 1 }]
  | r :: l, v :: acc =>
    let w : CVal := { key := r.key, vals := r.vals, nuse := 1 }
    localSums l (if v.key = r.key then v.combine w :: acc else w :: v :: acc)

/-- LOCAL_MERGE (R425, R427): once the gathers of the step are done and every required tile has sent LAST, the module's records are
summed per key and become its own value of the Z leg (R420). It is also when dense and top-k chains that waited for the gathers start. -/
def State.localMerge (s : State) : State :=
  match s.chain.step, s.openNow with
  | some n, some m =>
    if n ≠ m ∨ s.chainStatus.isSome ∨ !s.gathersDone n then s
    else if s.chain.merged ∨ !s.chain.need.all (fun t => s.chain.last.contains t) then s.chainAdvance
    else
      let sums := localSums (s.chain.recs.foldl (fun l r => insertCRec r l) []) []
      let s := (s.modChain (fun c => { c with merged := true })).count .router R.ROUTER_CHAIN_KEYS sums.length
      let s := s.modStream 2 0 false (fun x => { x with own := sums, ownReady := true })
      s.pumpAll.chainAdvance
  | _, _ => s

/-- LOCAL_MERGE. -/
def execLocalMerge (s : State) : Out := s.liveIn .mesh s.localMerge

/-! Chain send stages (R421 to R424, R627). -/

/-- An entry of a stage is done; the stage is complete after its last. -/
def State.entryDone (s : State) (t : TileId) (uid stage : Nat) : State :=
  let s := s.modTrain t uid (fun tr => tr.modStage stage (fun g => { g with nextItem := g.nextItem + 1, doneItems := g.doneItems + 1, carry := none }))
  match ((s.cox t).train uid).bind (fun tr => tr.stages[stage]?) with
  | some g => if g.desc.items ≤ g.doneItems then s.finishStage t uid stage else s
  | none => s

/-- R627: OUT terms of words, word i under the address base ^ i. -/
def termsAt (base : W64) (bs : List Byte) : W64 :=
  let ws := words64 bs
  (ws.zip (List.range ws.length)).foldl (fun acc w => acc + wordTerm (base ^^^ BitVec.ofNat 64 w.2) (BitVec.ofNat 64 w.1)) 0

/-- Contribution records of a ring entry, with their value bytes; none where one names no valid table or runs past the entry. -/
def State.parseRecs (s : State) (bf16 : Bool) : Nat → List Byte → Option (List (CRec × List Byte))
  | 0, _ => some []
  | n + 1, b =>
    if b.length < 16 ∨ (recFld b 0 8 0 0 = 1) then some []
    else
      let table := recFld b 0 8 63 52
      let row := recFld b 0 8 51 12
      match (if s.enabled .hrd then s.tdesc table else none) with
      | none => none
      | some d =>
        let len := d.elems * (if bf16 then 2 else 4)
        if b.length < 16 + len ∨ d.rows ≤ row then none
        else
          let vs := (b.drop 16).take len
          (s.parseRecs bf16 n (b.drop (16 + len))).map (fun l =>
            ({ key := rowKey table row, ord := recFld b 8 4 31 0, vals := wordsOfFmt (if bf16 then 1 else 0) d.elems vs }, vs) :: l)

/-- R421, R424, R627: a record accepted, or a repeated ORD. -/
def State.takeRec (s : State) (n tile : Nat) (r : CRec × List Byte) : State :=
  if s.chain.recs.any (fun x => x.key == r.1.key && x.ord == r.1.ord) then s.chainFail E.ROUTER_CHAIN_DUP 3
  else
    let s := s.modChain (fun c => { c with recs := c.recs ++ [r.1], recBytes := c.recBytes + 16 + r.2.length })
    (s.count .router R.ROUTER_CHAIN_RECORDS 1).addOut n tile
      (termsAt (mix64 (BitVec.ofNat 64 r.1.key) ^^^ BitVec.ofNat 64 (r.1.ord * 4096)) r.2)

/-- A KIND 1 entry takes the next entry of its input ring. One that comes when the step's records are merged already names records that no
merge would take: it is refused (DESIGN CHOICE; log entry 219). -/
def State.sendSparse (s : State) (t : TileId) (tr : Train) (stage : Nat) (g : StageRun) (e : SendEnt) : State :=
  let n := tr.step.toNat
  let tile := s.logTile t.val
  let pos := (g.carry.map (fun c => c.pos)).getD 0
  let past (s : State) : State :=
    (if e.last then s.modChain (fun c => { c with last := if c.last.contains tile then c.last else c.last ++ [tile] }) else s).entryDone t tr.uid stage
  let ringNo := nth 0xFF g.desc.inRings e.inSlot
  match tr.rings[ringNo]? with
  | none => s.chainRefuse t tr.uid stage
  | some r =>
    if s.chain.merged then s.chainRefuse t tr.uid stage
    else if e.count ≠ 0 ∧ e.count ≤ pos then past s
    else
      match r.take stage with
      | none => if tr.ended r stage then (if e.count = 0 then past s else s.chainRefuse t tr.uid stage) else s
      | some (i, r') =>
        let s := s.modTrain t tr.uid (fun tr => tr.modRing ringNo (fun _ => r'))
        let off := r.entryOff i
        let bad := s.tsramBad t.val off r.desc.entryBytes
        let bs := s.tsramView t.val off r.desc.entryBytes
        let s := s.tsramSeen t.val off r.desc.entryBytes
        if bad then s.failStage t tr.uid stage
        else
          match s.parseRecs e.bf16 (r.desc.entryBytes / 16) bs with
          | none => ((s.err .router E.ROUTER_CHAIN_BAD).failStep n).failStage t tr.uid stage
          | some rs =>
            let s := (rs.foldl (fun s r => s.takeRec n tile r) s).checkArea
            let s := s.modTrain t tr.uid (fun tr => tr.modRing ringNo (fun r => r.release stage i))
            let s := s.setCarry t tr.uid stage { engine := 0, desc := none, sel := false, pos := pos + 1, ring := ringNo, entry := none, filled := 0, closed := [] }
            if e.count ≠ 0 ∧ e.count ≤ pos + 1 then past s else s

/-- R438, R444, R627: a KIND 2 entry's partial is copied. -/
def State.sendDense (s : State) (t : TileId) (tr : Train) (stage : Nat) (e : SendEnt) : State :=
  let part := e.count / 65536
  let nparts := e.count % 65536
  let x := s.chain.block false e.no
  if nparts = 0 ∨ nparts ≤ part ∨ e.aux = 0 ∨ 2 ^ 28 < e.aux then s.chainRefuse t tr.uid stage
  else if x.parts.isEmpty ∧ 1024 ≤ (s.chain.blocks.filter (fun y => !y.topk && !y.parts.isEmpty)).length then
    (s.err .router E.ROUTER_CHAIN_STREAMS).failStage t tr.uid stage
  else if !x.parts.isEmpty ∧ (x.nparts ≠ nparts ∨ x.size ≠ e.aux) then (s.chainFail E.ROUTER_CHAIN_BAD 3).failStage t tr.uid stage
  else if x.parts.any (fun p => p.1 == part) then (s.chainFail E.ROUTER_CHAIN_DUP 3).failStage t tr.uid stage
  else
    match s.readUnit e.addr (4 * e.aux) with
    | (.ok b, s) =>
      let s := s.setBlock { x with size := e.aux, nparts := nparts, scope := true, parts := x.parts ++ [(part, b)] }
      let s := s.addOut tr.step.toNat (s.logTile t.val) (termsAt (BitVec.ofNat 64 (2 * 2 ^ 60 + e.no * 2 ^ 44 + part * 2 ^ 28)) b)
      (s.checkArea.entryDone t tr.uid stage).chainAdvance
    | (_, s) => s.failStage t tr.uid stage

/-- R446: packets that came along the X leg of a group that this module sends with SCOPE 0: its lists name another SCOPE elsewhere. -/
def BChain.scopeBad (x : BChain) (scope : Bool) : Bool := x.topk && !scope && !x.xIn.isEmpty

/-- R446, R627: a KIND 3 entry's list, in the format of R171: 64 values, then 64 positions. -/
def State.sendTopk (s : State) (t : TileId) (tr : Train) (stage : Nat) (e : SendEnt) : State :=
  let x := s.chain.block true e.no
  if e.k = 0 ∨ 64 < e.k ∨ e.count ≠ 0 then s.chainRefuse t tr.uid stage
  else if x.own.isSome ∨ x.scopeBad e.scope ∨ (!x.parts.isEmpty ∧ (x.size ≠ e.k ∨ x.scope ≠ e.scope)) then (s.chainFail E.ROUTER_CHAIN_BAD 3).failStage t tr.uid stage
  else
    match s.readUnit e.addr 512 with
    | (.ok b, s) =>
      let ent (i : Nat) : List Byte :=
        let p := sgn 32 (recFld b (256 + 4 * i) 4 31 0)
        topBytes (BitVec.ofNat 32 (recFld b (4 * i) 4 31 0), if p = -1 then -1 else p + e.aux)
      let s := s.setBlock { x with size := e.k, scope := e.scope, parts := x.parts ++ [(x.parts.length, (List.range e.k).flatMap ent)] }
      let s := s.addOut tr.step.toNat (s.logTile t.val) (termsAt (BitVec.ofNat 64 (3 * 2 ^ 60 + e.no * 2 ^ 44)) b)
      (s.checkArea.entryDone t tr.uid stage).chainAdvance
    | (_, s) => s.failStage t tr.uid stage

/-- What the reserved bits and the KIND of a send entry must be (R422). -/
def sendEntOk (b : List Byte) : Bool :=
  let k := recFld b 0 4 31 28
  decide (1 ≤ k) && decide (k ≤ 3) && recFld b 0 4 22 19 == 0 && recFld b 0x18 8 63 0 == 0

/-- R61: does the router block do work that it has accepted: it is enabled, or its shutdown completes that work? -/
def State.routerRuns (s : State) : Bool := s.enabled .router || (s.rb .router R.SH_STATUS 1 && !s.rb .router R.SH_STATUS 5)

/-- May the block take the next entry of a chain send stage? A shutdown that completes accepted work finishes the stages begun. -/
def State.routerSends (s : State) (g : StageRun) : Bool :=
  s.enabled .router || (s.routerRuns && (decide (0 < g.nextItem) || g.carry.isSome))

/-- The current entry of a chain send stage, where it is of the kind that a row serves. -/
def State.chainSend (s : State) (t : TileId) (k : Fin 4) (stage kind : Nat) : State :=
  match (s.cox t).running k.val with
  | none => s
  | some tr =>
    match tr.stages[stage]? with
    | none => s
    | some g =>
      if g.desc.engine ≠ 2 ∨ !g.started ∨ g.done ∨ tr.failed.isSome then s
      else if !s.routerSends g then (s.err .router E.WORK_REFUSED).failStage t tr.uid stage
      else if tr.noStep ∨ s.chain.area = 0 ∨ g.desc.items = 0 then s.chainRefuse t tr.uid stage
      else if !s.opened tr.step.toNat then s
      else if s.openNow ≠ some tr.step.toNat ∨ s.chain.step ≠ some tr.step.toNat then s.chainRefuse t tr.uid stage
      else if s.chainStatus.isSome then s.failStage t tr.uid stage
      else
        match s.readUnit (g.entryAddr g.nextItem) 32 with
        | (.ok b, r) =>
          let e := SendEnt.ofBytes b
          if !sendEntOk b then r.chainRefuse t tr.uid stage
          else if e.kind ≠ kind then s
          else if kind = 1 then r.sendSparse t tr stage g e
          else if kind = 2 then r.sendDense t tr stage e
          else r.sendTopk t tr stage e
        | (_, r) => r.failStage t tr.uid stage

/-- CHAIN_SEND_SPARSE (R421 to R424): the next ring entry of a KIND 1 send entry. -/
def execChainSendSparse (t : TileId) (k : Fin 4) (stage : Fin 16) (s : State) : Out := s.liveIn .mesh (s.chainSend t k stage.val 1)

/-- CHAIN_SEND_DENSE (R438, R444). -/
def execChainSendDense (t : TileId) (k : Fin 4) (stage : Fin 16) (s : State) : Out := s.liveIn .mesh (s.chainSend t k stage.val 2)

/-- CHAIN_SEND_TOPK (R446). -/
def execChainSendTopk (t : TileId) (k : Fin 4) (stage : Fin 16) (s : State) : Out := s.liveIn .mesh (s.chainSend t k stage.val 3)

/-! Chain receive stages (R440 to R443, R446). -/

/-- R386: a notice. -/
def noticeBytes (step layer status addr : Nat) : List Byte :=
  leBytes 8 step ++ leBytes 4 layer ++ leBytes 4 status ++ leBytes 8 addr ++ List.replicate 40 0#8

/-- A notice published in output ring slot 0 of a stage; none where the stage has no such ring, some none where no entry is free. -/
def State.putNotice (s : State) (t : TileId) (tr : Train) (g : StageRun) (step layer status addr : Nat) : Option (Option State) :=
  let ringNo := nth 0xFF g.desc.outRings 0
  match tr.rings[ringNo]? with
  | none => none
  | some r =>
    match r.reserve with
    | none => some none
    | some (i, r') =>
      let s := s.modTrain t tr.uid (fun tr => tr.modRing ringNo (fun _ => r'))
      let s := s.tsramWrite t.val (r.entryOff i) (noticeBytes step layer status addr)
      some (some (s.modTrain t tr.uid (fun tr => tr.modRing ringNo (fun r => r.publish i))))

/-- The entries of a receive stage that are still to be served. -/
def StageRun.unserved (g : StageRun) : List Nat :=
  let done := match g.carry with | some c => c.closed.map Prod.fst | none => []
  (List.range g.desc.items).filter (fun i => !done.contains i)

/-- Those entries with their bytes; none where one cannot be read. -/
def State.recvEntries (s : State) (g : StageRun) : Option (List (Nat × List Byte)) :=
  g.unserved.mapM (fun i => match s.chainEntry g i with | .ok b => some (i, b) | _ => none)

/-- What reading them does. -/
def State.recvSeen (s : State) (g : StageRun) : State := g.unserved.foldl (fun s i => s.seen (g.entryAddr i) 32) s

/-- R440: what a receive entry must be. -/
def State.recvOk (s : State) (t : TileId) (b : List Byte) : Bool :=
  let k := recFld b 0 4 31 28
  let dest := recFld b 8 8 63 0
  (k == 2 || k == 3) && recFld b 0 4 27 12 == 0 && recFld b 4 4 31 0 == 0 && recFld b 0x18 8 63 0 == 0 &&
    (if k = 2 then dest % 64 == 0 && s.inTileMem t dest (4 * recFld b 0x10 8 63 0) else s.inTileMem t dest 1024)

/-- A receive entry of a stage is served. -/
def State.entryServed (s : State) (t : TileId) (uid stage entry : Nat) : State :=
  s.modTrain t uid (fun tr => tr.modStage stage (fun g =>
    let c := g.carry.getD { engine := 0, desc := none, sel := false, pos := 0, ring := 0, entry := none, filled := 0, closed := [] }
    { g with doneItems := g.doneItems + 1, carry := some { c with closed := c.closed ++ [(entry, 0)] } }))

/-- Is a receive entry of KIND 2 (dense) or 3 (top-k), for chain number no, still to be served by a train of step n? -/
def State.awaited (s : State) (n : Nat) (topk : Bool) (no : Nat) : Bool :=
  (s.stepTrains n).any (fun x => x.2.stages.any (fun g => g.desc.engine == 3 && !g.done &&
    (match s.recvEntries g with
     | some es => es.any (fun e => recFld e.2 0 4 31 28 == (if topk then 3 else 2) && recFld e.2 0 4 11 0 == no)
     | none => false)))

/-- R442: a final that the receive entries of its layer or group have taken leaves the chain area. The entries that count are those of the
trains that the module has taken (DESIGN CHOICE; log entry 220). -/
def State.releaseFinal (s : State) (n : Nat) (topk : Bool) (no : Nat) : State :=
  if s.awaited n topk no then s
  else (s.setBlock { s.chain.block topk no with fin := [] }).modChain (fun c => { c with finished := c.finished.filter (fun f => f != (topk, no)) })

/-- A receive entry is served: its chain's final may go, and the stage is complete after its last. -/
def State.recvDone (s : State) (t : TileId) (uid stage entry n : Nat) (topk : Bool) (no : Nat) : State :=
  let s := (s.entryServed t uid stage entry).releaseFinal n topk no
  match ((s.cox t).train uid).bind (fun tr => tr.stages[stage]?) with
  | some g => if g.desc.items ≤ g.doneItems then s.finishStage t uid stage else s
  | none => s

/-- The final of a chain written at DEST (R441, R446, R628). -/
def State.recvWrite (s : State) (n : Nat) (x : BChain) (dest : Nat) : Option State :=
  let b := if x.topk then topBest 64 (topList x.fin.flatten) else x.fin.flatten
  let base := (if x.topk then 3 else 2) * 2 ^ 60 + x.no * 2 ^ 44
  (s.unitWrite dest b).map (fun s => s.addIn n (termsAt (BitVec.ofNat 64 base) b))

/-- Has the chain of a layer or group finished, and its final left the chain area (R442)? -/
def State.finalGone (s : State) (topk : Bool) (no : Nat) : Bool :=
  (s.chain.block topk no).over && !s.chain.finished.contains (topk, no)

/-- One entry served from a finished chain. -/
def State.recvOne (s : State) (t : TileId) (tr : Train) (stage : Nat) (g : StageRun) (topk : Bool) (i : Nat) (b : List Byte) : State :=
  let n := tr.step.toNat
  let no := recFld b 0 4 11 0
  let dest := recFld b 8 8 63 0
  let x := s.chain.block topk no
  if !topk ∧ x.size ≠ recFld b 0x10 8 63 0 then s.chainRefuse t tr.uid stage
  else
    match s.recvWrite n x dest with
    | none => s.chainRefuse t tr.uid stage
    | some s' =>
      if topk then s'.recvDone t tr.uid stage i n true no
      else
        match s'.putNotice t tr g n no 0 dest with
        | none => s.failStage t tr.uid stage
        | some none => s
        | some (some s') => s'.recvDone t tr.uid stage i n false no

/-- R443: the notices of a receive stage's KIND 2 entries that are still to be served, with the STATUS of a chain that failed; false where an
entry of the output ring is still to come. -/
def State.failNotices (s : State) (t : TileId) (uid stage status : Nat) : List (Nat × List Byte) → State × Bool
  | [] => (s, true)
  | (i, b) :: r =>
    if recFld b 0 4 31 28 ≠ 2 then s.failNotices t uid stage status r
    else
      match ((s.cox t).train uid).bind (fun tr => (tr.stages[stage]?).map (fun g => (tr, g))) with
      | none => (s, true)
      | some (tr, g) =>
        match s.putNotice t tr g tr.step.toNat (recFld b 0 4 11 0) status (recFld b 8 8 63 0) with
        | none => (s, true)
        | some none => (s, false)
        | some (some s) => (s.entryServed t uid stage i).failNotices t uid stage status r

/-- R443: a receive stage fails with its chain, after its notices. -/
def State.recvFail (s : State) (t : TileId) (uid stage status : Nat) (es : List (Nat × List Byte)) : State :=
  let (s, all) := s.failNotices t uid stage status es
  if all then s.failStage t uid stage else s

/-- R440 to R446: a receive stage takes the entry of the chain that finished first, or fails with the chain (R443). An entry for a final that
has left the chain area is refused (log entry 220). -/
def State.chainReceive (s : State) (t : TileId) (k : Fin 4) (stage : Nat) (topk : Bool) : State :=
  match (s.cox t).running k.val with
  | none => s
  | some tr =>
    match tr.stages[stage]? with
    | none => s
    | some g =>
      if g.desc.engine ≠ 3 ∨ !g.started ∨ g.done ∨ tr.failed.isSome then s
      else if !s.routerRuns then (s.err .router E.WORK_REFUSED).failStage t tr.uid stage
      else if tr.noStep ∨ g.desc.items = 0 then s.chainRefuse t tr.uid stage
      else if !s.opened tr.step.toNat then s
      else if s.openNow ≠ some tr.step.toNat ∨ s.chain.step ≠ some tr.step.toNat then s.chainRefuse t tr.uid stage
      else
        match s.recvEntries g with
        | none => (s.recvSeen g).failStage t tr.uid stage
        | some es =>
          let r := s.recvSeen g
          if es.any (fun e => !s.recvOk t e.2) then r.chainRefuse t tr.uid stage
          else
            match s.chainStatus with
            | some st => r.recvFail t tr.uid stage st es
            | none =>
              let mine := es.filter (fun e => (recFld e.2 0 4 31 28 == 3) == topk)
              if mine.any (fun e => s.finalGone topk (recFld e.2 0 4 11 0)) then r.chainRefuse t tr.uid stage
              else
                match s.chain.finished.findSome? (fun f => if f.1 = topk then mine.find? (fun e => recFld e.2 0 4 11 0 == f.2) else none) with
                | none => s
                | some (i, b) => r.recvOne t tr stage g topk i b

/-- R443, R451: the receive stages of a step that is abandoned write the notices that their output rings have room for, STATUS 3 (DEDUCED;
log entry 221). -/
def State.abandonNotices (s : State) (n : Nat) : State :=
  if s.chain.step ≠ some n then s
  else
    (s.stepTrains n).foldl (fun s x =>
      (List.range x.2.stages.length).foldl (fun s k =>
        match ((s.cox (tileOf x.1)).train x.2.uid).bind (fun tr => tr.stages[k]?) with
        | none => s
        | some g =>
          if g.desc.engine ≠ 3 ∨ !g.started ∨ g.done then s
          else
            match s.recvEntries g with
            | none => s
            | some es => ((s.recvSeen g).failNotices (tileOf x.1) x.2.uid k 3 es).1) s) s

/-- CHAIN_RECEIVE_DENSE. -/
def execChainReceiveDense (t : TileId) (k : Fin 4) (stage : Fin 16) (s : State) : Out := s.liveIn .mesh (s.chainReceive t k stage.val false)

/-- CHAIN_RECEIVE_TOPK. -/
def execChainReceiveTopk (t : TileId) (k : Fin 4) (stage : Fin 16) (s : State) : Out := s.liveIn .mesh (s.chainReceive t k stage.val true)

/-! Packets received (R448, R449). -/

/-- The sequence of a packet: a sparse end packet belongs to the sum of its stream until that has closed, then to the final. -/
def State.seqKind (s : State) (p : ChainPkt) : Nat :=
  match p.kind.toNat with
  | 7 =>
    match s.chain.stream p.leg.toNat p.stream.toNat false with
    | some x => if x.inClosed then 2 else 1
    | none => 2
  | k => k

/-- R449: what the step of a packet makes of it. -/
inductive PktStep where
  | now | hold | stale
deriving DecidableEq, Repr

/-- R449: is a packet of the open step, of the next one, or of neither? -/
def State.pktStep (s : State) (p : ChainPkt) : PktStep :=
  if s.openNow = some p.step.toNat ∧ s.chain.step = some p.step.toNat then .now
  else if p.step.toNat = s.openStep + 1 then .hold
  else .stale

/-- R447: has the chain unit a receive buffer for a packet? A sparse stream has one of its own on the die, and holds a packet in it until its
records are merged; a dense or top-k chain has one in the chain area, and as many more as the rest of the area has room for. A failed chain
keeps no packet. -/
def State.pktRoom (s : State) (p : ChainPkt) : Bool :=
  if s.chainStatus.isSome ∨ s.pktStep p ≠ .now then true
  else
    match p.kind.toNat with
    | 3 | 5 =>
      let x := s.chain.block (p.kind.toNat == 5) p.stream.toNat
      x.queued == 0 || decide (s.chain.used + 4160 ≤ s.chain.area)
    | 4 | 6 => true
    | _ =>
      match s.chain.stream p.leg.toNat p.stream.toNat (s.seqKind p == 2) with
      | some x => x.inq.isEmpty
      | none => true

/-- A packet of the given kinds is taken and checked: CSUM, step, DST and PSEQ (R448, R449); then act uses it. A packet of the next
step, or one for which there is no receive buffer yet (R447), stays where it is. -/
def State.takePkt (s : State) (m : Msg) (kinds : List Nat) (act : State → ChainPkt → Nat → State) : State :=
  match m.body with
  | .chain p =>
    if !s.arrived.contains m ∨ !kinds.contains p.kind.toNat ∨ !s.routerRuns ∨ !s.pktRoom p then s
    else
      let got (s : State) : State := (s.taken m).count .router R.ROUTER_CHAIN_RX_PKTS 1
      if p.csum.toNat ≠ pktCrc p then (got s).chainFail E.ROUTER_CHAIN_CSUM 1
      else
        match s.pktStep p with
        | .hold => s
        | .stale => ((got s).count .router R.ROUTER_CHAIN_STALE 1).err .router E.ROUTER_CHAIN_STEP
        | .now =>
          let q := s.seqKind p
          let k := seqNo q p.leg.toNat p.stream.toNat
          let want := SMap.get (fun _ => 0) s.chain.rx k
          if p.dst.toNat ≠ s.coord ∨ p.pseq.toNat ≠ want then (got s).chainFail E.ROUTER_CHAIN_SEQ 1
          else if s.chainStatus.isSome then got s
          else act ((got s).modChain (fun c => { c with rx := SMap.set (fun _ => 0) c.rx k (want + 1) })) p q
  | _ => s

/-- Sparse records enter their stream; a stream that takes nothing in expects no packet. -/
def State.takeVals (s : State) (p : ChainPkt) (final : Bool) : State :=
  match s.chain.stream p.leg.toNat p.stream.toNat final with
  | none => s.chainFail E.ROUTER_CHAIN_SEQ 1
  | some x =>
    if x.inClosed then s.chainFail E.ROUTER_CHAIN_SEQ 1
    else
      match s.parseVals (p.body.length / 16 + 1) p.body with
      | none => s.chainFail E.ROUTER_CHAIN_BAD 1
      | some vs => (s.modStream p.leg.toNat p.stream.toNat final (fun x => { x with inq := x.inq ++ vs })).pumpAll

/-- SPARSE_SUM (R428, R433, R434). -/
def execSparseSum (m : Msg) (s : State) : Out := s.liveIn .mesh (s.takePkt m [1] (fun s p _ => s.takeVals p false))

/-- SPARSE_FINAL (R435). -/
def execSparseFinal (m : Msg) (s : State) : Out := s.liveIn .mesh (s.takePkt m [2] (fun s p _ => s.takeVals p true))

/-- SPARSE_END (R432): the stream's input is complete. -/
def execSparseEnd (m : Msg) (s : State) : Out :=
  s.liveIn .mesh (s.takePkt m [7] (fun s p q =>
    match s.chain.stream p.leg.toNat p.stream.toNat (q == 2) with
    | none => s.chainFail E.ROUTER_CHAIN_SEQ 1
    | some x =>
      if x.inClosed then s.chainFail E.ROUTER_CHAIN_SEQ 1
      else (s.modStream p.leg.toNat p.stream.toNat (q == 2) (fun x => { x with inClosed := true })).pumpAll))

/-- A sum packet of a dense or top-k chain waits on its leg for the module's own value. -/
def State.takeSum (s : State) (p : ChainPkt) (topk : Bool) : State :=
  let x := s.chain.block topk p.stream.toNat
  if topk ∧ !x.parts.isEmpty ∧ (x.size ≠ p.info.toNat ∨ (p.leg = 1#2 ∧ x.scope = false)) then s.chainFail E.ROUTER_CHAIN_BAD 1
  else
    ((s.setBlock (if p.leg.toNat = 1 then { x with xIn := x.xIn ++ [p.body] } else { x with yIn := x.yIn ++ [p.body] })).checkArea).chainAdvance

/-- DENSE_SUM (R439). -/
def execDenseSum (m : Msg) (s : State) : Out := s.liveIn .mesh (s.takePkt m [3] (fun s p _ => s.takeSum p false))

/-- TOPK_SUM (R446). -/
def execTopkSum (m : Msg) (s : State) : Out := s.liveIn .mesh (s.takePkt m [5] (fun s p _ => s.takeSum p true))

/-- A final packet of a dense or top-k chain: kept and sent on (R418, R442). -/
def State.takeFinal (s : State) (p : ChainPkt) (topk : Bool) : State :=
  let x := s.chain.block topk p.stream.toNat
  let s := if topk then s else s.count .router R.ROUTER_CHAIN_DENSE_ELEMS (p.body.length / 4)
  if x.own.isNone ∨ x.packets ≤ x.got then s.chainFail E.ROUTER_CHAIN_SEQ 1
  else if topk ∧ p.leg = 1#2 ∧ x.scope = false then s.chainFail E.ROUTER_CHAIN_BAD 1
  else (s.blockFinal x (if p.leg.toNat = 1 then 1 else 2) p.body).checkArea

/-- DENSE_FINAL. -/
def execDenseFinal (m : Msg) (s : State) : Out := s.liveIn .mesh (s.takePkt m [4] (fun s p _ => s.takeFinal p false))

/-- TOPK_FINAL. -/
def execTopkFinal (m : Msg) (s : State) : Out := s.liveIn .mesh (s.takePkt m [6] (fun s p _ => s.takeFinal p true))

/-- R450: is the module's own data for a stream ready and the stream not closed? -/
def State.streamWaits (s : State) (x : ChainStream) : Bool :=
  match x with
  | .sparse leg no => (match s.chain.stream leg.toNat no.toNat false with | some y => y.ownReady && !y.closed | none => false)
  | .sparseFinal no =>
    (match s.chain.stream 1 no.toNat false, s.chain.stream 1 no.toNat true with
     | some x, some y => x.ownReady && !y.closed
     | _, _ => false)
  | .dense n => s.chain.blocks.any (fun b => !b.topk && b.no == n.toNat && b.own.isSome && decide (b.got < b.packets))
  | .topk g => s.chain.blocks.any (fun b => b.topk && b.no == g.toNat && b.own.isSome && decide (b.got < b.packets))

/-- CHAIN_TIMEOUT (R450): TIMEOUT_US has passed. A TIMEOUT_US of 0 sets no limit. -/
def execChainTimeout (x : ChainStream) (s : State) : Out :=
  s.liveIn .mesh (if s.chain.timeoutUs = 0 ∨ s.chainStatus.isSome ∨ !s.streamWaits x then s else s.chainFail E.ROUTER_CHAIN_TIMEOUT 2)

end Sys2Proof.Machine
end

