-- ==== Sys2Proof/Machine/Selaz.lean ====
section
/-! DEFINITION. The Selaz ports (R516 to R540, R784), the router (R541 to R546), trees (R548, R785, R786), fabric time (R552 to R557)
and the fabric configuration (R558 to R560). -/

namespace Sys2Proof.Machine

/-- A port. -/
def State.port (s : State) (p : PortId) : PortSt := SMap.get (fun _ => PortSt.init) s.ports p.val
/-- A port changes. -/
def State.setPort (s : State) (p : PortId) (x : PortSt) : State := { s with ports := SMap.set (fun _ => PortSt.init) s.ports p.val x }
/-- A port changes by a function. -/
def State.modPort (s : State) (p : PortId) (f : PortSt → PortSt) : State := s.setPort p (f (s.port p))
/-- STATE of a port. -/
def State.setPortState (s : State) (p : PortId) (v : Nat) : State := s.wf (.port p) R.PORT_PORT_STATUS 30 28 v

/-! Messages (R534, R535). -/

/-- R535: MTYPE. -/
def mtypeOf : MsgBody → Nat
  | .barrierUp .. => 0 | .barrierDown .. => 0 | .abort .. => 1 | .digest .. => 1 | .regReq .. => 2 | .regResp .. => 3 | .chain .. => 4
  | .gatherReq .. => 5 | .replaceReq .. => 5 | .gatherResp .. => 6 | .replaceResp .. => 6 | .aptReq .. => 7 | .aptResp .. => 8
  | .loanRead .. => 9 | .loanWrite .. => 10 | .loanResp .. => 11 | .registration .. => 12 | .reserved t => t.toNat

/-- R535: the class of an MTYPE; none where it is reserved. -/
def mtypeClass (t : Nat) : Option Nat :=
  match t with
  | 4 => some 1
  | 5 => some 2 | 6 => some 2 | 7 => some 2 | 8 => some 2
  | 9 => some 3 | 10 => some 3 | 11 => some 3
  | _ => if t ≤ 12 then some 0 else none

/-- Bytes of a body: whole units of 32 B (R534). Bodies whose layout no rule gives take one unit, and what they carry beside
(DESIGN CHOICE; log entry 35). -/
def bodyBytes : MsgBody → Nat
  | .chain p => pktBytes p
  | .gatherReq _ _ _ _ _ ids => alignUp (16 + 8 * ids.length) 32
  | .gatherResp _ rows => alignUp (rows.foldl (fun n r => n + 1 + r.2.length) 4) 32
  | .replaceReq _ _ _ _ _ b => alignUp (32 + b.length) 32
  | .loanWrite _ b => 32 + b.length
  | .loanResp _ b => 32 + b.length
  | _ => 32

/-- R534: flits of a message. -/
def msgFlits (m : Msg) : Nat := cdiv (8 + bodyBytes m.body) 242

/-- R544: the error response to a request; none for a message that is no request. -/
def refusalOf : MsgBody → Option MsgBody
  | .regReq .. => some (.regResp false 0)
  | .aptReq .. => some (.aptResp false 0)
  | .gatherReq _ _ _ tag _ _ => some (.gatherResp tag [])
  | .replaceReq _ _ _ _ tag _ => some (.replaceResp tag false)
  | .loanRead .. => some (.loanResp .refused [])
  | .loanWrite .. => some (.loanResp .refused [])
  | _ => none

/-- R44, R544: the error response to a request that this module does not pass on: it arrives here, or is injected towards its source. -/
def State.answerError (s : State) (m : Msg) : State :=
  match refusalOf m.body with
  | none => s
  | some b =>
    let r : Msg := { dst := m.src, src := m.dst, hops := 0, tag := m.tag, body := b }
    if m.src.toNat = s.coord then { s with arrived := s.arrived ++ [r] } else { s with inject := s.inject ++ [r] }

/-- R544: a message discarded by its route. -/
def State.routeMiss (s : State) (m : Msg) : State :=
  ((s.count .router R.ROUTER_ROUTE_DROPS 1).err .router E.ROUTER_ROUTE_MISS).answerError m

/-! Sending (R529, R531, R537, R539). -/

/-- The index of a class on a VC. -/
def vcLane (cls : Nat) (vc : Bool) : Nat := 2 * cls + b2n vc

/-- R531: the header of the next flit of a port: ACK, and credits to return, up to 31 of one class and VC. -/
def PortSt.header (x : PortSt) (cls : Nat) (vc som : Bool) (seq : BitVec 12) (len : Nat) : Flit × PortSt :=
  let i := ((List.range 8).find? (fun i => nth 0 x.owed i != 0)).getD 0
  let n := min 31 (nth 0 x.owed i)
  ({ cls := BitVec.ofNat 2 cls, vc := vc, som := som, seq := seq, ack := x.rxSeq - 1, crClass := BitVec.ofNat 2 (i / 2), crVc := decide (i % 2 = 1),
     crCount := BitVec.ofNat 5 n, len := BitVec.ofNat 8 len, crcOk := true },
   { x with owed := modNth (fun v => v - n) x.owed i, ackDue := false })

/-- A sequenced flit sent: numbered, held for replay (R529). -/
def PortSt.sendSeq (x : PortSt) (ftype : Nat) (t : TxFlit) : PortSt :=
  let (h, x) := x.header t.flit.cls.toNat t.flit.vc t.flit.som x.txSeq t.flit.len.toNat
  let f : TxFlit := { t with ftype := ftype, flit := h }
  { x with txSeq := x.txSeq + 1, replay := x.replay ++ [f], tx := x.tx ++ [f] }

/-- An unsequenced flit sent; seq is what its SEQ names. -/
def PortSt.sendPlain (x : PortSt) (ftype : Nat) (seq : BitVec 12) : PortSt :=
  let (h, x) := x.header 0 false false seq 0
  { x with tx := x.tx ++ [{ ftype := ftype, flit := h, msg := none }] }

/-- An empty flit: what a sequenced flit without payload is made from. -/
def blankFlit : TxFlit :=
  { ftype := 0, flit := { cls := 0, vc := false, som := false, seq := 0, ack := 0, crClass := 0, crVc := false, crCount := 0, len := 0, crcOk := true },
    msg := none }

/-- R537: has a class on a VC a flit and a credit? -/
def PortSt.ready (x : PortSt) (i : Nat) : Bool := !(nth [] x.queues i).isEmpty && decide (0 < nth 0 x.credits i)

/-- R539: W1 to W3; 0 reads as 1. -/
def State.weights (s : State) : List Nat :=
  [s.rf .router R.ROUTER_ARB_CFG 7 0, s.rf .router R.ROUTER_ARB_CFG 15 8, s.rf .router R.ROUTER_ARB_CFG 23 16].map (fun w => if w = 0 then 1 else w)

/-- R539: the class and VC whose flit goes next; VC1 before VC0. -/
def PortSt.choose (x : PortSt) (w : List Nat) : Option (Nat × PortSt) :=
  let lane (c : Nat) : Option Nat := if x.ready (2 * c + 1) then some (2 * c + 1) else if x.ready (2 * c) then some (2 * c) else none
  match lane 0 with
  | some i => some (i, x)
  | none =>
    let cs := [1, 2, 3].filter (fun c => (lane c).isSome)
    let x := if cs.all (fun c => nth 0 x.round (c - 1) == 0) then { x with round := w } else x
    match cs.find? (fun c => nth 0 x.round (c - 1) != 0) with
    | none => none
    | some c => (lane c).map (fun i => (i, { x with round := modNth (fun v => v - 1) x.round (c - 1) }))

/-- Data flits sent while there is one with a credit and room for its replay. -/
def State.pumpPort (s : State) (p : PortId) : Nat → State
  | 0 => s
  | n + 1 =>
    let x := s.port p
    if s.portState p ≠ 2 ∨ 2048 ≤ x.replay.length then s
    else
      match x.choose s.weights with
      | none => s
      | some (i, x) =>
        match nth [] x.queues i with
        | [] => s
        | f :: r =>
          let x := { x with queues := modNth (fun _ => r) x.queues i, credits := modNth (fun v => v - 1) x.credits i }
          let s := (s.setPort p (x.sendSeq 1 f)).count (.port p) R.PORT_TX_FLITS 1
          let s := match f.msg with | some m => s.count (.port p) R.PORT_TX_MSG_BYTES (8 + bodyBytes m.body) | none => s
          s.pumpPort p n

/-- Every queued flit that may go, goes. -/
def State.pumpQueues (s : State) (p : PortId) : State := s.pumpPort p ((s.port p).queues.foldl (fun n q => n + q.length) 0)

/-- A message queued on a port in its class and VC, and sent as far as it can be. -/
def State.queueMsg (s : State) (p : PortId) (vc : Bool) (m : Msg) : State :=
  let c := (mtypeClass (mtypeOf m.body)).getD 0
  let n := msgFlits m
  let last := 8 + bodyBytes m.body - 242 * (n - 1)
  let flits := (List.range n).map (fun i =>
    { blankFlit with flit := { blankFlit.flit with cls := BitVec.ofNat 2 c, vc := vc, som := decide (i = 0),
                                                   len := BitVec.ofNat 8 ((if i + 1 = n then last else 242) - 1) },
                     msg := if i + 1 = n then some m else none })
  (s.modPort p (fun x => { x with queues := (List.range 8).map (fun i => nth [] x.queues i ++ (if i = vcLane c vc then flits else [])) })).pumpQueues p

/-- R530, R525: flits of the replay buffer resent in order. R533: more than RETRY_STEP in a step are reported. -/
def State.resend (s : State) (p : PortId) (fs : List TxFlit) : State :=
  if fs = [] then s
  else
    let x := s.port p
    let n := x.replays + fs.length
    let lim := s.rf (.port p) R.PORT_RETRY_CFG 15 0
    let s := s.setPort p { x with replays := n, tx := x.tx ++ fs, ackDue := false }
    let s := s.count (.port p) R.PORT_REPLAYED_FLITS fs.length
    if x.replays ≤ lim ∧ lim < n then (s.err (.port p) E.PORT_RETRY_THRESH).suspect else s

/-! States of a port (R519 to R526). -/

/-- The flits a command sends are those it adds. -/
def State.portTurn (s : State) (p : PortId) : State := s.modPort p (fun x => { x with tx := [] })

/-- A port leaves ACTIVE for RETRAIN. -/
def State.enterRetrain (s : State) (p : PortId) : State :=
  if s.portState p ≠ 2 then s
  else
    let s := (s.setPortState p 3).modPort p (fun x => { x with failed := 0 })
    ((s.count (.port p) R.PORT_RETRAINS 1).err (.port p) E.PORT_RETRAIN).err (.port p) E.PORT_LINK_DOWN

/-- R526, R544, R784: what a port discards when it leaves service: its replay buffer and queues, flits of messages not yet whole. -/
def State.dropPort (s : State) (p : PortId) : State :=
  let x := s.port p
  let held := (x.replay ++ x.queues.flatten).filterMap (fun f => f.msg)
  let s := if (x.partly.filter (· != 0)).isEmpty then s else s.count .router R.ROUTER_ROUTE_DROPS (x.partly.filter (· != 0)).length
  let s := s.setPort p { x with replay := [], queues := PortSt.init.queues, partly := PortSt.init.partly, trained := false, nak := false, ackDue := false }
  held.foldl State.routeMiss s

/-- A port enters FAULT. -/
def State.portFault (s : State) (p : PortId) (bitNo : Nat) : State :=
  let s := (s.setPortState p 4).err (.port p) bitNo
  s.dropPort p

/-- R565: an enable of a port samples the CREDIT registers. -/
def State.sampleCredits (s : State) (p : PortId) : State :=
  let bufs := [R.PORT_CREDIT_0, R.PORT_CREDIT_1, R.PORT_CREDIT_2, R.PORT_CREDIT_3].flatMap (fun o => [s.rf (.port p) o 15 0, s.rf (.port p) o 31 16])
  let past := decide (4096 < bufs.foldl (· + ·) 0)
  let s := if past then s.ctlAccess (.port p) else s
  s.modPort p (fun x => { x with bufs := if past then PortSt.init.bufs else bufs })

/-- R519: training starts from the reset internal state with the buffers sampled at the enable. Messages that had arrived whole are still
delivered (R784); their flits are no credits of the new link. -/
def State.startTraining (s : State) (p : PortId) : State :=
  let x := s.port p
  (s.setPort p { PortSt.init with bufs := x.bufs, rx := x.rx.map (fun r => { r with flits := 0 }) }).setPortState p 1

/-- R519, R565: CTRL.ENABLE of a port written 1: it trains once the fabric is locked. -/
def State.enablePort (s : State) (p : PortId) : State :=
  if s.portState p = 0 then
    let s := s.sampleCredits p
    if s.fabLocked then s.startTraining p else s
  else s

/-- R519, R784: a shutdown of a port completes. -/
def State.disablePort (s : State) (p : PortId) : State :=
  let s := if s.portState p = 2 then s.err (.port p) E.PORT_LINK_DOWN else s
  (s.dropPort p).setPortState p 0

/-- R548, R785: a port has entered ACTIVE: the module registers with its parent, and sends the up messages it holds. -/
def State.portActive (s : State) (p : PortId) : State :=
  let s := ((s.setPortState p 2).modPort p (fun x => { x with failed := 0 })).register.tryBars
  s.pumpQueues p

/-- R523: the identity of this module on a port. -/
def State.ident (s : State) (p : PortId) : Ident :=
  { size := BitVec.ofNat 32 s.fabSizes, pos := BitVec.ofNat 32 (s.rd .router R.ROUTER_FAB_POS), bufs := (s.port p).bufs }

/-- PORT_TRAINING_DONE (R517, R523): all 8 lanes have trained; the identity flit is sent. -/
def execPortTrainingDone (p : PortId) (s : State) : Out :=
  s.liveIn (.serdes p) (
    if s.portState p ≠ 1 ∨ (s.port p).trained then s
    else (s.portTurn p).modPort p (fun x => { x with trained := true }.sendSeq 4 { blankFlit with ident := some (s.ident p) }))

/-- TRAINING_TIMEOUT (R520, R521): an attempt has passed its bound. -/
def execTrainingTimeout (p : PortId) (s : State) : Out :=
  s.live (
    if s.portState p ≠ 1 then s
    else
      let n := (s.port p).failed + 1
      let s := s.modPort p (fun x => { x with failed := n, trained := false })
      if 3 ≤ n then s.portFault p E.PORT_TRAIN_FAIL else s)

/-- R523: the physical position next to this module in the direction of a port. -/
def State.nextPos (s : State) (p : PortId) : Nat :=
  let a := p.val / 2
  let at' (v k : Nat) : Nat := fld v (4 * k + 3) (4 * k)
  let own := s.rf .router R.ROUTER_FAB_POS 11 0
  let size := at' (fld s.fabSizes 27 16) a + 1
  let v := (at' own a + (if p.val % 2 = 0 then 1 else size - 1)) % size
  setFld own (4 * a + 3) (4 * a) v

/-! Receiving (R528, R530, R531, R537). -/

/-- R530: a discarded flit: a NAK that names the next expected SEQ, unless one is out. -/
def State.discardFlit (s : State) (p : PortId) : State :=
  s.modPort p (fun x => if x.nak then x else { x.sendPlain 3 x.rxSeq with nak := true })

/-- R531, R532: flits up to SEQ a are acknowledged. -/
def PortSt.ack (x : PortSt) (a : BitVec 12) : PortSt :=
  if x.replay.any (fun f => f.flit.seq == a) then { x with replay := (x.replay.dropWhile (fun f => f.flit.seq != a)).drop 1 } else x

/-- R537: credits returned; more than the partner advertised is an error. -/
def State.takeCredits (s : State) (p : PortId) (f : Flit) : State :=
  if f.crCount = 0 then s
  else
    let i := vcLane f.crClass.toNat f.crVc
    let x := s.port p
    let n := nth 0 x.credits i + f.crCount.toNat
    let s := s.setPort p { x with credits := modNth (fun _ => min n (nth 0 x.advertised i)) x.credits i }
    if nth 0 x.advertised i < n then (s.err (.port p) E.PORT_CREDIT_ERR).enterRetrain p else s

/-- A flit received on a port that carries traffic: CRC, acknowledgement and credits; a sequenced flit in sequence is accepted by act, and
any other is discarded. -/
def State.takeFlit (s : State) (p : PortId) (f : Flit) (sequenced : Bool) (act : State → State) : State :=
  let s := s.portTurn p
  if !f.crcOk then ((s.count (.port p) R.PORT_CRC_ERRORS 1).err (.port p) E.PORT_CRC_ERR).discardFlit p
  else
    let s := ((s.modPort p (fun x => x.ack f.ack)).takeCredits p f)
    let s :=
      if !sequenced then act s
      else if f.seq ≠ (s.port p).rxSeq then s.discardFlit p
      else act (s.modPort p (fun x => { x with rxSeq := x.rxSeq + 1, nak := false, ackDue := true }))
    s.pumpQueues p

/-- Does a port carry traffic? -/
def State.carries (s : State) (p : PortId) : Bool := s.portState p == 2

/-- IDENTITY_FLIT (R523, R537, R564): the partner's FAB_SIZE and position checked; on success the port is ACTIVE with its credits. -/
def execIdentityFlit (p : PortId) (f : Flit) (x : Ident) (s : State) : Out :=
  s.liveIn (.serdes p) (
    if s.portState p ≠ 1 ∨ !(s.port p).trained then s
    else
      let s := s.portTurn p
      if !f.crcOk then ((s.count (.port p) R.PORT_CRC_ERRORS 1).err (.port p) E.PORT_CRC_ERR).discardFlit p
      else if f.seq ≠ (s.port p).rxSeq then s.discardFlit p
      else if x.size.toNat ≠ s.fabSizes ∨ fld x.pos.toNat 11 0 ≠ s.nextPos p then s.portFault p E.PORT_MISCABLE
      else
        let s := s.modPort p (fun y => { (y.ack f.ack) with rxSeq := y.rxSeq + 1, ackDue := true, credits := x.bufs, advertised := x.bufs })
        let st := s.rd (.port p) R.PORT_PORT_STATUS
        let st := setFld (setFld (setFld st 27 16 (fld x.pos.toNat 11 0)) 15 15 (fld x.pos.toNat 31 31)) 11 0 (fld x.pos.toNat 27 16)
        (s.wr (.port p) R.PORT_PORT_STATUS st).portActive p)

/-- DATA_FLIT (R529, R530, R535, R536): accepted in sequence; m is the message that the flit completes. -/
def execDataFlit (p : PortId) (f : Flit) (m : Option Msg) (s : State) : Out :=
  s.liveIn (.serdes p) (
    if !s.carries p then s
    else s.takeFlit p f true (fun s =>
      let i := vcLane f.cls.toNat f.vc
      let s := s.count (.port p) R.PORT_RX_FLITS 1
      let n := (if f.som then 0 else nth 0 (s.port p).partly i) + 1
      match m with
      | none => s.modPort p (fun x => { x with partly := modNth (fun _ => n) x.partly i })
      | some m =>
        s.modPort p (fun x =>
          { x with partly := modNth (fun _ => 0) x.partly i, rx := x.rx ++ [{ cls := f.cls.toNat, vc := f.vc, flits := n, msg := m }] })))

/-- ACKNOWLEDGE_FLIT (R531). -/
def execAcknowledgeFlit (p : PortId) (f : Flit) (s : State) : Out := s.liveIn (.serdes p) (if !s.carries p then s else s.takeFlit p f false id)

/-- NAK_FLIT (R530): every unacknowledged flit from the named SEQ on is resent; those before it have arrived. -/
def execNakFlit (p : PortId) (f : Flit) (s : State) : Out :=
  s.liveIn (.serdes p) (
    if !s.carries p then s
    else s.takeFlit p f false (fun s =>
      let x := (s.port p).ack (f.seq - 1)
      (s.setPort p x).resend p x.replay))

/-- IDLE_FLIT (R518, R531): discarded; its ACK and credits count as in any flit. -/
def execIdleFlit (p : PortId) (f : Flit) (s : State) : Out := s.liveIn (.serdes p) (if !s.carries p then s else s.takeFlit p f false id)

/-- FEC_UNCORR (R519, R528): a codeword that FEC cannot correct; `sixteenth`: it is the 16th within 1 ms. -/
def execFecUncorr (p : PortId) (sixteenth : Bool) (s : State) : Out :=
  s.live (
    if !s.carries p then s
    else
      let s := (((s.portTurn p).count (.port p) R.PORT_FEC_UNCORR_CW 1).err (.port p) E.PORT_FEC_UNCORR).discardFlit p
      if sixteenth then s.enterRetrain p else s)

/-- ACK_TIMEOUT (R532): the oldest unacknowledged flit has waited 2 µs. -/
def execAckTimeout (p : PortId) (s : State) : Out :=
  s.live (if s.portState p ≠ 2 ∨ (s.port p).replay = [] then s else (s.err (.port p) E.PORT_ACK_TIMEOUT).enterRetrain p)

/-- LOSS_OF_SIGNAL (R519). -/
def execLossOfSignal (p : PortId) (s : State) : Out := s.live (s.enterRetrain p)

/-- TRAINING_SEQUENCE_RECEIVED (R522). -/
def execTrainingSequenceReceived (p : PortId) (s : State) : Out := s.liveIn (.serdes p) (s.enterRetrain p)

/-- RETRAIN_DONE (R525): ACTIVE again, with a replay from the oldest unacknowledged flit. -/
def execRetrainDone (p : PortId) (s : State) : Out :=
  s.liveIn (.serdes p) (
    if s.portState p ≠ 3 then s
    else
      let s := s.portTurn p
      (s.setPortState p 2).resend p (s.port p).replay |>.portActive p)

/-- RETRAIN_TIMEOUT (R521): the second failure in a row moves the port to FAULT. -/
def execRetrainTimeout (p : PortId) (s : State) : Out :=
  s.live (
    if s.portState p ≠ 3 then s
    else
      let n := (s.port p).failed + 1
      let s := s.modPort p (fun x => { x with failed := n })
      if 2 ≤ n then s.portFault p E.PORT_LINK_FAULT else s)

/-- ACK_SEND_DEADLINE (R531): an acknowledge flit, where a sequenced flit is yet to be acknowledged. -/
def execAckSendDeadline (p : PortId) (s : State) : Out :=
  s.liveIn .selaz (if !s.carries p ∨ !(s.port p).ackDue then s else (s.portTurn p).modPort p (fun x => x.sendPlain 2 0))

/-! Fabric time (R552 to R557). -/

/-- Fabric time in units of 100 ps. -/
def State.now (s : State) : Nat := s.fabTime.toNat * 10

/-- TIME_SYNC_SEND (R553). -/
def execTimeSyncSend (p : PortId) (s : State) : Out :=
  s.liveIn .selaz (
    if !s.carries p ∨ 2048 ≤ (s.port p).replay.length then s
    else (s.portTurn p).modPort p (fun x => { (x.sendSeq 5 { blankFlit with sync := some (x.syncSent, x.syncRecv) }) with syncSent := s.now }))

/-- Is a port the one to this module's tree parent? -/
def State.isParentPort (s : State) (p : PortId) : Bool := s.parentPort == some p

/-- R554: time disciplined to the parent, by an offset in units of 100 ps: one jump before lock, at most 500 ppm of the 125 µs between
exchanges after it, never backward. -/
def State.discipline (s : State) (off : Int) : State :=
  let locked := s.rb .router R.ROUTER_TSYNC_STATUS 0
  let ns : Int := off / 10
  let adj : Int := if locked then max 0 (min ns 62) else ns
  let s := { s with fabTime := s.fabTime + BitVec.ofInt 64 adj }
  let s := s.wf .router R.ROUTER_TSYNC_STATUS 63 32 (wrap 32 (off * 100))
  let run := if off.natAbs ≤ 8 then s.syncRun + 1 else 0
  let s := { s with syncRun := run }
  if 16 ≤ run then s.wb .router R.ROUTER_TSYNC_STATUS 0 true else s

/-- TIME_SYNC_FLIT (R553, R554): the flit's timestamps are those of the last sync flit that the partner sent and received; with this
module's own two they give the link delay and the offset. -/
def execTimeSyncFlit (p : PortId) (f : Flit) (sent recv : W64) (s : State) : Out :=
  s.liveIn (.serdes p) (
    if !s.carries p then s
    else s.takeFlit p f true (fun s =>
      let x := s.port p
      let t1 : Int := x.syncSent
      let t2 : Int := recv.toNat
      let t3 : Int := sent.toNat
      let t4 : Int := x.syncRecv
      let s := s.setPort p { x with syncRecv := s.now }
      if x.syncSent = 0 ∨ x.syncRecv = 0 ∨ recv = 0 ∨ sent = 0 then s
      else
        let s := s.wr (.port p) R.PORT_LINK_DELAY (wrap 32 (((t4 - t1) - (t3 - t2)) * 50))
        if s.isParentPort p then s.discipline (((t2 - t1) + (t3 - t4)) / 2) else s))

/-- TSYNC_HOLDOVER_EXPIRE (R556): 10 ms without a parent. The root has none to lose. -/
def execTsyncHoldoverExpire (s : State) : Out :=
  s.live (
    if s.isRoot ∨ s.parent.isSome ∨ !s.rb .router R.ROUTER_TSYNC_STATUS 0 then s
    else ({ s.wb .router R.ROUTER_TSYNC_STATUS 0 false with syncRun := 0 }).err .router E.ROUTER_TSYNC_LOST)

/-- TSYNC_IN_EDGE (R557): the root's time moves to the nearest whole second. -/
def execTsyncInEdge (s : State) : Out :=
  s.live (
    if s.isRoot ∧ s.rb .router R.ROUTER_TSYNC_CFG 63 then { s with fabTime := BitVec.ofNat 64 ((s.fabTime.toNat + 500000000) / 1000000000 * 1000000000) }
    else s)

/-- TSYNC_OUT_PULSE (R557): time has crossed a multiple of OUT_PERIOD_US. -/
def execTsyncOutPulse (s : State) : Out :=
  s.live (if s.rf .router R.ROUTER_TSYNC_CFG 31 0 = 0 then s else { s with tsyncEdges := s.tsyncEdges + 1 })

/-- R567: a write of TIME_SET. -/
def State.setTime (s : State) (v : Nat) : State := if s.isRoot then { s with fabTime := BitVec.ofNat 64 v } else s.ctlAccess .router

/-- TIME_SET. -/
def execTimeSet (v : W64) (s : State) : Out := s.live (s.setTime v.toNat)

/-! The router (R541 to R544). -/

/-- A message that only tree neighbours exchange (R548, R549, R622): it goes over the link between them. -/
def isTree : MsgBody → Bool
  | .barrierUp .. => true
  | .barrierDown .. => true
  | .registration .. => true
  | .abort _ down => down
  | _ => false

/-- The ACTIVE port whose partner has a name. -/
def State.portTo (s : State) (name : Nat) : Option PortId := (List.finRange 6).find? (fun p => s.portState p == 2 && s.partner p == name)

/-- A message delivered to this module. -/
def State.deliverHere (s : State) (m : Msg) : State := { s.count .router R.ROUTER_EJ_MSGS 1 with arrived := s.arrived ++ [m] }

/-- R541 to R544: a message goes out by its route entry; src is the port and VC of its arrival, none where it was injected here. -/
def State.routeMsg (s : State) (m : Msg) (src : Option (PortId × Bool)) : State :=
  let e := s.routeEntry m.dst.toNat
  let tree := isTree m.body
  let out : Option (Nat × Bool) :=
    match (if tree then s.portTo m.dst.toNat else none) with
    | some p => some (p.val, if e.testBit 63 && fld e 62 60 == p.val then e.testBit 59 else false)
    | none => if e.testBit 63 && decide (fld e 62 60 ≤ 6) then some (fld e 62 60, e.testBit 59) else none
  match src, tree with
  | some _, true => s.deliverHere m
  | _, _ =>
    match out with
    | none => s.routeMiss m
    | some (6, _) => s.deliverHere m
    | some (o, dl) =>
      let p : PortId := Fin.ofNat 6 o
      if m.hops.toNat = 31 then s.err .router E.ROUTER_TTL_EXPIRED
      else if s.portState p = 0 ∨ s.portState p = 4 then s.routeMiss m
      else
        let vc := dl || (match src with | some (q, v) => q.val / 2 == p.val / 2 && v | none => false)
        let s := match src with | some _ => s.count .router R.ROUTER_FWD_FLITS (msgFlits m) | none => s
        (s.portTurn p).queueMsg p vc { m with hops := m.hops + 1 }

/-- R537, R539: credits to return on a port that carries traffic go out in idle flits, where no other flit takes them. -/
def State.returnCredits (s : State) (p : PortId) : Nat → State
  | 0 => s
  | n + 1 =>
    if s.carries p && (s.port p).owed.any (fun v => v != 0) then (s.modPort p (fun x => x.sendPlain 0 0)).returnCredits p n else s

/-- The flits of idle credit return that a port may need at once: 31 credits of one class and VC to a flit. -/
def PortSt.creditFlits (x : PortSt) : Nat := x.owed.foldl (fun n v => n + cdiv v 31) 0

/-- MESSAGE_FORWARD (R535, R537, R540 to R544): the oldest message of a source. An uncorrectable word in the router's buffers discards it. -/
def execMessageForward (src : FwdSrc) (ecc : Ecc) (s : State) : Out :=
  s.liveIn .selaz (
    match src with
    | .inject =>
      match s.inject with
      | [] => s
      | m :: r =>
        let s := { s.count .router R.ROUTER_INJ_MSGS 1 with inject := r }
        if ecc = .uncorrectable then s.err .router E.ROUTER_HDR_BAD else s.routeMsg m none
    | .port p =>
      match (s.port p).rx with
      | [] => s
      | x :: r =>
        let i := vcLane x.cls x.vc
        let s := (s.portTurn p).modPort p (fun y => { y with rx := r, owed := modNth (fun v => v + x.flits) y.owed i })
        let s := if ecc = .uncorrectable ∨ mtypeClass (mtypeOf x.msg.body) ≠ some x.cls then s.err .router E.ROUTER_HDR_BAD
          else s.routeMsg x.msg (some (p, x.vc))
        s.returnCredits p (s.port p).creditFlits)

/-! Trees (R548 to R550, R786). -/

/-- R548: a route-table activation has taken effect. -/
def State.routesActivated (s : State) : State := ({ s with children := [] }).register.tryBars

/-- TREE_REGISTRATION (R548, R786): the sender becomes a child with its TOKENS; a change of the module's own is passed on. -/
def execTreeRegistration (m : Msg) (s : State) : Out :=
  s.live (
    match m.body with
    | .registration n =>
      if !s.arrived.contains m then s
      else
        let s := s.taken m
        let old := s.tokens
        let s := { s with children := SMap.put (SMap.erase s.children m.src.toNat) m.src.toNat n }
        (if s.tokens = old then s else s.register).tryBars
    | _ => s)

/-- BARRIER_UP (R549, R619): the words of a barrier are combined. -/
def execBarrierUp (m : Msg) (s : State) : Out :=
  s.live (
    match m.body with
    | .barrierUp kind step word =>
      if !s.arrived.contains m then s
      else
        let s := s.taken m
        let b := s.bar kind.toNat step.toNat
        (s.setBar { b with word := b.word ||| word, ups := if b.ups.contains m.src.toNat then b.ups else b.ups ++ [m.src.toNat] }).tryBar kind.toNat step.toNat
    | _ => s)

/-- BARRIER_TIMEOUT (R550): a child has been waited for TIMEOUT_US; reported once for a barrier. -/
def execBarrierTimeout (kind : BitVec 4) (step : W64) (child : Coord) (s : State) : Out :=
  s.live (
    let b := s.bar kind.toNat step.toNat
    let waits := b.own || (s.isSpare && (s.children.filter (fun c => c.1 != child.toNat && c.2 != 0)).all (fun c => b.ups.contains c.1))
    let overdue := s.children.any (fun c => c.1 == child.toNat && c.2 != 0) && !b.ups.contains child.toNat
    if s.rf .router R.ROUTER_BARRIER_CFG 31 0 = 0 ∨ b.reported ∨ b.complete ∨ b.sent ∨ !waits ∨ !overdue then s
    else
      (s.setBar { b with reported := true }).raise .router E.ROUTER_BARRIER_TIMEOUT (BitVec.ofNat 32 (kind.toNat * 2 ^ 28 + step.toNat % 2 ^ 28))
        (child.setWidth 64))

/-! The fabric configuration (R558 to R560). -/

/-- R545: the derived route table: coordinates inside the logical sizes at the physical position of the same value. -/
def State.derivedRoutes (s : State) : List (Nat × W64) :=
  let size := s.fabSizes
  let inside (d : Nat) : Bool := (List.range 3).all (fun a => decide (fld d (4 * a + 3) (4 * a) ≤ fld size (4 * a + 3) (4 * a)))
  (List.range 4096).map (fun d => (d, BitVec.ofNat 64 (if inside d then routeDerived (s.rf .router R.ROUTER_FAB_POS 11 0) d (fld size 27 16) else 0)))

/-- R545, R58: both banks of the route table take the derived routes. -/
def State.deriveRoutes (s : State) : State :=
  let m := SMap.setAll (tblCold .rt) [] s.derivedRoutes
  (s.setTbl .rt { s.tbl .rt with bank0 := m, bank1 := m, pending := false }).routesActivated

/-- R558: may the fabric configuration be locked? -/
def State.fabOk (s : State) : Bool :=
  let size := s.fabSizes
  let pos := s.rd .router R.ROUTER_FAB_POS
  (List.range 3).all (fun a =>
    let ax (v : Nat) : Nat := fld v (4 * a + 3) (4 * a)
    decide (ax size ≤ ax (fld size 27 16)) && decide (ax pos ≤ ax (fld size 27 16)) && (s.isSpare || decide (ax (fld pos 27 16) ≤ ax size)))

/-- Enabled ports that wait for the lock start training (R519). -/
def State.trainPorts (s : State) : State :=
  (List.finRange 6).foldl (fun s p => if s.enabled (.port p) && s.portState p == 0 then s.startTraining p else s) s

/-- R19, R558: a write of FAB_LOCK.LOCK_REQ. The first lock after a cold start fixes the sizes; a later one validates again under them
(DEDUCED; log entry 150). -/
def State.lockFabric (s : State) : State :=
  if !s.fabOk then s.err .router E.ROUTER_FAB_CFG_BAD
  else
    let s := { s.wb .router R.ROUTER_FAB_LOCK 1 true with fabSize := some (BitVec.ofNat 32 s.fabSizes) }
    (if s.expert .router then s else s.deriveRoutes).trainPorts

/-- FAB_LOCK_REQ. -/
def execFabLockReq (s : State) : Out := s.live s.lockFabric

/-- R560: a write of TAKEOVER.TAKE. -/
def State.takeOver (s : State) : State :=
  let c := s.rf .router R.ROUTER_TAKEOVER 11 0
  let size := s.fabSizes
  if !s.fabLocked ∨ !s.isSpare ∨ !(List.range 3).all (fun a => decide (fld c (4 * a + 3) (4 * a) ≤ fld size (4 * a + 3) (4 * a))) then
    s.err .router E.ROUTER_TAKEOVER_BAD
  else ((s.wf .router R.ROUTER_FAB_POS 27 16 c).wb .router R.ROUTER_FAB_POS 31 false).register.tryBars

/-- TAKE. -/
def execTakeover (s : State) : Out := s.live s.takeOver

end Sys2Proof.Machine
end

