-- ==== Sys2Proof/Machine/Rollback.lean ====
section
/-! DEFINITION. What the Umpire does to the module's work: rotation of tiles (R631, R633), the history and privileged slots of a step
(R242, R243, R259), state digests (R641 to R643, R647), commit (R620) and rollback (R623). -/

namespace Sys2Proof.Machine

/-- The Umpire of this module changes. -/
def State.modUmp (s : State) (f : UmpSt → UmpSt) : State := { s with ump := f s.ump }

/-- UMPIRE_STATUS.STATE (R665). -/
def State.umpState (s : State) : Nat := s.rf .rel R.REL_UMPIRE_STATUS 2 0
/-- UMPIRE_STATUS.STATE takes a value. -/
def State.setUmpState (s : State) (v : Nat) : State := s.wf .rel R.REL_UMPIRE_STATUS 2 0 v

/-! Rotation (R631). -/

/-- R631, R694: the tiles of the rotation list that are not fenced. -/
def State.rotTiles (s : State) : List Nat := s.ump.tiles.filter (fun t => !s.rb (.cox (tileOf t)) R.SH_STATUS 4)

/-- R631: the physical tile of logical tile l under rotation k over the tiles of a list. -/
def rotated (ts : List Nat) (k l : Nat) : Nat :=
  match ts.findIdx? (fun t => t == l) with
  | none => l
  | some i => nth l ts ((i + k) % ts.length)

/-- Cells of n bytes of each tile's SRAM moved: physical tile q takes them from physical tile src q. -/
def moveTiles (m : List Host.Cell) (n : Nat) (src : Nat → Nat) : List Host.Cell :=
  let stay := m.filter (fun c => decide (n ≤ c.1 % 0x80000000) || src (c.1 / 0x80000000) == c.1 / 0x80000000)
  (List.range 8).foldl (fun acc q =>
    if src q = q then acc
    else (m.filter (fun c => c.1 / 0x80000000 == src q && decide (c.1 % 0x80000000 < n))).foldl (fun acc c =>
      SMap.set zeroByte acc (tsramCell q (c.1 % 0x80000000)) c.2) acc) stay

/-- The same for the words with uncorrectable errors, 2^26 words to a tile. -/
def moveUes (m : List Nat) (n : Nat) (src : Nat → Nat) : List Nat :=
  let stay := m.filter (fun w => decide (n ≤ w % 0x4000000) || src (w / 0x4000000) == w / 0x4000000)
  (List.range 8).foldl (fun acc q =>
    if src q = q then acc
    else (m.filter (fun w => w / 0x4000000 == src q && decide (w % 0x4000000 < n))).foldl (fun acc w =>
      NSet.add acc (q * 0x4000000 + w % 0x4000000)) acc) stay

/-- R631: the RW and RWS fields of a page carried to another of its kind, as they stand in state s0. -/
def State.carryPage (s s0 : State) (src dst : Page) : State :=
  src.rows.foldl (fun s r =>
    if r.rw = 0 then s
    else (List.range r.count).foldl (fun s i =>
      let o := r.off + i * r.stride
      let keep := s0.rd dst o - (s0.rd dst o &&& r.rw)
      s.wr dst o (keep ||| (s0.rd src o &&& r.rw))) s) s

/-- The ring registers that hold ring state: the head, the last doorbell and the status. -/
def ringStateRegs : List Nat := [R.RING_HEAD, R.RING_DB, R.RING_STATUS]

/-- R631: the pages, tables, rings and Finish state of tile p carried to tile q, as they stand in state s0. -/
def State.carryTile (s s0 : State) (p q : Nat) (emptyJournal : Bool) : State :=
  let tp := tileOf p
  let tq := tileOf q
  let s := s.carryPage s0 (.cox tp) (.cox tq)
  let s := (List.range 16).foldl (fun s c => s.carryPage s0 (.core (coreOf tp c)) (.core (coreOf tq c))) s
  let s := (List.range 4).foldl (fun s g => s.carryPage s0 (.gather (Fin.ofNat 32 (4 * p + g))) (.gather (Fin.ofNat 32 (4 * q + g)))) s
  let s := s.carryPage s0 (.fin tp) (.fin tq)
  let s := (List.finRange 4).foldl (fun s r =>
    let s := s.setRing (.cox tq r) (s0.ring (.cox tp r))
    ringStateRegs.foldl (fun s o => s.ringWr (.cox tq r) o (s0.ringRd (.cox tp r) o)) s) s
  let s := (s.setTbl (.bfd tq) (s0.tbl (.bfd tp))).setTbl (.lrcFin tq) (s0.tbl (.lrcFin tp))
  let f := s0.fin tp
  let s := s.setFin tq (if emptyJournal then { f with journal := [], pos := 0 } else f)
  let s := s.wr (.fin tq) R.FIN_DJ_USED (s.fin tq).used
  s

/-- R631: bytes of each tile's software area that a rotation moves: ROT_MIB, at most the smallest software area. -/
def State.rotBytes (s : State) : Nat :=
  (List.range 8).foldl (fun n t => min n (s.softEnd t)) (s.rf .rel R.REL_ROT_CFG 10 0 * 0x100000)

/-- R631, R633: the map of logical to physical tiles becomes another one: software areas and the pages of the tiles move. -/
def State.remap (s : State) (new : Nat → Nat) (emptyJournal : Bool) : State :=
  if (List.range 8).all (fun l => new l == s.physTile l) then s
  else
    let src (q : Nat) : Nat := match (List.range 8).find? (fun l => new l == q) with | some l => s.physTile l | none => q
    let n := s.rotBytes
    let s0 := s
    let s := { s with tsram := moveTiles s.tsram n src, tsramUe := moveUes s.tsramUe (n / 32) src }
    let s := (List.range 8).foldl (fun s q => if src q = q then s else s.carryTile s0 (src q) q emptyJournal) s
    s.wr .rel R.REL_ROT_MAP ((List.range 8).foldl (fun v l => v + new l * 2 ^ (4 * l)) 0)

/-- R633: the tiles return to their places. -/
def State.unrotate (s : State) : State := s.remap (fun l => l) false

/-! Feather histories and privileged-channel slots (R242, R243, R259). -/

/-- R243: the close of step n puts its magnitudes into the history. -/
def State.closeFeather (s : State) (n : Nat) : State :=
  let ms := (List.range 32).map (fun d => SMap.get (fun _ => 0#32) s.featherOpen (n * 32 + d))
  { s with featherOpen := s.featherOpen.filter (fun e => e.1 / 32 != n),
           featherHist := ((BitVec.ofNat 64 n, ms) :: s.featherHist.filter (fun e => e.1.toNat != n)).take 20 }

/-- R243: a rollback to step r. -/
def State.dropFeather (s : State) (r : Nat) : State :=
  { s with featherOpen := s.featherOpen.filter (fun e => decide (e.1 / 32 < r)), featherHist := s.featherHist.filter (fun e => decide (e.1.toNat < r)) }

/-- The privileged-channel blocks that a bank of a tile's block-format descriptors names (R244), whatever FORMAT stands beside them: the
operation that uses one brings its own. -/
def State.privAddrs (s : State) (t : TileId) (b : Bool) : List Nat :=
  let x := s.tbl (.bfd t)
  (List.range 32).filterMap (fun d =>
    let a := (x.wordAt (.bfd t) b (2 * d + 1)).toNat
    if a ≠ 0 then some a else none)

/-- The privileged-channel blocks of the banks in use or of both, by address. -/
def State.privNamed (s : State) (both : Bool) : List Nat :=
  ((List.finRange 8).flatMap (fun t =>
    let a := (s.tbl (.bfd t)).active
    s.privAddrs t a ++ (if both then s.privAddrs t !a else []))).eraseDups

/-- Those that can be read. A zero-point format stands for all of them: a block reads the same under each. -/
def State.privBlks (s : State) (both : Bool) : List PrivBlk := (s.privNamed both).filterMap (s.privBlk 0xA)

/-- What reading them does. -/
def State.privLook (s : State) (both : Bool) : State := (s.privNamed both).foldl (fun s a => s.privSeen 0xA a) s

/-- A write of the module itself; one that names no memory is an unmapped access. -/
def State.selfWrite (s : State) (a : Nat) (bs : List Byte) : State :=
  match s.unitWrite a bs with | some s => s | none => s.unmapped

/-- R259: the opening of step n. -/
def State.openPriv (s : State) (n : Nat) : State :=
  (s.privBlks false).foldl (fun s p =>
    let inf := (List.replicate 256 (leBytes 4 0x7F800000 ++ leBytes 4 0xFF800000)).flatten
    (s.selfWrite (p.addr + 0x40) (leBytes 8 n)).selfWrite (p.addr + 0x200 + p.g) inf) (s.privLook false)

/-- R259: the close of step n. -/
def State.closePriv (s : State) (n : Nat) : State :=
  (s.privBlks false).foldl (fun s p =>
    let j := n % 20
    match s.readUnit (p.addr + 0x200 + p.g) 2048 with
    | (.ok cur, s) => (s.selfWrite (p.addr + 0xA00 + p.g + 2048 * j) cur).selfWrite (p.addr + 0x100 + 8 * j) (leBytes 8 n)
    | (_, s) => s) (s.privLook false)

/-- R259: a rollback to step r. -/
def State.dropPriv (s : State) (r : Nat) : State :=
  (s.privBlks true).foldl (fun s p =>
    match s.readUnit (p.addr + 0x100) 160 with
    | (.ok tags, s) => (List.range 20).foldl (fun s j =>
        if r ≤ recFld tags (8 * j) 8 63 0 then s.selfWrite (p.addr + 0x100 + 8 * j) (leBytes 8 (2 ^ 64 - 1)) else s) s
    | (_, s) => s) (s.privLook true)

/-! State digests (R641 to R643, R647). -/

/-- RD of the 32 stacks and DF of the eight FIN blocks, by logical tile. -/
def State.sums (s : State) : List W64 × List W64 :=
  ((List.finRange 32).map (fun st => (s.catchSt st).rd), (List.range 8).map (fun l => (s.fin (tileOf (s.physTile l))).df))

/-- R643: the sum of a list of digests. -/
def sumW (l : List W64) : W64 := l.foldl (· + ·) 0

/-- R643: the state digest of RD and DF values. -/
def digestOf (x : List W64 × List W64) : W64 := sumW x.1 + sumW x.2

/-- RD and DF take the values of a snapshot. -/
def State.setSums (s : State) (x : List W64 × List W64) : State :=
  let s := (List.finRange 32).foldl (fun s st => s.setCatch st { s.catchSt st with rd := nth 0 x.1 st.val }) s
  (List.range 8).foldl (fun s l =>
    let t := tileOf (s.physTile l)
    s.setFin t { s.fin t with df := nth 0 x.2 l }) s

/-- The snapshot of a step replaced. -/
def State.setSnap (s : State) (n : Nat) (x : List W64 × List W64) : State :=
  s.modUmp (fun u => { u with snaps := u.snaps.filter (fun e => e.1 != n) ++ [(n, x)] })

/-- The snapshot of a step. -/
def State.snap (s : State) (n : Nat) : Option (List W64 × List W64) := (s.ump.snaps.find? (fun e => e.1 == n)).map Prod.snd

/-- R300, R357, R407: has action 2 of the boundary after step n completed? -/
def State.stepReady (s : State) (n : Nat) : Bool :=
  match s.hrd.boundary with
  | some b => decide (n < b.step) || (b.step == n && decide (b.phase ≠ .replacing))
  | none => false

/-- R643: the state digest of a closed step, taken once its replacements are applied, and shown in STATE_DIGEST. -/
def State.takeSd (s : State) (n : Nat) : State :=
  match s.stepSt n with
  | none => s
  | some x =>
    if x.sd.isSome || !x.closed || !s.stepReady n then s
    else
      let v := s.sums
      let s := (s.modStep n (fun x => { x with ready := true, sd := some (digestOf v) })).setSnap n v
      (s.wr .rel R.REL_STATE_DIGEST (digestOf v).toNat).wr .rel R.REL_SD_STEP n

/-- The number of local row l of owner y. -/
def TDesc.rowNo (d : TDesc) (ny y l : Nat) : Nat :=
  match d.place with
  | 0 => l * ny + y
  | 1 => y * d.blockRows + l
  | _ => l

/-- The local rows of the valid tables that lie in a stack: table, row number, address, bytes. -/
def State.stackRows (s : State) (st : StackId) : List (Nat × Nat × Nat × Nat) :=
  s.tdescs.flatMap (fun e => (List.range (s.ownRows e.2)).filterMap (fun l =>
    let a := e.2.addr l
    if s.stackOfAddr a = st then some (e.1, e.2.rowNo s.ny s.ownY l, a, e.2.bytes) else none))

/-- R647: RD from the rows of every valid table in a stack. -/
def State.scanRd (s : State) (st : StackId) : W64 :=
  (s.stackRows st).foldl (fun (acc : W64) x => acc + rowTerm x.1 x.2.1 (s.hbmRead x.2.2.1 x.2.2.2)) 0

/-- R485, R647: what that scan does. -/
def State.scanRdSeen (s : State) (st : StackId) : State := (s.stackRows st).foldl (fun s x => s.hbmSeen x.2.2.1 x.2.2.2) s

/-- R642, R647: DF from the masters and state of a tile's layers, and what reading them does. -/
def State.scanDf (s : State) (t : TileId) : W64 × State :=
  (s.layersOf t).foldl (fun (acc : W64 × State) l =>
    let s := acc.2
    match s.readUnit l.2.master l.2.masterLen with
    | (.ok m, s) =>
      (match (if l.2.stateLen = 0 then (RdRes.ok [], s) else s.readUnit l.2.state l.2.stateLen) with
       | (.ok z, s) => (acc.1 + layerTerm l.2.layerId (m ++ z), s)
       | (_, s) => (acc.1, s))
    | (_, s) => (acc.1, s)) (0, s)

/-! Commit (R620). -/

/-- The DIGEST registers show the runs of a step just judged (R629). -/
def State.showDigests (s : State) (runs : List RunDigest) : State :=
  (List.range 3).foldl (fun s r =>
    let d := nth { RunDigest.zero with inn := 0 } runs r
    (List.range 9).foldl (fun s i =>
      s.wr .rel (R.REL_DIGEST_r + 72 * r + 8 * i) (if i = 8 then d.inn else nth 0 d.outs i).toNat) s) s

/-- OPEN_STEP in the REL page and in every COX, BASE and FIN page. -/
def State.setOpenStep (s : State) (n : Nat) : State :=
  let s := s.wr .rel R.REL_OPEN_STEP n
  let s := (List.finRange 32).foldl (fun s st => s.wr (.base st) R.BASE_OPEN_STEP n) s
  (List.finRange 8).foldl (fun s t => (s.wr (.fin t) R.FIN_OPEN_STEP n).wr (.cox t) R.COX_OPEN_STEP n) s

/-- R71: step n has committed: tables activated at its opening or earlier drop the previous contents. -/
def State.commitTables (s : State) (n : Nat) : State :=
  (TableId.all.filter TableId.byStep).foldl (fun s tb =>
    let x := s.tbl tb
    if x.held ∧ x.step.toNat ≤ n then s.setTbl tb { x with held := false } else s) s

/-- R71: steps r and later roll back: tables activated at their openings return to the previous contents and wait again. -/
def State.returnTables (s : State) (r : Nat) : State :=
  (TableId.all.filter TableId.byStep).foldl (fun s tb =>
    let x := s.tbl tb
    if x.held ∧ r ≤ x.step.toNat then s.setTbl tb { x with active := !x.active, held := false, pending := true } else s) s

/-- The mean step time over the last 1,024 committed steps (R665): from a step's opening to its close. -/
def State.stepTime (s : State) (x : StepSt) : State :=
  let ts := ((x.closedAt - x.openedAt).toNat :: s.ump.times).take 1024
  (s.modUmp (fun u => { u with times := ts })).wf .rel R.REL_GOAL_INFO 31 0 (min (ts.foldl (· + ·) 0 / ts.length) 0xFFFFFFFF)

/-- R620: step n commits. -/
def State.commitStep (s : State) (x : StepSt) (n : Nat) : State :=
  let s := (List.finRange 32).foldl (fun s st => s.journalCommit st n) s
  let s := (List.finRange 8).foldl (fun s t => s.djCommit t n) s
  let s := ((s.commitFlips n).commitTables n).wr .rel R.REL_COMMITTED_STEP n
  let s := (s.count .rel R.REL_STEPS_COMMITTED 1).wr .rel R.REL_SD_COMMITTED (x.sd.getD 0).toNat
  let s := (s.stepTime x).showDigests x.runs
  let s := { s with steps := s.steps.filter (fun y => decide (n < y.step.toNat)), seeds := s.seeds.filter (fun e => decide (n < e.1.toNat)) }
  let s := s.modUmp (fun u => { u with
    snaps := u.snaps.filter (fun e => decide (n ≤ e.1)), audits := u.audits.filter (fun e => decide (n < e.1)), failed := (0, 0), sd := x.sd.getD 0,
    rerun := u.rerun.filter (fun e => decide (n < e.1)) })
  if s.ump.rerun.isNone && (s.umpState == 1 || s.umpState == 2) then s.setUmpState 0 else s

/-- R618, R620: the steps whose verdict is 0 commit in order. -/
def State.commitReady (s : State) : Nat → State
  | 0 => s
  | k + 1 =>
    let n := s.committedStep + 1
    match s.stepSt n with
    | some x => if x.closed ∧ x.verdict = some 0 then (s.commitStep x n).commitReady k else s
    | none => s

/-! Rollback (R623). -/

/-- R117, R623, action 1: every train of step r and later is abandoned, STATUS 6, one that had failed and not yet completed too. No stage failed
by it: FAIL_STAGE is a free value. -/
def State.dropTrains (s : State) (r : Nat) : State :=
  (List.finRange 8).foldl (fun s t =>
    ((s.cox t).trains.filter (fun tr => !tr.noStep && decide (r ≤ tr.step.toNat))).foldl (fun s tr =>
      let (v, s) := s.fresh
      (s.modTrain t tr.uid (fun tr => { tr with failed := some (6, v.toNat % 16) })).dropTrainWork t tr.uid none) s) s

/-- Is a message in transit within this module part of a barrier, an abort, a digest or a queued replacement (R303) of step r or later? -/
def ofStep (r : Nat) (m : Msg) : Bool :=
  match m.body with
  | .barrierUp k n _ => decide (r ≤ n.toNat) && decide (k.toNat ≤ 3)
  | .barrierDown k n _ => decide (r ≤ n.toNat) && decide (k.toNat ≤ 3)
  | .abort n _ => decide (r ≤ n.toNat)
  | .digest n _ _ false => decide (r ≤ n.toNat)
  | .replaceReq _ _ n _ _ _ => decide (r ≤ n.toNat)
  | _ => false

/-- R496, R623, R631: where the rollback orders another placement of the tiles, every tile cache is written back and invalidated and the tiles
move; where it orders none, the caches stay as they are (DEDUCED; log entry 160). -/
def State.rotate (s : State) : State :=
  let new := rotated s.rotTiles s.ump.rotation
  if (List.range 8).all (fun l => new l == s.physTile l) then s
  else ((List.finRange 8).foldl (fun s t => s.invalCache t) s).remap new true

/-- R623: the module rolls back to step r, actions 1 to 9; the rotation that R630 orders is the Umpire's. -/
def State.rollback (s : State) (r : Nat) : State :=
  let gone := (s.steps.filter (fun x => decide (r ≤ x.step.toNat))).length
  let s := (s.dropTrains r).dropChain r
  let s := (List.finRange 32).foldl (fun s st => s.rollbackCatch st r) s
  let s := (List.finRange 8).foldl (fun s t => s.rollbackFin t r) s
  let s := s.rollbackDir
  let s := ((s.dropPriv r).returnTables r).untakeFlips r
  let s := s.dropFeather r
  let s := match s.snap (r - 1) with | some v => s.setSums v | none => s
  let s := s.modUmp (fun u =>
    { u with snaps := u.snaps.filter (fun e => decide (e.1 < r)), mayOpen := none,
             earlyAbort := u.earlyAbort.filter (fun n => decide (n.toNat < r)) })
  let s := { s with steps := s.steps.filter (fun x => decide (x.step.toNat < r)),
                    earlyFail := s.earlyFail.filter (fun n => decide (n.toNat < r)), arrived := s.arrived.filter (fun m => !ofStep r m) }
  let s := s.dropBars r
  let s := s.rotate
  ((s.setOpenStep (r - 1)).err .rel E.REL_ROLLBACK).count .rel R.REL_STEPS_ROLLED_BACK gone

end Sys2Proof.Machine
end

