-- ==== Sys2Proof/Machine/Umpire.lean ====
section
/-! DEFINITION. The Umpire (R618 to R648, R656, R657, R660 to R663): closing, judging, opening and resuming steps. -/

namespace Sys2Proof.Machine

/-! Closing (R31, R618). -/

/-- R31: is the module's work of step n over? -/
def State.workDone (s : State) (n : Nat) : Bool :=
  s.coxes.all (fun x => x.2.trains.all (fun tr => tr.noStep || tr.step.toNat != n)) &&
    (List.finRange 8).all (fun t => (List.finRange 4).all (fun r => !(s.unreadTrains (.cox t r)).any (trainOf n))) &&
    s.catches.all (fun x => !x.2.inbox.any (fun u => u.step.toNat == n) && !x.2.txns.any (fun u => u.step.toNat == n && !u.replace)) &&
    s.fins.all (fun x => match x.2.job with | some j => j.step.toNat != n | none => true) &&
    s.chainDone && !s.arrived.any (fun m => match m.body with | .chain p => p.step.toNat == n | _ => false)

/-- R625: have the numeric events of a step exceeded their thresholds? -/
def State.anomaly (s : State) (e : Evs) : Bool :=
  let past (n hi lo : Nat) : Bool := let th := s.rf .rel R.REL_ANOM_CFG hi lo; th != 0 && decide (th < n)
  past e.nan 15 0 || past e.ovf 31 16 || past e.sat 47 32

/-- STEP_CLOSE (R31, R32, R243, R259, R355, R403, R618, R625): the open step closes and the module holds its close token. -/
def State.closeStep (s : State) : State :=
  match s.openNow with
  | none => s
  | some n =>
    match s.stepSt n with
    | none => s
    | some x =>
      if !s.workDone n then s
      else
        let s := if s.anomaly x.evs then (s.err .rel E.REL_ANOMALY).suspect else s
        let s := (s.closeFeather n).closePriv n
        let s := (List.finRange 32).foldl (fun s st => if s.enabled (.base st) then s.journalClose st n else s) s
        let s := (List.finRange 8).foldl (fun s t => if s.enabled (.fin t) then s.djClose t n else s) s
        (s.modStep n (fun x => { x with closed := true, closedAt := s.fabTime })).holdToken 1 n 0

/-- STEP_CLOSE. -/
def execStepClose (s : State) : Out := s.live s.closeStep

/-! Judgement (R634, R635, R644). -/

/-- K of R644: from N in MODE 2 and 3 (R656). -/
def State.crewK (s : State) : Nat :=
  (if 2 ≤ s.rf .rel R.REL_GOAL_CFG 31 30 then s.rf .rel R.REL_GOAL_CFG 25 16 else s.rf .rel R.REL_CREW_CFG 9 0) + 1

/-- R644: is there a Crew check at step n? -/
def State.crewStep (s : State) (n : Nat) : Bool := s.rb .rel R.REL_CREW_CFG 16 && decide (2 ≤ s.nx) && n % s.crewK == 0

/-- The coordinates at this module's (y, z) in the other crews, by crew. -/
def State.peers (s : State) : List (Nat × Nat) :=
  ((List.range s.nx).filter (fun x => x != s.ownX)).map (fun x => (x, s.coord / 16 * 16 + x))

/-- R644: the value that more than NX / 2 crews hold. -/
def majority (nx : Nat) (ds : List (Nat × W64)) : Option W64 :=
  (ds.map Prod.snd).find? (fun v => decide (nx < 2 * (ds.filter (fun e => e.2 == v)).length))

/-- R644: the crews that differ from a majority. -/
def oddCrews (ds : List (Nat × W64)) (v : W64) : Nat := (ds.filter (fun e => e.2 != v)).foldl (fun m e => m ||| 2 ^ e.1) 0

/-- R644, R660: the Crew check of a step whose NX digests are held: its bits of the verdict word. -/
def State.crewCheck (s : State) (ds : List (Nat × W64)) : State × W32 :=
  let s := s.count .rel R.REL_CREW_CHECKS 1
  match majority s.nx ds with
  | none =>
    let s := (s.wf .rel R.REL_UMPIRE_STATUS 31 16 0).wb .rel R.REL_UMPIRE_STATUS 9 false
    ((s.count .rel R.REL_CREW_MISMATCHES 1).err .rel E.REL_UNRESOLVED, 0x50#32)
  | some v =>
    let odd := oddCrews ds v
    let s := (s.wf .rel R.REL_UMPIRE_STATUS 31 16 odd).wb .rel R.REL_UMPIRE_STATUS 9 (odd == 0)
    if odd = 0 then (s, 0)
    else ((s.count .rel R.REL_CREW_MISMATCHES 1).err .rel E.REL_CREW_ODD, BitVec.ofNat 32 (odd * 2 ^ 16 + 0x10))

/-- R634: the value that two of three runs agree on. -/
def decided (l : List W64) : Option W64 := l.find? (fun v => decide (2 ≤ (l.filter (fun w => w == v)).length))

/-- OUT of logical tile l in each run. -/
def outsOf (runs : List RunDigest) (l : Nat) : List W64 := runs.map (fun r => nth 0 r.outs l)

/-- The physical tile of logical tile l in a run. -/
def RunDigest.phys (r : RunDigest) (l : Nat) : Nat := fld r.map.toNat (4 * l + 2) (4 * l)

/-- R635: a tile is blamed: ODD_TILE, and every core of it in service falls due for a Heat test at once. exempt: the same tile
produced a decided run. -/
def State.blame (s : State) (p : Nat) (exempt : Bool) : State :=
  let s := s.setErr .rel E.REL_ODD_TILE (BitVec.ofNat 32 p)
  let cs := (List.range 16).filter (fun c => s.coreAvail (coreOf (tileOf p) c))
  s.modUmp (fun u => { u with
    due := u.due ++ (cs.map (fun c => 16 * p + c)).filter (fun c => !u.due.contains c),
    blames := u.blames.filter (fun b => b.tile != p) ++ [{ tile := p, cores := cs.map (fun c => 16 * p + c), failed := false, exempt := exempt }] })

/-- R635: the blames whose tests are over: no core failed, so the tile is fenced, or the event is a TRANSIENT. -/
def State.settleBlames (s : State) : State :=
  let past := s.ump.blames.filter (fun b => b.cores.isEmpty)
  let s := s.modUmp (fun u => { u with blames := u.blames.filter (fun b => !b.cores.isEmpty) })
  past.foldl (fun s b =>
    if b.failed then s
    else if b.exempt then s.count .rel R.REL_TRANSIENTS 1
    else s.report .rel E.REL_ODD_TILE (BitVec.ofNat 32 b.tile) 0 false) s

/-- R634: what run 3 decides. -/
def State.decideRuns (s : State) (runs : List RunDigest) : State × W32 :=
  match decided (runs.map (fun r => r.inn)) with
  | none => (s.err .rel E.REL_UNRESOLVED, 0x40#32)
  | some inn =>
    if (List.range 8).any (fun l => (decided (outsOf runs l)).isNone) then (s.err .rel E.REL_UNRESOLVED, 0x40#32)
    else
      let good (r : RunDigest) (l : Nat) : Bool := some (nth 0 r.outs l) == decided (outsOf runs l)
      let s := runs.foldl (fun s (r : RunDigest) =>
        let bad := (List.range 8).filter (fun l => !good r l)
        if r.inn = inn then
          bad.foldl (fun s l => s.blame (r.phys l) (runs.any (fun q => good q l && q.phys l == r.phys l))) s
        else if bad.isEmpty then (s.count .rel R.REL_UNATTRIBUTED 1).err .rel E.REL_UNATTRIB
        else s) s
      (s.settleBlames, 0)

/-- R634: what the digests of a rerun say. -/
def State.judgeRun (s : State) (x : StepSt) : State × W32 :=
  match x.runs with
  | [a, b] => (s, if a.outs = b.outs ∧ a.inn = b.inn then 0 else 0x20#32)
  | [a, b, c] => s.decideRuns [a, b, c]
  | _ => (s, 0)

/-- R618, R634, R644: the verdict token of a closed step, once every unit is ready and the digests of a Crew check are held. -/
def State.tryVerdict (s : State) (n : Nat) : State :=
  let s := s.takeSd n
  match s.stepSt n with
  | none => s
  | some x =>
    match x.closed && !x.tokenSent, x.sd with
    | true, some sd =>
      let failed := x.word.getLsbD 2
      let check := s.crewStep n && !failed
      let s := if check && !x.sent then
          let s := s.peers.foldl (fun s p => s.send p.2 0 (.digest x.step (BitVec.ofNat 4 s.ownX) sd false)) s
          s.modStep n (fun x => { x with sent := true, crew := x.crew ++ [(s.ownX, sd)] })
        else s
      let ds := match s.stepSt n with | some x => x.crew | none => []
      if check && decide (ds.length < s.nx) then s
      else
        let own := if x.run = 1 then x.word &&& 0xE#32 else x.word &&& 4#32
        let (s, w) := if x.run = 1 || failed then (s, 0#32) else s.judgeRun x
        let (s, v) := if check then s.crewCheck ds else (s, 0#32)
        let word := own ||| w ||| v
        (s.modStep n (fun x => { x with tokenSent := true, word := word })).holdToken 3 n word
    | _, _ => s

/-- VERDICT_TOKEN: the oldest closed step whose token this module has not sent. -/
def execVerdictToken (s : State) : Out :=
  s.live (match s.steps.find? (fun x => x.closed && !x.tokenSent) with | some x => s.tryVerdict x.step.toNat | none => s)

/-! Aborts (R622). -/

/-- R61, R443, R622: the module abandons the rest of step n's work and its verdict token says FAILED. The trains complete with STATUS 5; no
stage failed: FAIL_STAGE is a free value. -/
def State.abandonStep (s : State) (n : Nat) : State :=
  let s := s.abandonNotices n
  let s := (s.stepTrains n).foldl (fun s x =>
    let (v, s) := s.fresh
    s.endTrain (tileOf x.1) x.2.uid 5 (v.toNat % 16)) s
  let s := if s.chain.step = some n then s.modChain (fun c => { c.clear with step := some n, failed := some 3 }) else s
  let s := (List.finRange 32).foldl (fun s st =>
    let x := s.catchSt st
    s.setCatch st { x with inbox := x.inbox.filter (fun u => u.step.toNat != n),
                           txns := x.txns.filter (fun u => u.step.toNat != n || u.replace || u.phase == .record || u.phase == .write) }) s
  let s := s.modStep n (fun x => { x with closed := true, aborted := true, word := x.word ||| 4#32, closedAt := s.fabTime })
  match s.stepSt n with
  | some x =>
    if x.tokenSent then s
    else (s.modStep n (fun x => { x with tokenSent := true })).holdToken 3 n (x.word &&& 0xE#32)
  | none => s

/-- R622: an abort sent to every child. -/
def State.floodAbort (s : State) (n : W64) : State := s.children.foldl (fun s c => s.send c.1 0 (.abort n true)) s

/-- REL_CONTROL_TOKEN (R622): an abort arrives, at the root from any module, elsewhere from the parent. It goes down once for each opening
of its step; a step that has not opened here is abandoned at its opening. -/
def execRelControlToken (m : Msg) (s : State) : Out :=
  s.live (
    match m.body with
    | .abort n _ =>
      if !s.arrived.contains m then s
      else
        let s := s.taken m
        match s.stepSt n.toNat with
        | some x => if x.aborted then s else (s.floodAbort n).abandonStep n.toNat
        | none =>
          if n.toNat ≤ s.committedStep ∨ s.ump.earlyAbort.contains n then s
          else (s.floodAbort n).modUmp (fun u => { u with earlyAbort := u.earlyAbort ++ [n] })
    | _ => s)

/-! Reruns and stops (R630, R636, R637, R645). -/

/-- R637: the Umpire stops. -/
def State.stopUmpire (s : State) : State :=
  ((s.setUmpState 5).modUmp (fun u => { u with needSet := true, mayOpen := none })).err .rel E.REL_STOPPED

/-- R630: step n runs again: its next run, the digests so far, this module's rotation. -/
def State.orderRun (s : State) (x : StepSt) (run rot : Nat) : State :=
  ((s.modUmp (fun u => { u with rerun := some (x.step.toNat, run), prior := x.runs, rotation := rot })).setUmpState (run - 1)).count .rel
    (if run = 2 then R.REL_RERUNS else R.REL_THIRD_RUNS) 1

/-- R636: step n runs again in the same form. -/
def State.sameForm (s : State) (x : StepSt) : State :=
  let n := x.step.toNat
  s.modUmp (fun u =>
    if x.run = 1 then { u with rerun := u.rerun.filter (fun e => decide (e.1 < n)), prior := [], rotation := 0 }
    else { u with rerun := some (n, x.run), prior := x.runs.take (x.run - 1), rotation := x.rotation })

/-- Step n runs again from its first run: steps after a rolled-back one. -/
def State.firstForm (s : State) : State :=
  let s := s.modUmp (fun u => { u with rerun := none, prior := [], rotation := 0 })
  if s.umpState = 1 ∨ s.umpState = 2 then s.setUmpState 0 else s

/-- R618, R623, R630, R634, R636, R645: the verdict barrier of step n has completed with a nonzero word. -/
def State.condemn (s : State) (x : StepSt) (n : Nat) (w : W32) : State :=
  let s := s.showDigests x.runs
  if w.getLsbD 2 then
    let k := (if s.ump.failed.1 = n then s.ump.failed.2 else 0) + 1
    let lim := max 1 (s.rf .rel R.REL_COMMIT_CFG 23 20)
    let s := ((s.sameForm x).modUmp (fun u => { u with failed := (n, k) })).rollback n
    if lim ≤ k then (s.err .rel E.REL_FAIL_LIMIT).stopUmpire else s.repeatBoundary (n - 1)
  else
    let s := s.modUmp (fun u => { u with failed := (0, 0) })
    if w.getLsbD 4 then
      let c := s.committedStep
      let s := s.firstForm.rollback (c + 1)
      let s := (s.setUmpState 3).modUmp (fun u => { u with recheck := some c, second := [(s.ownX, s.ump.sd)] })
      s.peers.foldl (fun s p =>
        s.send p.2 0 (.digest (BitVec.ofNat 64 c) (BitVec.ofNat 4 s.ownX) s.ump.sd true)) s
    else if w.getLsbD 6 then (s.firstForm.rollback n).stopUmpire
    else if w.getLsbD 5 then ((s.orderRun x 3 (if x.word.getLsbD 5 then 2 else 0)).rollback n).repeatBoundary (n - 1)
    else ((s.orderRun x 2 (if x.word &&& 0xA#32 ≠ 0 then 1 else 0)).rollback n).repeatBoundary (n - 1)

/-- R618: the verdict barrier of step n has completed. A rerun of a later step is void when an earlier one rolls back. -/
def State.takeVerdict (s : State) (n : Nat) (w : W32) : State :=
  match s.stepSt n with
  | none => s
  | some x =>
    if w = 0 then (s.modStep n (fun x => { x with verdict := some w })).commitReady s.steps.length
    else
      let s := match s.ump.rerun with | some (k, _) => if n < k then s.firstForm else s | none => s
      s.condemn x n w

/-- R645: the result of the second exchange. -/
def State.recheckDone (s : State) (c : Nat) : State :=
  let s0 := s.modUmp (fun u => { u with recheck := none, second := [] })
  match majority s.nx s.ump.second with
  | some v =>
    let odd := oddCrews s.ump.second v
    if odd = 0 then (s0.setUmpState 0).repeatBoundary c
    else
      let me := odd.testBit s.ownX
      ((s0.setUmpState 4).wb .rel R.REL_UMPIRE_STATUS 8 me).modUmp (fun u => { u with needSet := me })
  | none => ((s0.setUmpState 4).modUmp (fun u => { u with needSet := true })).err .rel E.REL_CREW_SPLIT

/-- CREW_DIGEST (R644, R645): a state digest arrives. One for a step that is not open here yet waits. -/
def execCrewDigest (m : Msg) (s : State) : Out :=
  s.live (
    match m.body with
    | .digest n x sd second =>
      if !s.arrived.contains m then s
      else if second then
        match s.ump.recheck with
        | none => s
        | some c =>
          if n.toNat ≠ c then s.taken m
          else
            let s := (s.taken m).modUmp (fun u => { u with second := u.second.filter (fun e => e.1 != x.toNat) ++ [(x.toNat, sd)] })
            if s.ump.second.length < s.nx then s else s.recheckDone c
      else
        match s.stepSt n.toNat with
        | none => if n.toNat ≤ s.committedStep then s.taken m else s
        | some _ =>
          let s := (s.taken m).modStep n.toNat (fun y => { y with crew := y.crew.filter (fun e => e.1 != x.toNat) ++ [(x.toNat, sd)] })
          s.tryVerdict n.toNat
    | _ => s)

/-! Barriers (R549). -/

/-- What the completion of a barrier does at this module (R32, R301, R618, R638). -/
def State.barrierAct (s : State) (kind n : Nat) (w : W32) : State :=
  if s.isSpare then s
  else
    match kind with
    | 1 =>
      match s.stepSt n with
      | some x => if x.closed then s.unrotate.startBoundary n else s
      | none => s
    | 2 => s.modUmp (fun u => { u with mayOpen := some (n + 1) })
    | 3 => s.takeVerdict n w
    | 5 =>
      if s.ump.resuming ∧ n = s.committedStep + 1 then
        ((s.setUmpState 0).modUmp (fun u => { u with resuming := false })).repeatBoundary (n - 1)
      else s
    | _ => s

/-- BARRIER_DOWN (R549): a down message that has arrived is forwarded and the barrier acts here; at the root, the barrier's completion. -/
def execBarrierDown (kind : BitVec 4) (step : W64) (s : State) : Out :=
  s.live (
    let k := kind.toNat
    let n := step.toNat
    let hit := s.arrived.find? (fun m => match m.body with | .barrierDown a b _ => a == kind && b == step | _ => false)
    match hit with
    | some m =>
      let w := match m.body with | .barrierDown _ _ w => w | _ => 0
      (((s.taken m).count .router R.ROUTER_BARRIERS 1).sendDown k n w |>.dropBar k n).barrierAct k n w
    | none =>
      let b := s.bar k n
      if b.complete then ((s.count .router R.ROUTER_BARRIERS 1).dropBar k n).barrierAct k n b.word else s)

/-! Opening (R32, R301, R621, R639, R657). -/

/-- R639: is step n chosen for audit? -/
def State.auditChoice (s : State) (n : Nat) : Bool :=
  decide ((mix64 (BitVec.ofNat 64 (s.rd .rel R.REL_AUDIT_SEED) ^^^ BitVec.ofNat 64 n)).toNat / 2 ^ 32 < s.rf .rel R.REL_AUDIT_CFG 31 0)

/-- R656, R657: the derived values of a step opening. -/
def State.deriveGoal (s : State) : State :=
  let mode := s.rf .rel R.REL_GOAL_CFG 31 30
  let s := if 2 ≤ mode then s.wf .rel R.REL_CREW_CFG 9 0 (s.rf .rel R.REL_GOAL_CFG 25 16) else s
  if mode % 2 = 0 then s
  else
    let b := s.rf .rel R.REL_GOAL_CFG 15 0
    let lt := s.rf .rel R.REL_GOAL_INFO 63 48
    let lp := s.rf .rel R.REL_GOAL_INFO 47 32
    let t := s.rf .rel R.REL_GOAL_INFO 31 0
    let w := s.rf .rel R.REL_COMMIT_CFG 1 0 + 1
    let rate := min (cdiv ((2 * lt - b) * 2 ^ 32) (2 * lt)) 0xFFFFFFFF
    -- T_H / 1,000 = t (W + B / 2 λp) / 1,000
    let num := t * (2 * lp * w + b)
    let den := 2000 * lp
    let us := if lp = 0 then 3600000000 else min (max (num / den) 3200) 3600000000
    let s := (s.wf .rel R.REL_AUDIT_CFG 31 0 rate).wf .rel R.REL_HEAT_CFG 63 32 us
    if num < 3200 * den then s.err .rel E.REL_GOAL_MISS else s

/-- R69, R71: the step tables whose TBL_STEP is n swap at its opening. -/
def State.openTables (s : State) (n : Nat) : State :=
  (TableId.all.filter TableId.byStep).foldl (fun s tb =>
    let x := s.tbl tb
    if x.pending ∧ x.step.toNat = n then s.setTbl tb { x with active := !x.active, pending := false, held := true } else s) s

/-- R621, R695: may the module open step n? -/
def State.mayOpenStep (s : State) (n : Nat) : Bool :=
  s.ump.mayOpen == some n && decide (s.umpState < 3) && !s.isSpare && s.fabLocked && !s.rb .flt R.FLT_FLT_STATE 0 && !s.stopped && !s.ump.resuming &&
    decide (n ≤ s.committedStep + s.rf .rel R.REL_COMMIT_CFG 1 0 + 1) && !s.ump.audits.any (fun (e : Nat × Bool) => e.2 && decide (e.1 < n))

/-- R639: the audit choice of step n, made at its first opening. -/
def State.chooseAudit (s : State) (n : Nat) : State :=
  match s.ump.audits.find? (fun e => e.1 == n) with
  | some _ => s
  | none =>
    let c := s.auditChoice n
    let s := s.modUmp (fun u => { u with audits := u.audits ++ [(n, c)] })
    if c then s.count .rel R.REL_AUDITED_STEPS 1 else s

/-- R627 to R631: the record of a step that opens. -/
def State.newStep (s : State) (n : Nat) : State :=
  let (run, prior) := match s.ump.rerun with | some (k, m) => if k = n then (m, s.ump.prior) else (1, []) | none => (1, [])
  let fresh : RunDigest := { RunDigest.zero with map := BitVec.ofNat 32 (s.rd .rel R.REL_ROT_MAP) }
  let audit := s.ump.audits.any (fun (e : Nat × Bool) => e.1 == n && e.2)
  { s with steps := s.steps ++ [{ step := BitVec.ofNat 64 n, closed := false, ready := false, tokenSent := false, aborted := false, word := if audit then 8 else 0,
                                  verdict := none, run := run, rotation := if run = 1 then 0 else s.ump.rotation, runs := prior ++ [fresh], evs := {}, ce := [], sent := false, crew := [], sd := none,
                                  openedAt := s.fabTime, closedAt := 0 }] }

/-- R301, R207, R259, R333, R389, R457, R618, R657: the module opens step n. -/
def State.openStepNow (s : State) (n : Nat) : State :=
  let s := s.takeSd (n - 1)
  let s := if (s.snap (n - 1)).isNone then s.setSnap (n - 1) s.sums else s
  let s := s.modUmp (fun u => { u with mayOpen := none, tiles := (List.range 8).filter (fun t =>
    s.enabled (.cox (tileOf t)) && !s.rb (.cox (tileOf t)) R.SH_STATUS 4) })
  let s := s.openTables n
  let s := (List.finRange 32).foldl (fun s st => s.sampleCatch st) s
  let s := (List.finRange 8).foldl (fun s t => s.sampleFin t) s
  let s := if s.seeds.any (fun (e : W64 × W64 × Bool) => e.1.toNat == n) then s else { s with seeds := s.seeds ++ [(BitVec.ofNat 64 n, s.jobSeed, s.lockstep)] }
  let s := ((s.deriveGoal.chooseAudit n).newStep n).setOpenStep n
  let s := (s.openChain n).openPriv n
  let s := (List.finRange 6).foldl (fun s p => s.modPort p (fun x => { x with replays := 0 })) s
  if s.ump.earlyAbort.contains (BitVec.ofNat 64 n) then
    (s.modUmp (fun u => { u with earlyAbort := u.earlyAbort.filter (fun k => k != BitVec.ofNat 64 n) })).abandonStep n
  else if s.earlyFail.contains (BitVec.ofNat 64 n) then
    { s with earlyFail := s.earlyFail.filter (fun k => k != BitVec.ofNat 64 n) }.failStep n
  else s

/-- STEP_OPEN: the step that the boundary or RESUME lets open. -/
def execStepOpen (s : State) : Out :=
  s.live (
    match s.ump.mayOpen with
    | some n => if s.mayOpenStep n then s.openStepNow n else s
    | none => s)

/-! Software's commands (R637, R638, R647, R662, R663). -/

/-- R663: a write of RESUME. -/
def State.resumeUmpire (s : State) : State :=
  if (s.umpState = 4 ∨ s.umpState = 5) ∧ s.ump.needSet = false ∧ s.ump.resuming = false then
    ((s.wb .rel R.REL_UMPIRE_STATUS 8 false).modUmp (fun u => { u with resuming := true })).holdToken 5 (s.committedStep + 1) 0
  else s

/-- UMPIRE_RESUME. -/
def execUmpireResume (s : State) : Out := s.live s.resumeUmpire

/-- R662: a write of SET_STEP. -/
def State.setStep (s : State) : State :=
  if (s.umpState ≠ 4 ∧ s.umpState ≠ 5) ∨ s.coxes.any (fun x => x.2.trains.any (fun tr => tr.launched)) then s.ctlAccess .rel
  else
    let n := s.rd .rel R.REL_SET_STEP_VALUE
    let s := (s.setOpenStep n).wr .rel R.REL_COMMITTED_STEP n
    let s := (List.finRange 32).foldl (fun s st =>
      ((s.setCatch st { s.catchSt st with journal := [], inbox := [], txns := [], locks := [], ring := [], stalled := false, jpos := 0 }).journalUsed st).wr (.base st) R.BASE_COMMITTED_STEP n) s
    let s := (List.finRange 8).foldl (fun s t =>
      ((s.setFin t { s.fin t with journal := [], pos := 0 }).wr (.fin t) R.FIN_DJ_USED 0).wr (.fin t) R.FIN_COMMITTED_STEP n) s
    let s := s.modChain ChainSt.clear
    let s := { s with steps := [], seeds := [], earlyFail := [], bars := s.bars.filter (fun b => b.kind == 5) }
    let s := s.modUmp (fun u => { u with snaps := [], audits := [], rerun := none, prior := [], rotation := 0, failed := (0, 0), mayOpen := none, needSet := false, earlyAbort := [], sd := 0 })
    s.wr .rel R.REL_SD_COMMITTED 0

/-- SET_STEP. -/
def execSetStep (s : State) : Out := s.live s.setStep

/-- R647: a write of RESCAN. -/
def State.rescan (s : State) : State :=
  if s.openNow.isSome then s.ctlAccess .rel
  else (s.modUmp (fun u => { u with rescanning := true })).wb .rel R.REL_REL_CMD 31 true

/-- RESCAN. -/
def execRescan (s : State) : Out := s.live s.rescan

/-- RESCAN_DONE (R647). -/
def execRescanDone (s : State) : Out :=
  s.live (
    if !s.ump.rescanning then s
    else
      let s := (s.modUmp (fun u => { u with rescanning := false })).wb .rel R.REL_REL_CMD 31 false
      let rd := (List.finRange 32).map (fun st => s.scanRd st)
      let s := (List.finRange 32).foldl State.scanRdSeen s
      let (df, s) := (List.range 8).foldl (fun (acc : List W64 × State) l =>
        let (d, s) := acc.2.scanDf (tileOf (acc.2.physTile l))
        (acc.1 ++ [d], s)) ([], s)
      let v : List W64 × List W64 := (rd, df)
      (((s.setSums v).setSnap s.committedStep v).modUmp (fun u => { u with sd := digestOf v })).wr .rel R.REL_SD_COMMITTED (digestOf v).toNat)

end Sys2Proof.Machine
end

