-- ==== Sys2Proof/Machine/Heat.lean ====
section
/-! DEFINITION. Heat tests of cores, Catch units and Finish engines (R649 to R654). -/

namespace Sys2Proof.Machine

/-- The number KIND << 12 | INDEX of a unit, as HEAT_EXPOSED_UNIT holds it (R665). -/
def heatUnit (kind index : Nat) : Nat := kind * 4096 + index

/-- R653, R654: a unit's test has failed. -/
def State.heatFail (s : State) (kind index : Nat) : State :=
  let u := heatUnit kind index
  let s := (s.count .rel R.REL_HEAT_FAILS 1).raise .rel E.REL_HEAT_FAIL (BitVec.ofNat 32 u) 0
  let last := SMap.get (fun _ => 0) s.ump.passed u
  let s := ((s.wr .rel R.REL_HEAT_EXPOSED_UNIT u).wr .rel R.REL_HEAT_EXPOSED_FIRST (last + 1)).wr .rel R.REL_HEAT_EXPOSED_LAST s.committedStep
  s.steps.foldl (fun s x =>
    if x.word.getLsbD 1 then s
    else (s.modStep x.step.toNat (fun x => { x with word := x.word ||| 2#32 })).count .rel R.REL_SUSPECT_STEPS 1) s

/-- The result of a unit's test. -/
def State.heatResult (s : State) (kind index : Nat) (pass : Bool) : State :=
  if pass then s.modUmp (fun u => { u with passed := SMap.put (SMap.erase u.passed (heatUnit kind index)) (heatUnit kind index) s.committedStep })
  else s.heatFail kind index

/-- Is a core under test? -/
def State.underTest (s : State) (c : CoreId) : Bool := s.rb (.core c) R.CORE_CORE_CFG 8

/-- Is a core to be tested for a blamed tile (R635)? -/
def State.blamed (s : State) (c : CoreId) : Bool := s.ump.blames.any (fun b => b.cores.contains c.val)

/-- HEAT_DUE (R649, R650): a core in service falls due. -/
def execHeatDue (c : CoreId) (s : State) : Out :=
  s.live (
    if (s.rb .rel R.REL_HEAT_CFG 0 || s.blamed c) && s.coreAvail c && !s.underTest c && !s.ump.due.contains c.val then
      s.modUmp (fun u => { u with due := u.due ++ [c.val] })
    else s)

/-- R119: is no thread of any train on the core? -/
def State.coreIdle (s : State) (c : CoreId) : Bool := (List.range 8).all (fun t => ((s.core c).thread t).item.isNone)

/-- HEAT_TEST_START (R119, R649, R650): an idle core that is due is taken, one core of a tile at a time. -/
def execHeatTestStart (c : CoreId) (s : State) : Out :=
  s.live (
    let others := (List.range 16).any (fun k => s.underTest (coreOf (tileOfCore c) k))
    if s.ump.due.contains c.val && s.coreIdle c && !others then
      ((s.modUmp (fun u => { u with due := u.due.erase c.val })).wb (.core c) R.CORE_CORE_CFG 8 true).count .rel R.REL_HEAT_TESTS 1
    else s)

/-- HEAT_DEFER (R650): a core that was not idle within WAIT_US. -/
def execHeatDefer (c : CoreId) (s : State) : Out :=
  s.live (
    if s.ump.due.contains c.val && !s.underTest c then
      (s.modUmp (fun u => { u with due := u.due.erase c.val })).count .rel R.REL_HEAT_DEFERRED 1
    else s)

/-- A core's test ends (R651, R653); the blame that waits for it may end (R635). -/
def State.endTest (s : State) (c : CoreId) (pass : Bool) : State :=
  if s.underTest c then
    let s := (s.wb (.core c) R.CORE_CORE_CFG 8 false).heatResult 1 c.val pass
    (s.modUmp (fun u => { u with blames := u.blames.map (fun b =>
      if b.cores.contains c.val then { b with cores := b.cores.erase c.val, failed := b.failed || !pass } else b) })).settleBlames
  else s

/-- HEAT_TEST_DONE (R651, R653). -/
def execHeatTestDone (c : CoreId) (pass : Bool) (s : State) : Out := s.live (s.endTest c pass)

/-- HEAT_TEST_TIMEOUT (R651): 400 µs have passed. -/
def execHeatTestTimeout (c : CoreId) (s : State) : Out := s.live (s.endTest c false)

/-- HEAT_CATCH_TEST (R652): a base die tests its rules on spare rows of its reserve; no module address holds them. -/
def execHeatCatchTest (st : StackId) (pass : Bool) (s : State) : Out :=
  s.live (
    if s.rb .rel R.REL_HEAT_CFG 1 && s.enabled (.base st) then (s.count .rel R.REL_HEAT_TESTS 1).heatResult 2 st.val pass else s)

/-- HEAT_FINISH_TEST (R652): a Finish engine tests itself while no update is in progress. What it leaves in its reservation is not
modelled: no rule gives the place of its MiB. -/
def execHeatFinishTest (t : TileId) (pass : Bool) (s : State) : Out :=
  s.live (
    if s.rb .rel R.REL_HEAT_CFG 2 && s.enabled (.fin t) && (s.fin t).job.isNone then (s.count .rel R.REL_HEAT_TESTS 1).heatResult 3 t.val pass else s)

/-- HEAT_LATE (R650): a unit has gone untested for twice PERIOD_US. -/
def execHeatLate (kind : BitVec 4) (index : BitVec 12) (s : State) : Out :=
  s.live (
    if 1 ≤ kind.toNat ∧ kind.toNat ≤ 3 ∧ s.rb .rel R.REL_HEAT_CFG (kind.toNat - 1) then
      s.raise .rel E.REL_HEAT_LATE (BitVec.ofNat 32 (heatUnit kind.toNat index.toNat)) 0
    else s)

end Sys2Proof.Machine
end

