-- ==== Sys2Proof/Machine/Blocks.lean ====
section
/-! DEFINITION. The states of a block (R57 to R65, R783, R791): what enabling, shutting down, abandoning and fencing do to each kind of
page. -/

namespace Sys2Proof.Machine

/-! Accepted work. -/

/-- Is a gather stage at work on a command at engine g? -/
def StageRun.gathersAt (x : StageRun) (g : GatherId) : Bool :=
  x.desc.engine == 1 && !x.done && (match x.carry with | some k => k.engine == g.val && (k.desc.isSome || k.entry.isSome) | none => false)

/-- Does the chain unit of the router work on a step? -/
def State.chainBusy (s : State) : Bool := (match s.chain.step with | some n => s.openNow == some n && s.chain.failed.isNone | none => false)

/-- R51: has a block accepted work that is not complete? What the host interface accepts it completes at once. -/
def State.accepted (s : State) (p : Page) : Bool :=
  let ringBusy (g : RingId) : Bool := (s.ring g).cmd.isSome || (s.ring g).wait.isSome || !(s.ring g).copies.isEmpty
  match p with
  | .cox t => !(s.cox t).trains.isEmpty || (List.finRange 4).any (fun r => ringBusy (.cox t r))
  | .core c => !s.coreIdle c
  | .gather g =>
    s.remoteReads.any (fun r => r.engine == g.val && r.seat.isNone) ||
      (s.cox (tileOf (g.val / 4))).trains.any (fun tr => tr.failed.isNone && tr.stages.any (fun x => x.gathersAt g))
  | .base st => !(s.catchSt st).inbox.isEmpty || !(s.catchSt st).txns.isEmpty
  | .fin t => (s.fin t).job.isSome || (s.fin t).refreshing
  | .copy e => ringBusy (.copy e)
  | .port q => !(s.port q).replay.isEmpty || !(s.port q).queues.all (fun l => l.isEmpty)
  | .router => !s.inject.isEmpty || s.chainBusy
  | .rel => s.ump.resuming || s.ump.rescanning || s.ump.recheck.isSome
  | .hrd => (match s.hrd.boundary with | some b => b.phase == .refreshing | none => false)
  | _ => false

/-! Abandoning (R61, R64). -/

/-- R791: a command that a ring has read and not started is abandoned: a TRAIN completes with STATUS 5, anything else has no effect. -/
def State.abandonCmd (s : State) (g : RingId) : State :=
  let c := (s.ring g).cmd
  let s := s.setRing g { s.ring g with cmd := none, first := none, wait := none, copies := [], reread := false, retries := 0 }
  match g, c with
  | .cox t _, some c =>
    if c.opcode = 1 then
      let (st, s) := s.fresh
      let (v, s) := s.fresh
      let w := recFld c.body 0x10 4 31 0
      (s.writeRecord t (recFld c.body 0x18 8 63 0) (w.testBit 20)
        { status := 5, failStage := v.toNat % 16, trainId := BitVec.ofNat 16 w, cores := 0, step := BitVec.ofNat 64 (recFld c.body 8 8 63 0), start := st,
          stop := s.fabTime, evs := {}, stall := 0, hold := 0, user := BitVec.ofNat 64 (recFld c.body 0x20 8 63 0) }).cmdIrq g c.irq
    else s
  | _, _ => s

/-- R116: the trains with work on a core complete with STATUS 2. -/
def State.loseCore (s : State) (c : CoreId) : State :=
  let its := (List.range 8).filterMap (fun t => ((s.core c).thread t).item)
  let s := if its.isEmpty then s else s.err (.cox (tileOfCore c)) E.COX_CORE_LOST
  its.foldl (fun s it => s.endTrain (tileOfCore c) it.train 2 it.stage) s

/-- R64: the steps of abandoned Catch work fail. -/
def State.dropUpdates (s : State) (st : StackId) : State :=
  let x := s.catchSt st
  let ns : List Nat := (x.inbox ++ x.txns).map (fun (u : Txn) => u.step.toNat)
  ns.eraseDups.foldl State.failStep (s.setCatch st { x with inbox := [], txns := [] })

/-- A block abandons its accepted work (R61). The trains of a tile complete with STATUS 5; no stage failed: FAIL_STAGE is a free
value. -/
def State.abandonWork (s : State) (p : Page) : State :=
  match p with
  | .cox t =>
    let s := ((s.cox t).trains.filter (fun tr => tr.failed.isNone)).foldl (fun s tr =>
      let (v, s) := s.fresh
      s.endTrain t tr.uid 5 (v.toNat % 16)) s
    (List.finRange 4).foldl (fun s r => s.abandonCmd (.cox t r)) s
  | .core c => s.loseCore c
  | .gather g =>
    let t := tileOf (g.val / 4)
    let mine := s.remoteReads.filter (fun r => r.engine == g.val)
    let s := { s with remoteReads := s.remoteReads.filter (fun r => r.engine != g.val) }
    let s := mine.foldl (fun s r => match r.seat with | some x => s.seatAnswer x none | none => s.failStage t r.train r.stage) s
    (s.cox t).trains.foldl (fun s tr =>
      (List.range tr.stages.length).foldl (fun s k =>
        match tr.stages[k]? with
        | some x => if x.gathersAt g then s.failStage t tr.uid k else s
        | none => s) s) s
  | .base st => (s.finishTxns st).dropUpdates st
  | .fin t =>
    match (s.fin t).job with
    | some j => (s.cutFin t).failStage t j.train j.stage
    | none => s.setFin t { s.fin t with refreshing := false }
  | .copy e => s.abandonCmd (.copy e)
  | .port q => s.dropPort q
  | .hrd => s.dropRefreshes
  | .router =>
    let s := match s.chain.step with
      | some n => (((s.abandonNotices n).modChain (fun c => { c.clear with step := some n, failed := some 3 }))).failStep n
      | none => s
    let ms := s.inject
    ms.foldl State.answerError { s with inject := [] }
  | .rel => match s.ump.recheck with | some n => s.failStep n | none => s
  | _ => s

/-! Enabled and disabled (R58, R61, R62). -/

/-- R78: a COX enable reads TSRAM_CFG; under a changed cache size every dirty tile is written back and the cache emptied. -/
def State.sampleCache (s : State) (t : TileId) : State :=
  let n := s.rf (.cox t) R.COX_TSRAM_CFG 4 0
  if (s.cox t).cacheSize = n then s
  else
    let s := s.invalCache t
    s.setCox t { s.cox t with cacheSize := n }

/-- A block starts from its reset internal state with the current controls; with EXPERT 0 its expert region is derived (R58). -/
def State.startBlock (s : State) (p : Page) : State :=
  let s := (s.wb p R.SH_STATUS 3 true).wb p R.SH_STATUS 2 false
  let s := if s.expert p then s else s.rederivePage p
  match p with
  | .hrd => s.enableHrd
  | .fin t => s.enableFin t
  | .cox t => s.sampleCache t
  | .router => s.enableChain
  | .port q => s.enablePort q
  | _ => s

/-- A block's internal state returns to reset (R61); tables and memory stay as they stand (R62), and so do the journals and digests of
memory. A COX shutdown writes back its dirty tiles (R495). What the module keeps of its uncommitted steps is none of REL's internal state
(DEDUCED; log entry 227). -/
def State.resetBlock (s : State) (p : Page) : State :=
  match p with
  | .cox t =>
    let s := s.invalCache t
    let s := s.setCox t { s.cox t with turn := 0 }
    (List.finRange 4).foldl (fun s r => s.setRing (.cox t r) RingSt.init) s
  | .core c =>
    let x := s.core c
    s.setCore c { Core.init with scratch := x.scratch, scratchUe := x.scratchUe }
  | .base st =>
    let x := s.catchSt st
    s.setCatch st { CatchSt.init with nextTxn := x.nextTxn, journal := x.journal, jpos := x.jpos, ring := x.ring, rd := x.rd, origin := x.origin,
                                      crd := x.crd, lrc := x.lrc, reserveUe := x.reserveUe }
  | .fin t => s.setFin t { s.fin t with job := none, noted := [], refreshing := false, ovf := none }
  | .copy e => s.setRing (.copy e) RingSt.init
  | .port q => s.disablePort q
  | .router => { s.modChain ChainSt.clear with inject := [], children := [], bars := [] }
  | .hrd => s.restartHrd
  | .rel => s.modUmp (fun u => { u with resuming := false, rescanning := false, recheck := none, second := [], due := [], blames := [] })
  | _ => s

/-- R61: a shutdown abandons. -/
def State.startAbandon (s : State) (p : Page) : State := (s.wb p R.SH_STATUS 5 true).abandonWork p

/-- R61: a shutdown starts. -/
def State.startShutdown (s : State) (p : Page) (abandon : Bool) : State :=
  let s := (s.wb p R.SH_STATUS 3 false).wb p R.SH_STATUS 1 true
  if abandon then s.startAbandon p else s

/-- Is a shutdown of the page in progress? -/
def State.draining (s : State) (p : Page) : Bool := s.rb p R.SH_STATUS 1
/-- STATUS.ABANDONING. -/
def State.abandoning (s : State) (p : Page) : Bool := s.rb p R.SH_STATUS 5

/-- R61, R57: CTRL.ENABLE written 1. -/
def State.writeEnable (s : State) (p : Page) : State :=
  if p.always then s
  else if s.rb p R.SH_STATUS 4 then s.ctlAccess p
  else if s.draining p then (s.wb p R.SH_CTRL 0 true).wb p R.SH_STATUS 2 true
  else if s.enabled p then s.wb p R.SH_CTRL 0 true
  else (s.wb p R.SH_CTRL 0 true).startBlock p

/-- R61, R57: CTRL.ENABLE written 0. A port whose fence is cleared leaves FAULT so (R526, R693). -/
def State.writeDisable (s : State) (p : Page) : State :=
  if p.always then s.ctlAccess p
  else
    let s := s.wb p R.SH_CTRL 0 false
    if s.draining p then s.wb p R.SH_STATUS 2 false
    else if s.enabled p then s.startShutdown p !(s.rb p R.SH_CTRL 2)
    else
      match p with
      | .port q => if s.portState q = 4 && !s.rb p R.SH_STATUS 4 then s.setPortState q 0 else s
      | _ => s

/-- R61: CTRL.DRAIN written. -/
def State.writeDrain (s : State) (p : Page) (v : Bool) : State :=
  let s := s.wb p R.SH_CTRL 2 v
  if !v && s.draining p && !s.abandoning p then s.startAbandon p else s

/-- R60, R783: CTRL.EXPERT written. -/
def State.writeExpert (s : State) (p : Page) (v : Bool) : State :=
  if s.expert p = v then s
  else if p.always then
    let s := s.wb p R.SH_CTRL 1 v
    if v then s else s.rederivePage p
  else if s.enabled p || s.draining p || s.rb p R.SH_STATUS 2 then s.ctlAccess p
  else s.wb p R.SH_CTRL 1 v

/-- R51, R55: CNT_CLR clears the counters of a page; a status register stays. -/
def State.clearCounters (s : State) (p : Page) : State :=
  p.rows.foldl (fun s r =>
    if decide (0x100 ≤ r.off) && decide (r.off < 0x1000) && !p.isStatusReg r.off then
      (List.range r.count).foldl (fun s i => s.wr p (r.off + i * r.stride) 0) s
    else s) s

/-- A write of a page's CTRL register, field by field: EXPERT and DRAIN before ENABLE. -/
def State.writeCtrl (s : State) (p : Page) (v : Nat) : State :=
  let s := (s.writeExpert p (v.testBit 1)).writeDrain p (v.testBit 2)
  let s := s.wb p R.SH_CTRL 9 (v.testBit 9)
  let s := if v.testBit 8 then s.clearCounters p else s
  if v.testBit 0 then s.writeEnable p else s.writeDisable p

/-- R61, R693: the fence row: shutdown with ABANDONING 1, ENABLE_PENDING 0, FENCED 1. A fence of a stack leaves a prefix of what each
transaction was writing (R347); a fenced port enters FAULT. Of a Disabled block only FENCED changes: it has no work to shut down (DESIGN
CHOICE; log entry 226). -/
def State.fencePage (s : State) (p : Page) : State :=
  let s := (s.wb p R.SH_STATUS 4 true).wb p R.SH_STATUS 2 false
  let s := match p with
    | .base st =>
      let x := s.catchSt st
      let ns : List Nat := (x.inbox ++ x.txns).map (fun (u : Txn) => u.step.toNat)
      ns.eraseDups.foldl State.failStep (s.cutCatch st)
    | _ => s
  let s := if s.enabled p then s.startShutdown p true
    else if s.draining p && !s.abandoning p then s.startAbandon p
    else s
  match p with
  | .port q => (s.setPortState q 4).dropPort q
  | _ => s

/-! Commands. -/

/-- ENABLE (R61). -/
def execEnableBlock (page : Page) (s : State) : Out := s.live (s.writeEnable page)

/-- DISABLE (R61). -/
def execDisableBlock (page : Page) (s : State) : Out := s.live (s.writeDisable page)

/-- DRAIN_WRITE (R61). -/
def execDrainWrite (page : Page) (v : Bool) (s : State) : Out := s.live (s.writeDrain page v)

/-- EXPERT_WRITE (R60, R783). -/
def execExpertWrite (page : Page) (v : Bool) (s : State) : Out := s.live (s.writeExpert page v)

/-- CNT_CLR (R51, R55). -/
def execCntClr (page : Page) (s : State) : Out := s.live (s.clearCounters page)

/-- SHUTDOWN_COMPLETE (R61, R62, R526): the accepted work of a page that shuts down is finished or abandoned. A held enable takes effect.
A fenced port stays in FAULT until it is disabled once its fence is cleared. -/
def execShutdownComplete (page : Page) (s : State) : Out :=
  s.live (
    if s.draining page && (s.abandoning page || !s.accepted page) then
      let s := s.resetBlock page
      let s := match page with
        | .port q => if s.rb page R.SH_STATUS 4 then s.setPortState q 4 else s
        | _ => s
      let s := (s.wb page R.SH_STATUS 1 false).wb page R.SH_STATUS 5 false
      if s.rb page R.SH_STATUS 2 then s.startBlock page else s
    else s)

/-- DRAIN_TIMEOUT (R61): LIMIT_US has passed in a completing shutdown. -/
def execDrainTimeout (page : Page) (s : State) : Out :=
  s.live (
    if s.draining page && !s.abandoning page && s.rf page R.SH_DRAIN_LIMIT 31 0 != 0 then (s.err page E.DRAIN_TIMEOUT).startAbandon page
    else s)

/-- R53: FIRST_ERR.VALID cleared. -/
def State.clearFirstErr (s : State) (p : Page) : State := s.wr p R.SH_FIRST_ERR 0

/-- FIRST_ERR_CLEAR (R53). -/
def execFirstErrClear (page : Page) (s : State) : Out := s.live (s.clearFirstErr page)

/-- BASIC_REDERIVE (R783): after a write of a basic control of a page of R57 while EXPERT is 0. -/
def State.basicWritten (s : State) (p : Page) : State := if p.always && !s.expert p then s.rederivePage p else s

/-- BASIC_REDERIVE. -/
def execBasicRederive (page : Page) (s : State) : Out := s.live (s.basicWritten page)

/-- R54: a write of ERR_INJECT. -/
def State.writeInject (s : State) (p : Page) (v : Nat) : State :=
  if s.expert p && decide (fld v 20 16 ≤ 27) then
    let v := setFld v 30 21 0
    s.wr p R.SH_ERR_INJECT (if fld v 15 0 = 0 then setFld v 31 31 0 else v)
  else s.ctlAccess p

/-- ERR_INJECT (R54). -/
def execErrInject (page : Page) (v : W32) (s : State) : Out := s.live (s.writeInject page v.toNat)

end Sys2Proof.Machine
end

