-- ==== Sys2Proof/Machine/Fault.lean ====
section
/-! DEFINITION. The fault collector (R666 to R709, R803 to R805): reports, the Wake, reactions, fences, the stop, wire faults and the
stroke. -/

namespace Sys2Proof.Machine

/-- The fault collector changes. -/
def State.modFlt (s : State) (f : FltSt → FltSt) : State := { s with flt := f s.flt }

/-! Sources and subjects (R675 to R677). -/

/-- R675: the source index of a page's bit. -/
def sourceOf (p : Page) (bitNo : Nat) : Nat := 32 * slotOf p + bitNo

/-- R46: the instance index of a page. -/
def instanceOf (p : Page) : Nat := p.blkId % 65536

/-- A unit that can be fenced, as FENCE_CLR names it (R708): 1 core, 2 tile, 3 stack, 4 Selaz port, 5 copy engine. -/
structure FUnit where
  kind : Nat
  index : Nat
deriving DecidableEq, Repr

/-- R675, R676: the subject of a report; the syndrome names the unit of HEAT_FAIL and ODD_TILE. -/
def subjectOf (p : Page) (bitNo : Nat) (syn : W32) : Option FUnit :=
  match p with
  | .cox t => some ⟨2, t.val⟩
  | .core c => some ⟨1, c.val⟩
  | .base st => some ⟨3, st.val⟩
  | .port q => some ⟨4, q.val⟩
  | .copy e => some ⟨5, e.val⟩
  | .gather g => some ⟨2, g.val / 4⟩
  | .fin t => some ⟨2, t.val⟩
  | .rel =>
    if bitNo = E.REL_HEAT_FAIL then
      let i := syn.toNat % 4096
      match syn.toNat / 4096 with
      | 1 => some ⟨1, i⟩
      | 2 => some ⟨3, i⟩
      | 3 => some ⟨2, i⟩
      | _ => none
    else if bitNo = E.REL_ODD_TILE then some ⟨2, syn.toNat % 8⟩
    else none
  | _ => none

/-! Fences (R693, R694). -/

/-- The register and bit that show a unit's fence. -/
def FUnit.bit (u : FUnit) : Nat × Nat :=
  match u.kind with
  | 1 => if u.index < 64 then (R.FLT_FENCED_CORES_LO, u.index) else (R.FLT_FENCED_CORES_HI, u.index - 64)
  | 2 => (R.FLT_FENCED_UNITS, 56 + u.index)
  | 3 => (R.FLT_FENCED_UNITS, u.index)
  | 4 => (R.FLT_FENCED_UNITS, 48 + u.index)
  | _ => (R.FLT_FENCED_UNITS, 32 + u.index)

/-- R693: the pages of a unit. -/
def FUnit.pages (u : FUnit) : List Page :=
  match u.kind with
  | 1 => [.core (Fin.ofNat 128 u.index)]
  | 2 =>
    let t := tileOf u.index
    [.cox t] ++ (List.range 16).map (fun c => .core (coreOf t c)) ++ (List.range 4).map (fun g => .gather (Fin.ofNat 32 (4 * t.val + g))) ++ [.fin t]
  | 3 => [.base (stackOf u.index)]
  | 4 => [.port (Fin.ofNat 6 u.index)]
  | _ => [.copy (Fin.ofNat 16 u.index)]

/-- R694: does the unit exist? -/
def FUnit.exists (u : FUnit) : Bool :=
  match u.kind with
  | 1 => decide (u.index < 128)
  | 2 => decide (u.index < 8)
  | 3 => decide (u.index < 32)
  | 4 => decide (u.index < 6)
  | 5 => decide (u.index < 16)
  | _ => false

/-- The units whose FENCED bits a fence or a clear changes: a tile's with its cores. -/
def FUnit.with (u : FUnit) : List FUnit := if u.kind = 2 then u :: (List.range 16).map (fun c => ⟨1, 16 * u.index + c⟩) else [u]

/-- Is a unit fenced? -/
def State.unitFenced (s : State) (u : FUnit) : Bool := s.rb .flt u.bit.1 u.bit.2

/-- The FENCED bits of a unit. -/
def State.setFenced (s : State) (u : FUnit) (b : Bool) : State := u.with.foldl (fun s x => s.wb .flt x.bit.1 x.bit.2 b) s

/-- R693: a unit is fenced; one already fenced takes no further effect (R691). A fenced tile leaves the rotation list. -/
def State.fence (s : State) (u : FUnit) : State :=
  if s.unitFenced u then s
  else
    let s := (s.setFenced u true).count .flt R.FLT_FENCES 1
    let s := if u.kind = 2 then s.modUmp (fun x => { x with tiles := x.tiles.filter (fun t => t != u.index) }) else s
    u.pages.foldl State.fencePage s

/-- R694: FENCE_CLR written with CLR 1. -/
def State.clearFence (s : State) (u : FUnit) : State :=
  if !u.exists || u.pages.any (fun p => s.draining p) || (u.kind == 1 && s.unitFenced ⟨2, u.index / 16⟩) then s.ctlAccess .flt
  else if !s.unitFenced u then s
  else u.pages.foldl (fun s p => s.wb p R.SH_STATUS 4 false) (s.setFenced u false)

/-- A write of FENCE_CLR. -/
def State.writeFenceClr (s : State) (v : Nat) : State :=
  let s := (s.wf .flt R.FLT_FENCE_CLR 18 16 (fld v 18 16)).wf .flt R.FLT_FENCE_CLR 11 0 (fld v 11 0)
  if v.testBit 31 then s.clearFence ⟨fld v 18 16, fld v 11 0⟩ else s

/-! The stroke (R703 to R706). -/

/-- R705: the stroke is driven low; how says what ends it. -/
def State.strokeLow (s : State) (how : Nat) : State :=
  (s.modFlt (fun f => { f with stroke := false, low := max f.low how })).wb .flt R.FLT_STROKE_CTL 2 false

/-- R703, R705: STROKE_CTL.EN written. -/
def State.strokeEn (s : State) (v : Bool) : State :=
  let s := s.wb .flt R.FLT_STROKE_CTL 0 v
  if v then (if s.flt.low = 0 then s.modFlt (fun f => { f with stroke := true }) else s)
  else (s.modFlt (fun f => { f with stroke := false, low := if f.low = 1 then 0 else f.low })).wb .flt R.FLT_STROKE_CTL 2 false

/-- STROKE_EDGE (R703): half a period has passed. -/
def execStrokeEdge (s : State) : Out :=
  s.live (if s.flt.stroke then s.wb .flt R.FLT_STROKE_CTL 2 !(s.rb .flt R.FLT_STROKE_CTL 2) else s)

/-- STROKE_ENABLE (R703, R705). -/
def execStrokeEnable (v : Bool) (s : State) : Out := s.live (s.strokeEn v)

/-- FORCE_STOP (R705). -/
def execForceStop (s : State) : Out := s.live (s.strokeLow 1)

/-! Reactions (R689 to R697, R803, R804). -/

/-- R803: the rank of a reaction code in severity. -/
def severity (r : Nat) : Nat := if r = 2 then 3 else if r = 3 then 2 else r

/-- The less severe of two reactions. -/
def milder (a b : Nat) : Nat := if severity a ≤ severity b then a else b
/-- The more severe of two reactions. -/
def harsher (a b : Nat) : Nat := if severity a ≤ severity b then b else a

/-- R696: the pages that a STOP shuts down. -/
def stopPages : List Page :=
  (List.finRange 8).map .cox ++ (List.finRange 128).map .core ++ (List.finRange 32).map .gather ++ (List.finRange 8).map .fin ++
    (List.finRange 16).map .copy

/-- R696, R804: the module stops. Its abort and verdict token go out before it is silent. -/
def State.stop (s : State) : State :=
  let s := match s.openNow with
    | some n => (s.failStep n).abandonStep n
    | none => s
  let s := (s.wb .flt R.FLT_FLT_STATE 1 true).wb .flt R.FLT_FLT_IRQ 1 true
  let s := ((s.err .flt E.FLT_STOP_TAKEN).raiseIrq 49).strokeLow 2
  let s := stopPages.foldl (fun s p =>
    let s := (s.wb p R.SH_CTRL 0 false).wb p R.SH_STATUS 2 false
    if s.enabled p then s.startShutdown p true
    else if s.draining p && !s.abandoning p then s.startAbandon p
    else s) s
  let s := (List.finRange 32).foldl (fun s st =>
    let s := s.finishTxns st
    s.setCatch st { s.catchSt st with inbox := [], txns := [] }) s
  s.modChain (fun c => { c.clear with step := c.step, failed := some 3 })

/-- R689: a reaction; a stopped module takes none beyond LOG (R691). -/
def State.takeReaction (s : State) (r : Nat) (u : Option FUnit) : State :=
  if s.stopped || r == 0 then s
  else
    let s := (s.wb .flt R.FLT_FLT_IRQ 0 true).raiseIrq 48
    let s := match u with
      | some u => if r = 2 ∨ r = 3 then s.fence u else s
      | none => s
    let s := if r = 2 then (s.wb .flt R.FLT_FLT_STATE 0 true).err .flt E.FLT_HOLD_TAKEN else s
    if r = 4 then s.stop else s

/-! The Wake (R679 to R686). -/

/-- SOURCE, INSTANCE and SYNDROME of an entry. -/
def WakeEnt.key (e : WakeEnt) : Nat × Nat × Nat := (fld e.w1.toNat 63 54, fld e.w1.toNat 53 46, fld e.w2.toNat 31 0)
/-- SEQ of an entry. -/
def WakeEnt.seq (e : WakeEnt) : Nat := e.w1.toNat % 2 ^ 32
/-- VALID of an entry. -/
def WakeEnt.valid (e : WakeEnt) : Bool := e.w1.toNat.testBit 36
/-- R682: one more report coalesced. -/
def WakeEnt.again (e : WakeEnt) : WakeEnt :=
  { e with w2 := BitVec.ofNat 64 (setFld e.w2.toNat 63 32 (min (fld e.w2.toNat 63 32 + 1) 0xFFFFFFFF)) }

/-- The offset of the Wake entry with a SEQ. -/
def wakeOff (seq : Nat) : Nat := R.FLT_WAKE + 32 * (seq % 64)

/-- The entry at an offset of the FLT page. -/
def State.wakeAt (s : State) (off : Nat) : WakeEnt :=
  let r (k : Nat) : W64 := BitVec.ofNat 64 (s.rd .flt (off + 8 * k))
  ⟨r 0, r 1, r 2, r 3⟩

/-- An entry written at an offset of the FLT page. -/
def State.putWake (s : State) (off : Nat) (e : WakeEnt) : State :=
  (((s.wr .flt off e.w0.toNat).wr .flt (off + 8) e.w1.toNat).wr .flt (off + 16) e.w2.toNat).wr .flt (off + 24) e.w3.toNat

/-- WAKE_HEAD.NEXT_SEQ. -/
def State.nextSeq (s : State) : Nat := s.rf .flt R.FLT_WAKE_HEAD 31 0

/-- R682: the newest of the 8 newest entries with a key, not 1,000 ns old at a time: its place in the queue, or the offset at which it
is written. -/
def State.wakeMatch (s : State) (key : Nat × Nat × Nat) (time : Nat) : Option (Nat ⊕ Nat) :=
  let fits (e : WakeEnt) : Bool := e.key == key && decide (e.w0.toNat ≤ time) && decide (time < e.w0.toNat + 1000) && !e.w1.toNat.testBit 37
  let n := s.flt.queue.length
  let q : List (Nat ⊕ Nat) := ((List.range n).reverse.take 8).map Sum.inl
  let w : List (Nat ⊕ Nat) := (List.range (8 - q.length)).map (fun k => Sum.inr (wakeOff ((s.nextSeq + 2 ^ 32 - 1 - k) % 2 ^ 32)))
  (q ++ w).find? (fun x =>
    match x with
    | .inl i => (match s.flt.queue[i]? with | some e => fits e | none => false)
    | .inr o => (s.wakeAt o).valid && fits (s.wakeAt o))

/-- R679: FIRST_WAKE captures an entry while its VALID is 0. -/
def State.firstWake (s : State) (e : WakeEnt) : State :=
  if s.rb .flt (R.FLT_FIRST_WAKE + 8) 36 then s else s.putWake R.FLT_FIRST_WAKE e

/-- R682, R684: an event is recorded: it coalesces, waits in the queue, or is dropped. A wire fault has an entry of its own. -/
def State.recordWake (s : State) (e : WakeEnt) (cls : Nat) (wire : Bool) : State :=
  match (if wire then none else s.wakeMatch e.key e.w0.toNat) with
  | some (.inl i) =>
    let s := (s.modFlt (fun f => { f with queue := modNth WakeEnt.again f.queue i })).count .flt R.FLT_COALESCED 1
    (s.count .flt (R.FLT_CLASS_EVENTS + 8 * cls) 1).firstWake (nth e s.flt.queue i)
  | some (.inr o) =>
    let x := (s.wakeAt o).again
    (((s.wr .flt (o + 16) x.w2.toNat).count .flt R.FLT_COALESCED 1).count .flt (R.FLT_CLASS_EVENTS + 8 * cls) 1).firstWake x
  | none =>
    if 32 ≤ s.flt.queue.length then
      let e := { e with w1 := BitVec.ofNat 64 (setFld (setFld e.w1.toNat 31 0 s.nextSeq) 35 35 1) }
      ((s.firstWake e).count .flt R.FLT_WAKE_DROPPED 1).err .flt E.FLT_WAKE_DROP
    else
      let e := { e with w1 := BitVec.ofNat 64 (setFld e.w1.toNat 31 0 ((s.nextSeq + s.flt.queue.length) % 2 ^ 32)) }
      ((s.modFlt (fun f => { f with queue := f.queue ++ [e] })).count .flt (R.FLT_CLASS_EVENTS + 8 * cls) 1).firstWake e

/-- R680: an entry, its SEQ still to come. -/
def State.wakeEntry (s : State) (time : W64) (source inst cls react : Nat) (susp inj wire : Bool) (syn : W32) (addr : W64) : WakeEnt :=
  { w0 := time,
    w1 := BitVec.ofNat 64 (source * 2 ^ 54 + inst * 2 ^ 46 + cls * 2 ^ 43 + react * 2 ^ 40 + b2n susp * 2 ^ 39 + b2n inj * 2 ^ 38 + b2n wire * 2 ^ 37 + 2 ^ 36),
    w2 := BitVec.ofNat 64 syn.toNat,
    w3 := BitVec.ofNat 64 (s.openStep % 65536 * 2 ^ 48 + addr.toNat % 2 ^ 48) }

/-- R692: would a report mark a step? With no step open it marks nothing. -/
def State.marks (s : State) (susp : Bool) : Bool := susp && s.openNow.isSome && !s.stopped

/-- R667, R690 to R692, R701: a report reaches the module collector. -/
def State.takeReport (s : State) (r : Report) : State :=
  let src := sourceOf r.page r.bit
  let w := s.tblWord .frt src
  let s := s.count .flt R.FLT_EVENTS 1
  let s := if r.injected then s.count .flt R.FLT_INJECTED_EVENTS 1 else s
  let cap := min (s.rf .flt R.FLT_INJ_CFG 2 0) 4
  let react := if s.stopped then 0 else if r.injected then milder (fld w 2 0) cap else fld w 2 0
  let mark := s.marks (w.testBit 3)
  let e := s.wakeEntry r.time src (instanceOf r.page) (fld w 6 4) react mark r.injected false r.syndrome r.addr
  let s := if mark then s.suspect else s
  (s.recordWake e (fld w 6 4) false).takeReaction react (subjectOf r.page r.bit r.syndrome)

/-- ERROR_REPORT (R667, R669, R672): the oldest report reaches the collector. The checker of an ignored pair cannot report; a report whose
CRC-8 fails sets COLL_LINK and is sent again. -/
def execErrorReport (crc : Bool) (s : State) : Out :=
  s.liveIn .flt (
    match s.reports with
    | [] => s
    | r :: rest =>
      if !crc then
        let (v, s) := s.fresh
        let s := s.setErr .flt E.FLT_COLL_LINK (v.setWidth 32)
        if s.reports.any (fun x => x.page == .flt && x.bit == E.FLT_COLL_LINK) then s
        else s.report .flt E.FLT_COLL_LINK (v.setWidth 32) 0 false
      else
        let s := { s with reports := rest }
        if s.flt.ignored.contains (sourceOf r.page r.bit, instanceOf r.page) then s else s.takeReport r)

/-- WAKE_ENTRY_WRITE (R681, R684, R685): the next queued entry is written. -/
def execWakeEntryWrite (s : State) : Out :=
  s.liveIn .flt (
    match s.flt.queue with
    | [] => s
    | e :: rest =>
      let old := s.wakeAt (wakeOff e.seq)
      let unread := old.valid && decide ((old.seq + 2 ^ 32 - s.rf .flt R.FLT_WAKE_ACK 31 0) % 2 ^ 32 < 2 ^ 31)
      let s := if unread then (s.count .flt R.FLT_WAKE_OVERWRITTEN 1).err .flt E.FLT_WAKE_OVERWRITE else s
      let s := (s.modFlt (fun f => { f with queue := rest })).putWake (wakeOff e.seq) e
      (s.count .flt R.FLT_WAKE_WRITES 1).wf .flt R.FLT_WAKE_HEAD 31 0 ((e.seq + 1) % 2 ^ 32))

/-! Wire faults (R668, R669, R672, R702). -/

/-- R669: a wire fault on a checker's pair. No rule gives it a syndrome: that is a free value; a pair of REL, whose subject a report names, then
has none (R675). -/
def State.wireFault (s : State) (p : Page) (bitNo : Nat) : State :=
  let src := sourceOf p bitNo
  let inst := instanceOf p
  if s.flt.ignored.contains (src, inst) then s
  else
    let (v, s) := s.fresh
    let syn : W32 := v.setWidth 32
    let s := (s.setErr .flt E.FLT_WIRE_FAULT syn).count .flt R.FLT_WIRE_FAULTS 1
    let s := s.modFlt (fun f => { f with ignored := f.ignored ++ [(src, inst)] })
    if s.rb .flt R.SH_ERR_MASK E.FLT_WIRE_FAULT then s
    else
      let w := s.tblWord .frt src
      let w' := s.tblWord .frt (sourceOf .flt E.FLT_WIRE_FAULT)
      let react := if s.stopped then 0 else harsher (fld w 2 0) (fld w' 2 0)
      let mark := s.marks (w.testBit 3 || w'.testBit 3)
      let e := s.wakeEntry s.fabTime src inst 5 react mark false true syn 0
      let s := if mark then s.suspect else s
      let subject := match p with | .rel => none | _ => subjectOf p bitNo 0
      ((s.count .flt R.FLT_EVENTS 1).recordWake e 5 true).takeReaction react subject

/-- WIRE_FAULT (R669, R672). -/
def execWireFault (w : WirePair) (s : State) : Out :=
  s.live (
    match w with
    | .checker p b => s.wireFault p b.val
    | .collector _ => s.err .flt E.FLT_COLL_LINK)

/-- WIRE_PAIR_RECOVER (R669): an ignored pair has read 01 for 1 µs. -/
def execWirePairRecover (w : WirePair) (s : State) : Out :=
  s.live (
    match w with
    | .checker p b => s.modFlt (fun f => { f with ignored := f.ignored.erase (sourceOf p b.val, instanceOf p) })
    | .collector _ => s)

/-- The page of a slot with an instance index. -/
def pageOfSlot (slot inst : Nat) : Option Page :=
  match slot with
  | 0 => some .mod | 1 => some .pwr | 2 => some .clk | 3 => some .flt | 4 => some .rel | 5 => some .hrd
  | 6 => (finOf 8 inst).map .cox
  | 7 => (finOf 128 inst).map .core
  | 8 => (finOf 32 inst).map .base
  | 9 => (finOf 6 inst).map .port
  | 10 => some .router
  | 11 => (finOf 16 inst).map .copy
  | 12 => (finOf 32 inst).map .gather
  | 13 => (finOf 8 inst).map .fin
  | 14 => some .hostif
  | _ => none

/-- R702: a write of WIRE_INJ: fewer than 4 samples give no wire fault. ARM clears. -/
def State.writeWireInj (s : State) (v : Nat) : State :=
  if !s.expert .flt then s.ctlAccess .flt
  else
    let s := s.wr .flt R.FLT_WIRE_INJ (fld v 31 0)
    let pat := fld v 13 12
    if v.testBit 63 && (pat == 1 || pat == 2) && decide (4 ≤ fld v 11 0) then
      match pageOfSlot (fld v 31 22 / 32) (fld v 21 14) with
      | some p => s.wireFault p (fld v 31 22 % 32)
      | none => s
    else s

/-- WIRE_INJ (R702). -/
def execWireInj (v : W64) (s : State) : Out := s.live (s.writeWireInj (setFld v.toNat 63 63 1))

/-! Controls. -/

/-- CLR (R694). -/
def execFenceClr (v : W32) (s : State) : Out := s.live (s.writeFenceClr (setFld v.toNat 31 31 1))

/-- RELEASE (R695). -/
def execHoldRelease (s : State) : Out := s.live (s.wb .flt R.FLT_FLT_STATE 0 false)

/-- R679: FIRST_WAKE cleared. -/
def State.clearFirstWake (s : State) : State := s.putWake R.FLT_FIRST_WAKE ⟨0, 0, 0, 0⟩

/-- FIRST_WAKE_CLEAR (R679). -/
def execFirstWakeClear (s : State) : Out := s.live s.clearFirstWake

end Sys2Proof.Machine
end

