-- ==== Sys2Proof/Machine/Crypto.lean ====
section
/-! DEFINITION. SHA-384 and ECDSA over P-384, which the checks of firmware images and the report use (R744 to R752). The spec names
both by name; their constants and formulas are those of FIPS 180-4 and FIPS 186 (PRESUMED; log entry 40). -/

namespace Sys2Proof.Machine

/-- A big-endian octet string as a number (R744). -/
def beNat (bs : List Byte) : Nat := bs.foldl (fun n b => n * 256 + b.toNat) 0

/-! SHA-384. -/

/-- The round constants of SHA-384 and SHA-512: the cube roots of the first 80 primes (PRESUMED: FIPS 180-4). -/
def shaK : List Nat :=
  [0x428A2F98D728AE22, 0x7137449123EF65CD, 0xB5C0FBCFEC4D3B2F, 0xE9B5DBA58189DBBC,
  0x3956C25BF348B538, 0x59F111F1B605D019, 0x923F82A4AF194F9B, 0xAB1C5ED5DA6D8118,
  0xD807AA98A3030242, 0x12835B0145706FBE, 0x243185BE4EE4B28C, 0x550C7DC3D5FFB4E2,
  0x72BE5D74F27B896F, 0x80DEB1FE3B1696B1, 0x9BDC06A725C71235, 0xC19BF174CF692694,
  0xE49B69C19EF14AD2, 0xEFBE4786384F25E3, 0x0FC19DC68B8CD5B5, 0x240CA1CC77AC9C65] ++
  [0x2DE92C6F592B0275, 0x4A7484AA6EA6E483, 0x5CB0A9DCBD41FBD4, 0x76F988DA831153B5,
  0x983E5152EE66DFAB, 0xA831C66D2DB43210, 0xB00327C898FB213F, 0xBF597FC7BEEF0EE4,
  0xC6E00BF33DA88FC2, 0xD5A79147930AA725, 0x06CA6351E003826F, 0x142929670A0E6E70,
  0x27B70A8546D22FFC, 0x2E1B21385C26C926, 0x4D2C6DFC5AC42AED, 0x53380D139D95B3DF,
  0x650A73548BAF63DE, 0x766A0ABB3C77B2A8, 0x81C2C92E47EDAEE6, 0x92722C851482353B] ++
  [0xA2BFE8A14CF10364, 0xA81A664BBC423001, 0xC24B8B70D0F89791, 0xC76C51A30654BE30,
  0xD192E819D6EF5218, 0xD69906245565A910, 0xF40E35855771202A, 0x106AA07032BBD1B8,
  0x19A4C116B8D2D0C8, 0x1E376C085141AB53, 0x2748774CDF8EEB99, 0x34B0BCB5E19B48A8,
  0x391C0CB3C5C95A63, 0x4ED8AA4AE3418ACB, 0x5B9CCA4F7763E373, 0x682E6FF3D6B2B8A3,
  0x748F82EE5DEFB2FC, 0x78A5636F43172F60, 0x84C87814A1F0AB72, 0x8CC702081A6439EC] ++
  [0x90BEFFFA23631E28, 0xA4506CEBDE82BDE9, 0xBEF9A3F7B2C67915, 0xC67178F2E372532B,
  0xCA273ECEEA26619C, 0xD186B8C721C0C207, 0xEADA7DD6CDE0EB1E, 0xF57D4F7FEE6ED178,
  0x06F067AA72176FBA, 0x0A637DC5A2C898A6, 0x113F9804BEF90DAE, 0x1B710B35131C471B,
  0x28DB77F523047D84, 0x32CAAB7B40C72493, 0x3C9EBE0A15C9BEBC, 0x431D67C49C100D4C,
  0x4CC5D4BECB3E42B6, 0x597F299CFC657E2A, 0x5FCB6FAB3AD6FAEC, 0x6C44198C4A475817]

/-- The initial hash value of SHA-384 (PRESUMED: FIPS 180-4). -/
def shaInit : List Nat :=
  [0xCBBB9D5DC1059ED8, 0x629A292A367CD507, 0x9159015A3070DD17, 0x152FECD8F70E5939,
  0x67332667FFC00B31, 0x8EB44A8768581511, 0xDB0C2E0D64F98FA7, 0x47B5481DBEFA4FA4]

/-- A 64-bit rotation right. -/
def rotr64 (x : W64) (n : Nat) : W64 := x.rotateRight n

/-- The message schedule, newest word first: words 16 to 79 from the 16 words of a block. -/
def shaSchedule : Nat → List W64 → List W64
  | 0, w => w
  | k + 1, w =>
    let a := nth 0 w 1
    let b := nth 0 w 14
    let s1 := rotr64 a 19 ^^^ rotr64 a 61 ^^^ (a >>> 6)
    let s0 := rotr64 b 1 ^^^ rotr64 b 8 ^^^ (b >>> 7)
    shaSchedule k ((s1 + nth 0 w 6 + s0 + nth 0 w 15) :: w)

/-- One round on the eight working variables a to h. -/
def shaRound (v : List W64) (kw : W64) : List W64 :=
  match v with
  | [a, b, c, d, e, f, g, h] =>
    let t1 := h + (rotr64 e 14 ^^^ rotr64 e 18 ^^^ rotr64 e 41) + ((e &&& f) ^^^ (~~~e &&& g)) + kw
    let t2 := (rotr64 a 28 ^^^ rotr64 a 34 ^^^ rotr64 a 39) + ((a &&& b) ^^^ (a &&& c) ^^^ (b &&& c))
    [t1 + t2, a, b, c, d + t1, e, f, g]
  | v => v

/-- The compression of one block of 128 octets. -/
def shaBlock (h : List W64) (block : List Byte) : List W64 :=
  let w := (List.range 16).map (fun i => BitVec.ofNat 64 (beNat ((block.drop (8 * i)).take 8)))
  let ws := (shaSchedule 64 w.reverse).reverse
  let v := (ws.zip shaK).foldl (fun v p => shaRound v (p.1 + BitVec.ofNat 64 p.2)) h
  List.zipWith (· + ·) h v

/-- The blocks of a padded message. -/
def shaBlocks : Nat → List Byte → List W64 → List W64
  | 0, _, h => h
  | n + 1, m, h => shaBlocks n (m.drop 128) (shaBlock h (m.take 128))

/-- SHA-384 of a message, 48 octets. -/
def sha384 (m : List Byte) : List Byte :=
  let zeros := (239 - m.length % 128) % 128
  let padded := m ++ [0x80#8] ++ List.replicate zeros 0#8 ++ beBytes 16 (8 * m.length)
  let h := shaBlocks (padded.length / 128) padded (shaInit.map (BitVec.ofNat 64))
  ((h.take 6).flatMap (fun x => beBytes 8 x.toNat))

/-! P-384. -/

namespace P384

/-- The field prime. -/
def p : Nat := 2 ^ 384 - 2 ^ 128 - 2 ^ 96 + 2 ^ 32 - 1
/-- The coefficient b. -/
def b : Nat := 0xB3312FA7E23EE7E4988E056BE3F82D19181D9C6EFE8141120314088F5013875AC656398D8A2ED19D2A85C8EDD3EC2AEF
/-- The order of the base point. -/
def n : Nat := 0xFFFFFFFFFFFFFFFFFFFFFFFFFFFFFFFFFFFFFFFFFFFFFFFFC7634D81F4372DDF581A0DB248B0A77AECEC196ACCC52973
/-- The base point. -/
def gx : Nat := 0xAA87CA22BE8B05378EB1C71EF320AD746E1D3B628BA79B9859F741E082542A385502F25DBF55296C3A545E3872760AB7
/-- The base point. -/
def gy : Nat := 0x3617DE4A96262C6F5D9E98BF9292DC29F8F41DBD289A147CE9DA3113B5F0B8C00A60B1CE1D7E819D7A431D7C90EA0E5F

/-- The bits of an exponent or scalar below 2^384, most significant first. -/
def bits (v : Nat) : List Bool := ((List.range 384).map v.testBit).reverse

/-- A power modulo m. -/
def powMod (m a e : Nat) : Nat := (bits e).foldl (fun r t => let q := r * r % m; if t then q * a % m else q) 1

/-- An inverse modulo a prime. -/
def inv (m a : Nat) : Nat := powMod m a (m - 2)

/-- A difference in the field. -/
def sub (x y : Nat) : Nat := (x + p - y % p) % p

/-- A point in Jacobian coordinates; z = 0 is the point at infinity. -/
structure Pt where
  x : Nat
  y : Nat
  z : Nat
deriving DecidableEq, Repr

/-- Twice a point (a = −3). -/
def dbl (q : Pt) : Pt :=
  if q.z = 0 ∨ q.y = 0 then ⟨1, 1, 0⟩
  else
    let d := q.z * q.z % p
    let g := q.y * q.y % p
    let be := q.x * g % p
    let al := 3 * (sub q.x d * ((q.x + d) % p)) % p
    let x := sub (al * al % p) (8 * be % p)
    let z := sub (sub ((q.y + q.z) * (q.y + q.z) % p) g) d
    ⟨x, sub (al * sub (4 * be % p) x % p) (8 * (g * g % p) % p), z⟩

/-- The sum of two points. -/
def add (q r : Pt) : Pt :=
  if q.z = 0 then r
  else if r.z = 0 then q
  else
    let z1 := q.z * q.z % p
    let z2 := r.z * r.z % p
    let u1 := q.x * z2 % p
    let u2 := r.x * z1 % p
    let s1 := q.y * (z2 * r.z % p) % p
    let s2 := r.y * (z1 * q.z % p) % p
    if u1 = u2 then (if s1 = s2 then dbl q else ⟨1, 1, 0⟩)
    else
      let h := sub u2 u1
      let r' := sub s2 s1
      let h2 := h * h % p
      let h3 := h2 * h % p
      let v := u1 * h2 % p
      let x := sub (sub (r' * r' % p) h3) (2 * v % p)
      ⟨x, sub (r' * sub v x % p) (s1 * h3 % p), h * (q.z * r.z % p) % p⟩

/-- A multiple of a point. -/
def mul (k : Nat) (q : Pt) : Pt := (bits k).foldl (fun r t => let d := dbl r; if t then add d q else d) ⟨1, 1, 0⟩

/-- Is a pair of coordinates a point of the curve? -/
def onCurve (x y : Nat) : Bool :=
  decide (x < p) && decide (y < p) && (y * y % p == (sub (x * x % p * x % p) (3 * x % p) + b) % p)

/-- ECDSA verification of a 48-octet digest: the public key as X and Y, the signature as r and s (R744). -/
def verify (pub digest sig : List Byte) : Bool :=
  let qx := beNat (pub.take 48)
  let qy := beNat ((pub.drop 48).take 48)
  let r := beNat (sig.take 48)
  let s := beNat ((sig.drop 48).take 48)
  if !onCurve qx qy || r = 0 || s = 0 || decide (n ≤ r) || decide (n ≤ s) then false
  else
    let w := inv n s
    let t := add (mul (beNat digest * w % n) ⟨gx, gy, 1⟩) (mul (r * w % n) ⟨qx, qy, 1⟩)
    if t.z = 0 then false
    else
      let zi := inv p t.z
      t.x * (zi * zi % p) % p % n == r

end P384

end Sys2Proof.Machine
end

