-- ==== Sys2Proof/Machine/Tables.lean ====
section
/-! DEFINITION. The table groups (R66 to R72, R781): activation, loading and reading of tables. -/

namespace Sys2Proof.Machine

/-- R58: may the group of a table be written? -/
def State.tblOpen (s : State) (tb : TableId) : Bool := tb.basic || s.expert tb.page

/-- A table load or activation refused with TBL_LOAD. -/
def State.tblRefuse (s : State) (tb : TableId) (f : TableSt → TableSt) : State := (s.setTbl tb (f (s.tbl tb))).err tb.page E.TBL_LOAD

/-- R67: the CRC-32C of the shadow bank. -/
def State.shadowCrc (s : State) (tb : TableId) : Nat := crc32c ((s.shadowWords tb).flatMap (fun w => leBytes 8 w.toNat))

/-- R67, R68, R70, R330, R483, R688, R719, R795: ACTIVATE written. A table activated at a step waits for its opening, another one for the
next point between two operations that read it. -/
def State.activate (s : State) (tb : TableId) : State :=
  let x := s.tbl tb
  if !s.tblOpen tb then s.ctlAccess tb.page
  else if x.pending then s
  else if x.held then s.tblRefuse tb id
  else if s.shadowCrc tb ≠ x.crcExp.toNat then s.tblRefuse tb (fun x => { x with crcFail := true })
  else if !tblAccepts tb ((s.shadowWords tb).map BitVec.toNat) then s.tblRefuse tb id
  else if tb.byStep ∧ x.step.toNat ≤ s.openStep then s.tblRefuse tb (fun x => { x with late := true })
  else s.setTbl tb { x with pending := true }

/-- ACTIVATE. -/
def execTblActivate (tb : TableId) (s : State) : Out := s.live (s.activate tb)

/-- R66: ABORT written. -/
def State.abortTbl (s : State) (tb : TableId) : State :=
  if !s.tblOpen tb then s.ctlAccess tb.page else s.setTbl tb { s.tbl tb with pending := false }

/-- ABORT. -/
def execTblAbort (tb : TableId) (s : State) : Out := s.live (s.abortTbl tb)

/-- IMMEDIATE_ACTIVATION (R69, R72): the block is between two operations that read the table. A new route table starts the trees again
(R548); a new refresh curve acts at once (R482). -/
def execImmediateActivation (tb : TableId) (s : State) : Out :=
  s.live (
    if tb.byStep || !(s.tbl tb).pending then s
    else
      let s := s.swapBanks tb
      match tb with
      | .rt => s.routesActivated
      | .rfc st => s.actTemp st false
      | _ => s)

/-- R68, R781: a word access that writes completes. -/
def State.putWord (s : State) (tb : TableId) (w : W64 → W64) : State :=
  let x := { s.tbl tb with heldLow := none }
  let k := x.index.toNat
  if x.readActive || x.pending || x.held || decide (tb.words ≤ k) then (s.setTbl tb x).ctlAccess tb.page
  else
    let b := !x.active
    s.setTbl tb ({ x with index := x.index + 1 }.setBank b (SMap.set (tblCold tb) (x.bank b) k (w (x.wordAt tb b k))))

/-- R781: a write of TBL_DATA. -/
def State.tblWrite (s : State) (tb : TableId) (part : Half) (v : W64) : State :=
  if !s.tblOpen tb then s.ctlAccess tb.page
  else
    match part with
    | .word => s.putWord tb (fun _ => v)
    | .lo => s.setTbl tb { s.tbl tb with heldLow := some (v.setWidth 32) }
    | .hi =>
      let hi : Nat := fld v.toNat 31 0
      match (s.tbl tb).heldLow with
      | some l => s.putWord tb (fun _ => BitVec.ofNat 64 (hi * 2 ^ 32 + l.toNat))
      | none => s.putWord tb (fun w => BitVec.ofNat 64 (hi * 2 ^ 32 + fld w.toNat 31 0))

/-- TBL_DATA_WRITE. -/
def execTblDataWrite (tb : TableId) (part : Half) (v : W64) (s : State) : Out := s.live (s.tblWrite tb part v)

/-- The word that TBL_DATA reads: of the bank that READ_ACTIVE names, its reserved bits 0 (R9); beyond the last word no rule gives a
value: it is free. -/
def State.tblAt (s : State) (tb : TableId) : W64 × State :=
  let x := s.tbl tb
  if x.index.toNat < tb.words then
    (x.wordAt tb (if x.readActive then x.active else !x.active) x.index.toNat &&& tblMask tb x.index.toNat, s)
  else s.fresh

/-- R781: a read of TBL_DATA, its data zero-extended. -/
def State.tblRead (s : State) (tb : TableId) (part : Half) : W64 × State :=
  let x := s.tbl tb
  let step (s : State) : State := s.setTbl tb { s.tbl tb with index := x.index + 1, latchedHigh := none }
  match part with
  | .word =>
    let (w, s) := s.tblAt tb
    (w, step s)
  | .lo =>
    let (w, s) := s.tblAt tb
    (BitVec.ofNat 64 (fld w.toNat 31 0), s.setTbl tb { s.tbl tb with latchedHigh := some (BitVec.ofNat 32 (fld w.toNat 63 32)) })
  | .hi =>
    match x.latchedHigh with
    | some h => (h.setWidth 64, step s)
    | none =>
      let (w, s) := s.tblAt tb
      (BitVec.ofNat 64 (fld w.toNat 63 32), step s)

/-- The answer of an access that succeeds. -/
def State.answer (s : State) (v : W64) : State := { s with lastResp := ⟨true, v⟩ }

/-- TBL_DATA_READ. -/
def execTblDataRead (tb : TableId) (part : Half) (s : State) : Out :=
  s.live (
    let (v, s) := s.tblRead tb part
    s.answer v)

/-! The other registers of a group (R66). -/

/-- A read of a register of a group other than TBL_DATA, by its offset in the group. -/
def State.groupRead (s : State) (tb : TableId) (o : Nat) : Nat :=
  let x := s.tbl tb
  match o with
  | 0x04 => tb.words * 2 ^ 16 + b2n x.crcFail * 16 + b2n x.late * 8 + b2n x.held * 4 + b2n x.pending * 2 + b2n x.active
  | 0x08 => b2n x.readActive * 2 ^ 31 + x.index.toNat
  | 0x0C => x.crcExp.toNat
  | 0x18 => x.step.toNat
  | _ => 0

/-- A write of a register of a group other than TBL_DATA; mask has the bits written. ABORT acts before ACTIVATE where both are written
(DEDUCED; log entry 41). A half of TBL_DATA that is held or latched stays so (DEDUCED; log entry 48). -/
def State.groupWrite (s : State) (tb : TableId) (o v mask : Nat) : State :=
  if !s.tblOpen tb then s.ctlAccess tb.page
  else
    let x := s.tbl tb
    match o with
    | 0x00 =>
      let s := if v.testBit 1 then s.abortTbl tb else s
      if v.testBit 0 then s.activate tb else s
    | 0x04 => s.setTbl tb { x with crcFail := x.crcFail && !v.testBit 4, late := x.late && !v.testBit 3 }
    | 0x08 => s.setTbl tb { x with readActive := v.testBit 31, index := BitVec.ofNat 16 v }
    | 0x0C => s.setTbl tb { x with crcExp := BitVec.ofNat 32 v }
    | 0x18 => s.setTbl tb { x with step := BitVec.ofNat 64 ((x.step.toNat - (x.step.toNat &&& mask)) + (v &&& mask)) }
    | _ => s

end Sys2Proof.Machine
end

