-- ==== Sys2Proof/Machine/Power.lean ====
section
/-! DEFINITION. Rails, operating points, the power cap, temperatures and clocks (R710 to R730). -/

namespace Sys2Proof.Machine

/-- The power loop changes. -/
def State.modPwr (s : State) (f : PwrSt → PwrSt) : State := { s with pwr := f s.pwr }

/-! Rails (R711 to R715). -/

/-- R714, R715: every rail is removed. Nothing of the module stays but the fuses, what the board does, and the commands that wait. -/
def State.removeRails (s : State) : State :=
  { State.reset with
    pending := s.pending, freeCtr := s.freeCtr, pwr := { PwrSt.init with on := false, en := s.pwr.en },
    start := { StartSt.init with fused := s.start.fused } }

/-- POWER_OFF (R715): pwr_en falls. -/
def execPowerOff (s : State) : Out := .next (s.removeRails.modPwr (fun p => { p with en := false }))

/-- INPUT_VOLTAGE_FAULT (R715): the input has stayed at mv millivolts for 50 µs. The damage that R780 says a stress above 63 V may do
is left out (log entry 38). -/
def execInputVoltageFault (mv : Nat) (s : State) : Out :=
  s.liveAll (
    if mv < 46000 ∨ 60500 < mv then s.removeRails
    else if mv < 48000 then s.err .pwr E.PWR_UNDERVOLT
    else if 59500 < mv then s.err .pwr E.PWR_OVERVOLT
    else s)

/-- RAIL_FAULT (R714): an excursion of 20 µs or more, or a ramp that takes too long, removes every rail; a shorter one sets RAIL_FAULT. -/
def execRailFault (long : Bool) (s : State) : Out := s.liveAll (if long then s.removeRails else s.err .pwr E.PWR_RAIL_FAULT)

/-! Operating points and DUTY (R716 to R724). -/

/-- The operating point of a tile. -/
def State.point (s : State) (t : Nat) : Nat := s.rf .pwr R.PWR_TILE_POINT (4 * t + 2) (4 * t)

/-- A tile moves to an operating point. -/
def State.setPoint (s : State) (t v : Nat) : State := s.wf .pwr R.PWR_TILE_POINT (4 * t + 2) (4 * t) v

/-- The module DUTY. -/
def State.duty (s : State) : Nat := s.rf .pwr R.PWR_PWR_STATUS 4 0

/-- R723: the DUTY in force for a tile. -/
def State.tileDuty (s : State) (t : Nat) : Nat := if s.pwr.held.contains t then min s.duty 4 else s.duty

/-- TILE_DUTY shows the DUTY in force for each tile. -/
def State.showDuty (s : State) : State :=
  s.wr .pwr R.PWR_TILE_DUTY ((List.range 8).foldl (fun v t => v + s.tileDuty t * 2 ^ (5 * t)) 0)

/-- The module DUTY takes a value. -/
def State.setDuty (s : State) (v : Nat) : State := (s.wf .pwr R.PWR_PWR_STATUS 4 0 v).showDuty

/-- PCAP_W as it takes effect (R754). -/
def State.pcap (s : State) : Nat := min (max (s.rf .pwr R.PWR_PWR_CFG 27 16) 1800) 2800
/-- DUTY_MIN as it takes effect. -/
def State.dutyMin (s : State) : Nat := max (s.rf .pwr R.PWR_PWR_CFG 11 8) 1
/-- TOP_POINT as it takes effect. -/
def State.topPoint (s : State) : Nat := min (s.rf .pwr R.PWR_PWR_CFG 2 0) 4

/-- R719: the points of the power-cap curve. -/
def State.pccPoints (s : State) : Nat :=
  (curvePoints (fun w => sgn 8 (fld w 15 8)) ((List.range 16).map (fun k => s.tblWord .pcc k))).length

/-- R719, R481: the point in force at a temperature, from the point in force before. -/
def State.pccPoint (s : State) (old : Nat) (t : Int) : Nat :=
  curvePoint s.pccPoints (fun k => sgn 8 (fld (s.tblWord .pcc k) 15 8)) old t

/-- R718: the cap in force. -/
def State.cap (s : State) : Nat := min s.pcap (fld (s.tblWord .pcc (s.rf .pwr R.PWR_PWR_STATUS 19 16)) 27 16)

/-- Every tile moves one point slower. -/
def State.slower (s : State) : State :=
  ((List.range 8).foldl (fun s t => s.setPoint t (min (s.point t + 1) 4)) s).modPwr (fun p => { p with moving := true })

/-- Every tile that is not held moves one point faster, none beyond TOP_POINT. -/
def State.faster (s : State) : State :=
  let ts := (List.range 8).filter (fun t => !s.pwr.held.contains t && decide (s.topPoint < s.point t))
  if ts.isEmpty then s else (ts.foldl (fun s t => s.setPoint t (s.point t - 1)) s).modPwr (fun p => { p with moving := true })

/-- CAP_WINDOW (R721, R724): a control window ends with a mean input power. While an operating point changes there is no window. -/
def execCapWindow (mean : Nat) (s : State) : Out :=
  s.liveAll (
    if s.pwr.moving then s
    else if s.cap < mean then
      let slow := (List.range 8).all (fun t => s.point t == 4)
      let s := s.modPwr (fun p => { p with below := 0 })
      if !slow then ((s.modPwr (fun p => { p with above := 0 })).slower).count .pwr R.PWR_POINT_DOWNS 1
      else if s.dutyMin < s.duty then
        ((s.modPwr (fun p => { p with above := 0 })).setDuty (s.duty - 1)).count .pwr R.PWR_POINT_DOWNS 1
      else if s.pwr.above + 1 = 10 then (s.modPwr (fun p => { p with above := 0 })).err .pwr E.PWR_CAP_MISS
      else s.modPwr (fun p => { p with above := p.above + 1 })
    else
      let s := s.modPwr (fun p => { p with above := 0 })
      if s.cap * 97 ≤ mean * 100 then s.modPwr (fun p => { p with below := 0 })
      else if s.pwr.below + 1 < 10 then s.modPwr (fun p => { p with below := p.below + 1 })
      else
        let s := s.modPwr (fun p => { p with below := 0 })
        if s.duty < 16 then s.setDuty (s.duty + 1) else s.faster)

/-- POINT_CHANGE_DONE (R717, R721). -/
def execPointChangeDone (s : State) : Out := s.liveAll (s.modPwr (fun p => { p with moving := false }))

/-! Temperature (R725, R726). -/

/-- R725: the reading of a die from its n sensors: the highest; a failed sensor reads 105. -/
def dieTemp (n : Nat) (l : List (Option Byte)) : Int :=
  (List.range n).foldl (fun m k => max m (match nth none l k with | some b => sgn 8 b.toNat | none => 105)) (-128)

/-- R726: a compute die's temperature holds its tile at point 4 with thermal DUTY 4, or lets it go. -/
def State.holdTile (s : State) (t : Nat) (c : Int) : State :=
  if s.pwr.held.contains t then (if c < 102 then s.modPwr (fun p => { p with held := p.held.erase t }) else s)
  else if 105 ≤ c then
    (((s.modPwr (fun p => { p with held := NSet.add p.held t })).setPoint t 4).count .pwr R.PWR_POINT_DOWNS 1).err .pwr E.PWR_THERM_LIMIT
  else s

/-- R726: the same for an Idryn die, whose own power management takes its lowest clocks. -/
def State.holdDie (s : State) (d : Nat) (c : Int) : State :=
  if s.pwr.idryn.contains d then (if c < 102 then s.modPwr (fun p => { p with idryn := p.idryn.erase d }) else s)
  else if 105 ≤ c then (s.modPwr (fun p => { p with idryn := NSet.add p.idryn d })).err .pwr E.PWR_THERM_LIMIT
  else s

/-- R754: the input energy of the 10 µs between two measurements of R718. -/
def State.addEnergy (s : State) (watts : Nat) : State :=
  let e := s.pwr.micro + 10 * watts
  (s.count .pwr R.PWR_ENERGY_MJ (e / 1000)).modPwr (fun p => { p with micro := e % 1000 })

/-- SENSOR_READ (R718, R725, R726): the sensors of the eight compute dies and of the two Idryn dies, the input power and voltage. A sensor
that gives no reading has failed. -/
def execSensorRead (temps : List (List (Option Byte))) (w mv : BitVec 16) (s : State) : Out :=
  s.liveAll (
    let die (k : Nat) : List (Option Byte) := nth [] temps k
    let n (k : Nat) : Nat := if k < 8 then 4 else 2
    let failed := (List.range 10).any (fun k => (List.range (n k)).any (fun i => (nth none (die k) i).isNone))
    let c (k : Nat) : Int := dieTemp (n k) (die k)
    let hot := (List.range 10).foldl (fun m k => max m (c k)) (-128)
    if 118 ≤ hot then s.removeRails
    else
      let s := s.addEnergy w.toNat
      let s := if failed then s.err .pwr E.PWR_SENSOR_FAIL else s
      let s := s.wr .pwr R.PWR_DIE_TEMP_T ((List.range 8).foldl (fun v k => v + wrap 8 (c k) * 2 ^ (8 * k)) 0)
      let s := s.wr .pwr R.PWR_DIE_TEMP_D (wrap 8 (c 8) + wrap 8 (c 9) * 256)
      let s := ((s.wf .pwr R.PWR_PWR_STATUS 63 48 w.toNat).wf .pwr R.PWR_PWR_STATUS 47 32 mv.toNat).wf .pwr R.PWR_PWR_STATUS 15 8 (wrap 8 hot)
      let s := s.wf .pwr R.PWR_PWR_STATUS 19 16 (s.pccPoint (s.rf .pwr R.PWR_PWR_STATUS 19 16) hot)
      let s := s.wf .pwr R.PWR_PWR_STATUS 31 20 s.cap
      let s := (List.range 8).foldl (fun s k => s.holdTile k (c k)) s
      (((s.holdDie 0 (c 8)).holdDie 1 (c 9)).showDuty).showAlert hot)

/-- THERM_TRIP (R726): a die has stayed at 110 °C or above for 100 µs. -/
def execThermTrip (s : State) : Out := s.liveAll (s.err .pwr E.PWR_THERM_TRIP)

/-! Clocks (R18, R727 to R730). -/

/-- REF_LOST (R729). -/
def execRefLost (s : State) : Out := s.liveAll (s.err .clk E.CLK_REF_LOST)

/-- The bit of PLL_LOCK of an island (R756). The PLL of a SerDes or of a PCIe PHY has none. -/
def Island.bit : Island → Option Nat
  | .mesh => some 0
  | .selaz => some 1
  | .idryn d => some (2 + d.val)
  | .flt => some 4
  | .tile t => some (16 + t.val)
  | .base st => some (32 + st.val)
  | .serdes _ => none
  | .pcie _ => none

/-- PLL_UNLOCK (R15, R18, R705, R729): the PLL of an island or physical layer loses lock. -/
def execPllUnlock (x : Island) (s : State) : Out :=
  s.liveAll (
    let s := match Island.bit x with
      | some b => s.wb .clk R.CLK_PLL_LOCK b false
      | none => s
    let s := (s.count .clk R.CLK_PLL_UNLOCKS 1).err .clk E.CLK_PLL_UNLOCK
    let s := s.modPwr (fun p => { p with lost := if p.lost.contains x then p.lost else p.lost ++ [x] })
    match x with
    | .flt => s.strokeLow 2
    | _ => s)

/-- REF_DRIFT (R730): refclk measured against the locked fabric time, in 0.01 ppm. -/
def execRefDrift (off : BitVec 16) (s : State) : Out :=
  s.liveAll (
    if !s.rb .router R.ROUTER_TSYNC_STATUS 0 then s
    else
      let s := s.wr .clk R.CLK_REF_MON off.toNat
      if 10000 < (sgn 16 off.toNat).natAbs then s.err .clk E.CLK_REF_DRIFT else s)

end Sys2Proof.Machine
end

