-- ==== Sys2Proof/Machine/Start.lean ====
section
/-! DEFINITION. Resets, starts, secure boot, security versions and attestation (R732 to R752), and the warm reset of R50 and R735. -/

namespace Sys2Proof.Machine

/-- The start sequencer changes. -/
def State.modStart (s : State) (f : StartSt → StartSt) : State := { s with start := f s.start }

/-- A field of START_STATUS. -/
def State.startFld (s : State) (hi lo : Nat) : Nat := s.rf .mod R.MOD_START_STATUS hi lo
/-- A field of START_STATUS takes a value. -/
def State.setStartFld (s : State) (hi lo v : Nat) : State := s.wf .mod R.MOD_START_STATUS hi lo v

/-- R737: a start is complete. -/
def State.startDone (s : State) : Bool := s.startFld 27 24 == 8

/-- The fused SVNs (R746, R749). -/
def State.svnFuse (s : State) : BitVec 40 := s.start.fused.getD Config.fusedSvn

/-! Secure boot (R742 to R748). -/

/-- Bytes of the boot flash. -/
def State.flashRead (s : State) (a n : Nat) : List Byte := Mem.read s.start.flash a n

/-- A directory entry of an image set: offset and length (R742). Its type is that of its place. -/
structure ImgDir where
  off : Nat
  len : Nat
deriving DecidableEq, Repr

/-- The base and the end of an image set (R742, R743). -/
def setBase (b : Bool) : Nat := if b then 0x02000000 else 0
/-- The first byte after a set. -/
def setEnd (b : Bool) : Nat := if b then 0x03F00000 else 0x02000000

/-- The directory of a set. -/
def State.imgDir (s : State) (b : Bool) : List ImgDir :=
  (List.range 5).map (fun k =>
    let e := s.flashRead (setBase b + 16 * k) 16
    { off := recFld e 4 4 31 0, len := recFld e 8 4 31 0 })

/-- R743: do the images of a set lie as its directory must have them? -/
def State.dirOk (s : State) (b : Bool) : Bool :=
  let d := s.imgDir b
  let paylen (e : ImgDir) : Nat := ofLe (s.flashRead (setBase b + e.off + 0x0C) 4)
  d.all (fun (e : ImgDir) => decide (80 ≤ e.off) && decide (setBase b + e.off + e.len ≤ setEnd b) && e.len == 512 + paylen e) &&
    (List.range 5).all (fun i => (List.range 5).all (fun j => i == j ||
      !overlaps (nth ⟨0, 0⟩ d i).off (nth ⟨0, 0⟩ d i).len (nth ⟨0, 0⟩ d j).off (nth ⟨0, 0⟩ d j).len))

/-- R746: the check of one image, its fields in the ranges of R745 (DEDUCED; log entry 98): none where it passes, else the CODE of START_STATUS; for a revoked key no rule names the CODE: signature or
header by the free value v. -/
def State.imgFault (s : State) (want : Nat) (h payload : List Byte) (v : W64) : Option Nat :=
  let rootPub := (h.drop 0x050).take 96
  let signPub := (h.drop 0x0B0).take 96
  let key := recFld h 7 1 7 0
  let len := recFld h 0x0C 4 31 0
  if recFld h 0 4 31 0 ≠ 0x57465A54 ∨ recFld h 4 2 15 0 ≠ 1 ∨ recFld h 6 1 7 0 ≠ want ∨ 3 < key ∨ len = 0 ∨ 0x1000000 < len ∨
      64 < recFld h 8 4 31 0 then some 4
  else if Config.revoked.getLsbD key then some (if v.getLsbD 0 then 2 else 4)
  else if beNat (sha384 rootPub) ≠ (Config.rootHash key).toNat then some 4
  else if !P384.verify rootPub (sha384 signPub) ((h.drop 0x110).take 96) then some 2
  else if !P384.verify signPub (sha384 (h.take 0x170)) ((h.drop 0x170).take 96) then some 2
  else if sha384 payload ≠ (h.drop 0x020).take 48 then some 4
  else if recFld h 8 4 31 0 < fld s.svnFuse.toNat (8 * want - 1) (8 * want - 8) then some 3
  else none

/-- The images of a set: SVN and measurement of each (R748), or the CODE of the first check that fails. -/
def State.bootSet (s : State) (b : Bool) (v : W64) : Except Nat (List (Nat × List Byte)) :=
  if !s.dirOk b then .error 4
  else
    (s.imgDir b).zip [1, 2, 3, 4, 5] |>.foldlM (fun (acc : List (Nat × List Byte)) (e : ImgDir × Nat) =>
      let a := setBase b + e.1.off
      let h := s.flashRead a 512
      let payload := s.flashRead (a + 512) (e.1.len - 512)
      match s.imgFault e.2 h payload v with
      | some c => .error c
      | none => .ok (acc ++ [(recFld h 8 4 31 0, sha384 (h ++ payload))])) []

/-! Failed starts (R740). -/

/-- R740: the start ends: the step, its cause, the unit. -/
def State.failStart (s : State) (step code unit : Nat) : State :=
  let s := ((s.setStartFld 27 24 step).setStartFld 23 16 code).setStartFld 15 8 unit
  (s.modStart (fun x => { x with active := false, images := if step ≤ 3 then [] else x.images })).err .mod E.MOD_START_FAIL

/-- R736, R747: steps 1 to 3 of a start, kind 1 cold, 2 warm or 3 cold under R741; whether they succeed. -/
def State.bootSteps (s : State) (kind : Nat) : State × Bool :=
  let s := (s.modStart (fun x => { x with active := true, images := [] })).setStartFld 31 28 kind
  let (v, s) := s.fresh
  match s.bootSet false v with
  | .ok l => (((s.modStart (fun x => { x with images := l })).setStartFld 27 24 4).setStartFld 3 3 0, true)
  | .error _ =>
    match s.bootSet true v with
    | .ok l => (((s.modStart (fun x => { x with images := l })).setStartFld 27 24 4).setStartFld 3 3 1, true)
    | .error c => ((s.setStartFld 3 3 1).failStart 3 c 0, false)

/-! Cold starts (R732 to R741). -/

/-- R728: every PLL locks once its rail is up. -/
def State.lockPlls (s : State) : State := (s.wr .clk R.CLK_PLL_LOCK 0xFFFFFFFF00FF001F).modPwr (fun p => { p with lost := [] })

/-- R736, R739: what a cold start leaves in the retained registers: the results of the SRAM repair and the coefficients of every PHY and SerDes,
all of them free values. The table has no command for their steps: they are formed as the start begins (DESIGN CHOICE; log entry 222). -/
def State.trainCold (s : State) : State :=
  let n := s.freeCtr
  { s with freeCtr := n + 39 }.modStart (fun x => { x with
    repair := some (Config.free n), phy := (List.range 32).map (fun k => Config.free (n + 1 + k)),
    serdes := (List.range 6).map (fun k => Config.free (n + 33 + k)) })

/-- R617: PCIE_CFG as it reads. -/
def pcieView (v : Nat) : Nat := viewField 1 0 (fun b => if b = 3 then 0 else b) v

/-- A cold start: every field at its Reset column (R50), tables at their cold contents (R74), memory tested and 0 (R738), then steps 1 to 3.
The fuses, the board's flash, the TAP and the management target stay; the training coefficients and the repair results are new (R739); the root ports
sample PCIE_CFG as it was written (R617; DEDUCED; log entry 232). -/
def State.coldStart (s : State) (kind : Nat) : State :=
  let s : State := { State.reset with
    pending := s.pending, freeCtr := s.freeCtr, pwr := { PwrSt.init with on := true, en := s.pwr.en },
    start := { StartSt.init with
      fused := s.start.fused, flash := s.start.flash, pcie := (List.range 4).map (fun p => pcieView (s.rd .hostif (R.HOSTIF_PCIE_CFG + 8 * p))) },
    tap := s.tap, mgmt := s.mgmt }
  (s.lockPlls.trainCold.bootSteps kind).1

/-- POWER_ON (R713, R732): pwr_en rises with the input in range and this flash on the board. -/
def execPowerOn (flash : List (Nat × Byte)) (s : State) : Out :=
  .next (
    if s.pwr.en then s
    else
      let s := (s.modStart (fun x => { x with flash := flash })).modPwr (fun p => { p with en := true })
      { s with tap := TapSt.init, mgmt := MgmtSt.init }.coldStart 1)

/-- MOD_RESET (R732, R767): the board may have written the flash while mod_reset_n was low. -/
def execModReset (flash : Option (List (Nat × Byte))) (s : State) : Out :=
  s.liveAll ((s.modStart (fun x => { x with flash := flash.getD x.flash })).coldStart 1)

/-- COLD (R732). -/
def execColdRequest (s : State) : Out := s.liveAll (s.coldStart 1)

/-! Warm reset (R50, R65, R735). -/

/-- R50: the register file after a warm reset. -/
def warmRegs (rs : List (Nat × W64)) : List (Nat × W64) :=
  rs.foldl (fun acc e =>
    let keep := match Page.ofNumber (e.1 / 0x10000) with
      | some p => (match p.rowOf (e.1 % 0x10000) with | some r => r.keep | none => 0)
      | none => 0
    let r := (regDefault e.1).toNat
    SMap.set regDefault acc e.1 (BitVec.ofNat 64 ((r - (r &&& keep)) + (e.2.toNat &&& keep)))) []

/-- R50: a table group after a warm reset. -/
def TableSt.warm (x : TableSt) : TableSt := { x with index := 0, readActive := false, heldLow := none, latchedHigh := none }

/-- R735: work is abandoned, Catch and Finish writes stop at a prefix, the tile caches are written back, the host complex is reset. -/
def State.quiesce (s : State) : State :=
  let s := s.strokeLow 0
  let ps : List Page := (List.finRange 8).map .cox ++ (List.finRange 128).map .core ++ (List.finRange 8).map .fin ++
    (List.finRange 16).map .copy ++ (List.finRange 6).map .port
  let s := ps.foldl State.abandonWork s
  let s := (List.finRange 32).foldl State.cutCatch s
  let s := (List.finRange 8).foldl (fun s t => s.invalCache t) s
  s.hostReset

/-- R50, R473, R559: every field of the module after the warm reset. Memory, tile SRAM, scratch, journals, RD and
DF stay; the sizes of the fabric hold until a cold start (R19). -/
def State.warmFields (s : State) : State :=
  let geo := s.geoLocked
  let top := s.hbmTop
  let fab := s.fabLocked
  let c := s.committedStep
  let w : State := { State.reset with
    pending := s.pending, freeCtr := s.freeCtr, regs := warmRegs s.regs, tables := s.tables.map (fun x => (x.1, x.2.warm)),
    mem := s.mem, memErr := s.memErr, fabSize := s.fabSize, tsram := s.tsram, tsramUe := s.tsramUe,
    cores := s.cores.filterMap (fun x =>
      let y := { Core.init with scratch := x.2.scratch, scratchUe := x.2.scratchUe }
      if y = Core.init then none else some (x.1, y)),
    ump := { UmpSt.init with snaps := s.ump.snaps.filter (fun e => e.1 == c), sd := s.ump.sd }, nextTag := s.nextTag,
    catches := s.catches.filterMap (fun x =>
      let y := { CatchSt.init with nextTxn := x.2.nextTxn, journal := x.2.journal, jpos := x.2.jpos, ring := x.2.ring, rd := x.2.rd, reserveUe := x.2.reserveUe }
      if y = CatchSt.init then none else some (x.1, y)),
    fins := s.fins.filterMap (fun x =>
      let y := { FinSt.init with journal := x.2.journal, base := x.2.base, size := x.2.size, pos := x.2.pos, df := x.2.df, temp := x.2.temp }
      if y = FinSt.init then none else some (x.1, y)),
    hrd := { HrdSt.init with flips := s.hrd.flips }, pwr := s.pwr, start := { s.start with active := false, att := none }, tap := s.tap, mgmt := s.mgmt }
  let w := (List.range 64).foldl (fun (w : State) k => w.wr .hrd (R.HRD_IMG_SEL + 8 * k) (s.rd .hrd (R.HRD_IMG_SEL + 8 * k))) w
  let w := if geo then (w.takeMib.wr .mod R.MOD_HBM_TOP top).wb .mod R.MOD_MEM_LOCK 1 true else w
  let w := if fab then w.wb .router R.ROUTER_FAB_LOCK 1 true else w
  let w := w.lockPlls
  let w := w.pwr.held.foldl (fun w t => w.setPoint t 4) w
  w.showDuty

/-- R259, R303, R311, R359, R406, R643, R782: what the blocks do before they are enabled: steps later than COMMITTED_STEP roll back. -/
def State.warmRollback (s : State) : State :=
  let c := s.committedStep
  let s := ((List.finRange 32).foldl (fun s st => s.rollbackCatch st (c + 1)) s)
  let s := (List.finRange 8).foldl (fun s t => s.rollbackFin t (c + 1)) s
  let s := match s.snap c with | some v => s.setSums v | none => s
  ((((s.rollbackDir.dropPriv (c + 1)).returnTables (c + 1)).untakeFlips (c + 1)).commitTables c).commitFlips c

/-- R478: the key changes; every address keeps its contents. -/
def State.rekey (s : State) : State :=
  if s.rb .mod R.MOD_REKEY 0 then
    let n := s.rd .mod R.MOD_HASH_KEY_NEXT
    let s := s.wr .mod R.MOD_HASH_KEY (if n = 0 then mixN (s.rd .mod R.MOD_HASH_KEY) else n)
    ((s.wb .mod R.MOD_REKEY 0 false).wr .mod R.MOD_HASH_KEY_NEXT 0).wb .mod R.MOD_REKEY 2 true
  else s

/-- R741: one more failed warm start; the second begins a cold start. -/
def State.warmFailed (s : State) : State :=
  let n := min (s.startFld 1 0 + 1) 3
  let s := s.setStartFld 1 0 n
  if 2 ≤ n then s.coldStart 3 else s

/-- R735, R736: a warm start. A set that fails the check fails it. -/
def State.warmStart (s : State) : State :=
  let s := (s.kept s.quiesce).warmFields
  let (s, ok) := s.bootSteps 2
  if ok then (s.kept s.warmRollback).rekey else s.warmFailed

/-- R732, R733, R741: a warm request. During a warm start it first counts that one as failed. -/
def State.warmRequest (s : State) : State :=
  if s.start.active && s.startFld 31 28 == 2 && decide (1 ≤ s.startFld 1 0) then s.warmFailed
  else
    let s := if s.start.active && s.startFld 31 28 == 2 then s.setStartFld 1 0 1 else s
    if s.startFld 2 2 = 1 ∧ s.startFld 1 0 < 2 then s.warmStart else s.coldStart 1

/-- WARM_RESET (R732, R735). -/
def execWarmReset (s : State) : Out := s.liveAll s.warmRequest

/-- WARM (R732). -/
def execWarmRequest (s : State) : Out := s.liveAll s.warmRequest

/-- START_STEP_TIMEOUT (R740, R741): a step of the start in progress fails, or passes its bound. -/
def execStartStepTimeout (step : Fin 8) (code unit : Byte) (s : State) : Out :=
  s.liveAll (
    if !s.start.active || step.val == 0 || code == 0#8 || decide (8 < code.toNat) then s
    else
      let warm := s.startFld 31 28 == 2
      let s := s.failStart step.val code.toNat unit.toNat
      if warm then s.warmFailed else s)

/-- START_COMPLETE (R734, R737, R741): the boot loader begins. How long the start took is a free value. -/
def execStartComplete (s : State) : Out :=
  s.liveAll (
    if !s.start.active then s
    else
      let (v, s) := s.fresh
      let s := (((s.setStartFld 27 24 8).setStartFld 23 16 0).setStartFld 2 2 1).setStartFld 1 0 0
      (s.wr .mod R.MOD_START_NS v.toNat).modStart (fun x => { x with active := false }))

/-! Security versions (R749). -/

/-- SVN_CTL.COMMIT written; a fused SVN has eight bits. -/
def State.svnCommit (s : State) : State :=
  if !s.startDone then s.err .mod E.MOD_SVN_BAD
  else
    let new := (List.range 5).foldl (fun (v : Nat) k =>
      setFld v (8 * k + 7) (8 * k) (max (fld s.svnFuse.toNat (8 * k + 7) (8 * k)) (min (nth (0, []) s.start.images k).1 255))) 0
    s.modStart (fun x => { x with fused := some (BitVec.ofNat 40 new) })

/-- COMMIT. -/
def execSvnCommit (s : State) : Out := s.liveAll s.svnCommit

/-! Attestation (R751, R752). -/

/-- R752: the configuration that CFG_HASH covers. -/
def State.cfgBytes (s : State) : List Byte :=
  ([s.rd .mod R.MOD_HOST_CFG, s.rd .mod R.MOD_MEM_LAYOUT] ++ (List.range 16).map (fun k => s.rd .mod (R.MOD_REGION + 8 * k)) ++
    [s.rd .router R.ROUTER_FAB_SIZE, s.rd .router R.ROUTER_ROOT_CFG, s.rd .mod R.MOD_RNG_CTL]).flatMap (leBytes 8)

/-- R752: the report without its signature. -/
def State.reportBody (s : State) : List Byte :=
  let img (k : Nat) : Nat × List Byte := nth (0, List.replicate 48 0#8) s.start.images k
  leBytes 4 0x52415A54 ++ leBytes 2 1 ++ leBytes 2 608 ++ leBytes 8 Config.deviceNumber.toNat ++ leBytes 4 (s.rd .mod R.SH_BLK_VER) ++
    leBytes 4 (s.rd .mod R.MOD_START_STATUS) ++ leBytes 8 s.fabTime.toNat ++
    (List.range 4).flatMap (fun k => leBytes 8 (s.rd .mod (R.MOD_ATT_NONCE + 8 * k))) ++ leBytes 4 s.modCoord ++
    leBytes 4 (s.rd .router R.ROUTER_FAB_POS) ++ leBytes 8 s.committedStep ++ leBytes 8 s.svnFuse.toNat ++ leBytes 8 0 ++
    (List.range 5).flatMap (fun k => (img k).2) ++ (List.range 5).flatMap (fun k => leBytes 4 (img k).1) ++ List.replicate 12 0#8 ++
    sha384 s.cfgBytes ++ beBytes 96 Config.devPub.toNat

/-- R751: ATT_CTL.REQ written: DONE clears, also where the request is refused. The report says what the module is at the request (DEDUCED; log entry 42). -/
def State.attRequest (s : State) : State :=
  let a := s.rd .mod R.MOD_ATT_ADDR
  if s.start.att.isSome || !s.inHost a 608 then (s.wb .mod R.MOD_ATT_CTL 1 false).err .mod E.MOD_ATT_BAD
  else
    let b := s.reportBody
    let sig := Config.devSign s.freeCtr (BitVec.ofNat 384 (beNat (sha384 b)))
    let s := { s.wb .mod R.MOD_ATT_CTL 1 false with freeCtr := s.freeCtr + 1 }
    s.modStart (fun x => { x with att := some (a, b ++ beBytes 96 sig.toNat) })

/-- REQ. -/
def execAttReq (s : State) : Out := s.liveAll s.attRequest

/-- ATTESTATION_DONE (R751): every byte of the report is visible. -/
def execAttestationDone (s : State) : Out :=
  s.liveAll (
    match s.start.att with
    | some (a, b) => ((s.selfWrite a b).wb .mod R.MOD_ATT_CTL 1 true).modStart (fun x => { x with att := none })
    | none => s)

end Sys2Proof.Machine
end

