-- ==== Sys2Proof/Machine/RegAccess.lean ====
section
/-! DEFINITION. Register space (R38 to R40, R46 to R56), its remote windows and apertures (R41 to R45), and the uncached accesses of Idryn
cores (R568 to R572). -/

namespace Sys2Proof.Machine

/-! What registers read as. -/

/-- R678: the slots with an ERR_STICKY bit that ERR_MASK does not mask. -/
def State.srcPending (s : State) : Nat :=
  let ps : List Page := [.mod, .pwr, .clk, .flt, .rel, .hrd] ++ (List.finRange 8).map .cox ++ (List.finRange 128).map .core ++
    (List.finRange 32).map .base ++ (List.finRange 6).map .port ++ [.router] ++ (List.finRange 16).map .copy ++
    (List.finRange 32).map .gather ++ (List.finRange 8).map .fin ++ [.hostif]
  ps.foldl (fun m p =>
    let e := s.rd p R.SH_ERR_STICKY
    if e &&& s.rd p R.SH_ERR_MASK = e then m else m ||| 2 ^ slotOf p) 0

/-- R125: CORE_AVAIL. -/
def State.coresAvail (s : State) (t : TileId) : Nat :=
  (List.range 16).foldl (fun m c =>
    if s.rb (.core (coreOf t c)) R.SH_STATUS 4 || s.underTest (coreOf t c) then m else m + 2 ^ c) 0

/-- A field that reads as its nearest allowed value. -/
def State.clampView (s : State) (p : Page) (o hi lo least most : Nat) : Option Nat := some (viewField hi lo (clampTo least most) (s.rd p o))

/-- R613: TORN_CFG as it reads. -/
def tornView (v : Nat) : Nat := viewField 19 16 (clampTo 1 15) (viewField 15 0 (clampTo 16 8192) v)

/-- What a page's own register reads as where the stored word does not say it. -/
def State.ownView (s : State) (p : Page) (o : Nat) : Option Nat :=
  match p with
  | .mod =>
    if o = R.MOD_MOD_COORD then some s.modCoord
    else if o = R.MOD_DEV_ID then some Config.deviceNumber.toNat
    else if o = R.MOD_SVN_FUSE then some s.svnFuse.toNat
    else if R.MOD_DEV_PUB ≤ o ∧ o < R.MOD_DEV_PUB + 96 then
      some (ofLe (((beBytes 96 Config.devPub.toNat).drop (o - R.MOD_DEV_PUB)).take 8))
    else if o = R.MOD_NBR_TIMEOUT then s.clampView p o 15 0 1 0xFFFF
    else none
  | .pwr =>
    if o = R.PWR_PWR_STATUS then some (setFld (s.rd p o) 31 20 s.cap)
    else if o = R.PWR_PWR_CFG then
      some (viewField 27 16 (clampTo 1800 2800) (viewField 11 8 (clampTo 1 15) (viewField 2 0 (clampTo 0 4) (s.rd p o))))
    else none
  | .rel => if o = R.REL_COMMIT_CFG then s.clampView p o 23 20 1 15 else none
  | .gather _ => if o = R.GATHER_GATHER_CFG then s.clampView p o 23 16 1 255 else none
  | .base _ =>
    if o = R.BASE_CATCH_CFG then s.clampView p o 15 8 1 64
    else if o = R.BASE_SKEW_CFG then some (viewField 15 8 (fun v => if v = 0 then 2 else v) (viewField 7 0 (clampTo 1 255) (s.rd p o)))
    else none
  | .copy _ => if o = R.COPY_TORN_CFG then some (tornView (s.rd p o)) else none
  | .hostif =>
    if R.HOSTIF_PCIE_CFG ≤ o ∧ o < R.HOSTIF_PCIE_CFG + 32 then some (pcieView (s.rd p o)) else none
  | .flt => if o = R.FLT_SRC_PENDING then some s.srcPending else none
  | .cox t =>
    if o = R.COX_CORE_AVAIL then some (s.coresAvail t)
    else if o = R.COX_TSRAM_CFG then s.clampView p o 4 0 0 24
    else if o = R.COX_TORN_CFG then some (tornView (s.rd p o))
    else none
  | .fin _ => if o = R.FIN_DJ_CFG then s.clampView p o 15 0 1 0xFFFF else none
  | .router =>
    if o = R.ROUTER_FAB_TIME then some s.fabTime.toNat
    else if o = R.ROUTER_TSYNC_STATUS then some (setFld (s.rd p o) 1 1 (b2n (s.fabLocked && s.isRoot)))
    else if o = R.ROUTER_ARB_CFG then
      some (viewField 23 16 (clampTo 1 255) (viewField 15 8 (clampTo 1 255) (viewField 7 0 (clampTo 1 255) (s.rd p o))))
    else none
  | _ => none

/-- R49, R51, R57: what the register at start of page p reads as. -/
def State.view (s : State) (p : Page) (start : Nat) : Nat :=
  if start = R.SH_CTRL then (if p.always then s.rd p start ||| 1 else s.rd p start)
  else if start = R.SH_STATUS then setFld (setFld (s.rd p start) 0 0 (b2n (s.accepted p))) 3 3 (b2n (s.enabled p))
  else (s.ownView p start).getD (s.rd p start)

/-! Reads and writes of registers. -/

/-- The bits of a 64-bit register that an access names. -/
def halfMask : Half → Nat
  | .word => 0xFFFFFFFFFFFFFFFF
  | .lo => 0xFFFFFFFF
  | .hi => 0xFFFFFFFF00000000

/-- The data of a write in its place in the register. -/
def halfPut (h : Half) (v : Nat) : Nat :=
  match h with
  | .word => v
  | .lo => v % 2 ^ 32
  | .hi => v % 2 ^ 32 * 2 ^ 32

/-- The part of a register that a read returns. -/
def halfGet (h : Half) (v : Nat) : Nat :=
  match h with
  | .word => v
  | .lo => v % 2 ^ 32
  | .hi => v / 2 ^ 32

/-- R39: the part of a register of some bytes that an access at off names; none for a width it does not take. -/
def partOf (start bytes off : Nat) (wide : Bool) : Option Half :=
  if wide then (if bytes = 8 ∧ off = start then some .word else none)
  else if off = start then some .lo
  else if bytes = 8 ∧ off = start + 4 then some .hi
  else none

/-- R56: a read of a register of 0x0100 to 0x0FFF; the low half latches the high half. -/
def State.counterRead (s : State) (p : Page) (start : Nat) (h : Half) : State × W64 :=
  let v := s.view p start
  let k := p.addr + start
  match h with
  | .word => (s, BitVec.ofNat 64 v)
  | .lo => ({ s with latches := SMap.put (SMap.erase s.latches k) k (BitVec.ofNat 32 (v / 2 ^ 32)) }, BitVec.ofNat 64 (v % 2 ^ 32))
  | .hi =>
    match s.latches.find? (fun (e : Nat × W32) => e.1 == k) with
    | some e => ({ s with latches := SMap.erase s.latches k }, e.2.setWidth 64)
    | none => (s, BitVec.ofNat 64 (v / 2 ^ 32))

/-- A read of a register. -/
def State.readReg (s : State) (p : Page) (start : Nat) (h : Half) : State × W64 :=
  if 0x100 ≤ start ∧ start < 0x1000 then s.counterRead p start h else (s, BitVec.ofNat 64 (halfGet h (s.view p start)))

/-- R49: the RW bits of a register named by a mask take those of x, the W1C bits that x has are cleared. -/
def State.plainWrite (s : State) (p : Page) (start : Nat) (r : RegRow) (mask x : Nat) : State :=
  let old := s.rd p start
  let rw := r.rw &&& mask
  let v := (old - (old &&& rw)) + (x &&& rw)
  s.wr p start (v - (v &&& r.w1c &&& mask &&& x))

/-- A write of a register of a ring group, by its offset in the group (R575, R582, R612). -/
def State.ringWrite (s : State) (g : RingId) (o : Nat) (start : Nat) (r : RegRow) (mask x : Nat) : State :=
  if o = 0x08 then s.ringCfg g x
  else if o = 0x0C then
    let s := if x.testBit 0 then s.ringReset g else s
    if x.testBit 1 then s.ringResume g else s
  else if o = 0x18 then s.doorbell g x
  else s.plainWrite g.page start r mask x

/-- R665: a write of a REL control, some fields of which MODE derives. -/
def State.relWrite (s : State) (start : Nat) (r : RegRow) (mask x : Nat) : State :=
  let mode := s.rf .rel R.REL_GOAL_CFG 31 30
  let plain (keep : Nat) : State := s.plainWrite .rel start r (mask - (mask &&& keep)) x
  if start = R.REL_REL_CMD then
    let s := if x.testBit 2 then s.setStep else s
    let s := if x.testBit 1 then s.rescan else s
    if x.testBit 0 then s.resumeUmpire else s
  else if start = R.REL_AUDIT_CFG ∧ mode % 2 = 1 then s.ctlAccess .rel
  else if start = R.REL_CREW_CFG ∧ 2 ≤ mode then (plain 0x3FF).ctlAccess .rel
  else if start = R.REL_HEAT_CFG ∧ mode % 2 = 1 ∧ mask.testBit 32 then (plain 0xFFFFFFFF00000000).ctlAccess .rel
  else if start = R.REL_GOAL_CFG then
    let s := plain 0
    if 2 ≤ s.rf .rel R.REL_GOAL_CFG 31 30 then s.wf .rel R.REL_CREW_CFG 9 0 (s.rf .rel R.REL_GOAL_CFG 25 16) else s
  else plain 0

/-- A write of a MOD control (R471, R503, R732, R749, R751). -/
def State.modWrite (s : State) (start : Nat) (r : RegRow) (mask x : Nat) : State :=
  let geo := start == R.MOD_HASH_KEY || start == R.MOD_HOST_CFG || start == R.MOD_MEM_LAYOUT ||
    (decide (R.MOD_REGION ≤ start) && decide (start < R.MOD_REGION + 128))
  if geo && s.geoLocked then s.ctlAccess .mod
  else if start = R.MOD_MEM_LOCK then (if x.testBit 0 then s.lockGeometry else s)
  else if R.MOD_LOAN_ADDR ≤ start ∧ start < R.MOD_LOAN_ADDR + 64 ∧ start % 16 = 8 then s.loanCfg ((start - R.MOD_LOAN_CFG) / 16) x
  else if start = R.MOD_START_CTL then (if x.testBit 0 then s.coldStart 1 else if x.testBit 1 then s.warmRequest else s)
  else if start = R.MOD_SVN_CTL then (if x.testBit 0 then s.svnCommit else s)
  else if start = R.MOD_ATT_CTL then (if x.testBit 0 then s.attRequest else s)
  else s.plainWrite .mod start r mask x

/-- A write of an FLT control (R679, R694, R695, R702 to R705). -/
def State.fltWrite (s : State) (start : Nat) (r : RegRow) (mask x : Nat) : State :=
  if start = R.FLT_FLT_CTL then (if x.testBit 0 then s.wb .flt R.FLT_FLT_STATE 0 false else s)
  else if start = R.FLT_STROKE_CTL then
    let s := (s.plainWrite .flt start r (mask - (mask &&& 1)) x).strokeEn (x.testBit 0)
    if x.testBit 1 then s.strokeLow 1 else s
  else if start = R.FLT_FENCE_CLR then s.writeFenceClr x
  else if start = R.FLT_WIRE_INJ then s.writeWireInj (((s.rd .flt start - (s.rd .flt start &&& mask)) + (x &&& mask)) &&& r.rw)
  else if start = R.FLT_FIRST_WAKE + 8 then (if (x &&& mask).testBit 36 then s.clearFirstWake else s)
  else s.plainWrite .flt start r mask x

/-- A write of a router control (R558, R560, R567); a half of TIME_SET leaves the other half of the time as it stands. -/
def State.routerWrite (s : State) (start : Nat) (r : RegRow) (mask x : Nat) : State :=
  if start = R.ROUTER_FAB_LOCK then (if x.testBit 0 then s.lockFabric else s)
  else if start = R.ROUTER_TAKEOVER then
    let s := s.plainWrite .router start r mask x
    if x.testBit 31 then s.takeOver else s
  else if start = R.ROUTER_TIME_SET then s.setTime ((s.fabTime.toNat - (s.fabTime.toNat &&& mask)) + (x &&& mask))
  else s.plainWrite .router start r mask x

/-- A write of a page's own register. -/
def State.ownWrite (s : State) (p : Page) (start : Nat) (r : RegRow) (mask x : Nat) : State :=
  match p with
  | .mod => s.modWrite start r mask x
  | .rel => s.relWrite start r mask x
  | .flt => s.fltWrite start r mask x
  | .router => s.routerWrite start r mask x
  | .hrd =>
    if start = R.HRD_FLIP_CTRL then (if x.testBit 0 then s.armFlip else s)
    else if start = R.HRD_SLIDE_CMD then s.slideCmd x
    else s.plainWrite p start r mask x
  | .cox t =>
    if start = R.COX_TCACHE_CTL then
      if x.testBit 1 then s.tcacheRequest t true else if x.testBit 0 then s.tcacheRequest t false else s
    else if R.RING_BASE ≤ start ∧ start < R.RING_BASE + 128 then
      s.ringWrite (.cox t (Fin.ofNat 4 ((start - R.RING_BASE) / 32))) ((start - R.RING_BASE) % 32) start r mask x
    else s.plainWrite p start r mask x
  | .copy e =>
    if R.RING_BASE ≤ start ∧ start < R.RING_BASE + 32 then s.ringWrite (.copy e) (start - R.RING_BASE) start r mask x
    else s.plainWrite p start r mask x
  | .base _ => if start = R.BASE_JOURNAL_CFG ∧ s.geoLocked then s.ctlAccess p else s.plainWrite p start r mask x
  | .fin t => if start = R.FIN_FIN_CTL then (if x.testBit 0 then s.startCopies t else s) else s.plainWrite p start r mask x
  | .hostif => if start = R.HOSTIF_HOST_CTL then (if x.testBit 0 then s.hostReset else s) else s.plainWrite p start r mask x
  | _ => s.plainWrite p start r mask x

/-- A write of a register (R49, R51, R58): the expert region of a page is open while EXPERT is 1. -/
def State.writeReg (s : State) (p : Page) (start : Nat) (r : RegRow) (h : Half) (v : Nat) : State :=
  let mask := halfMask h
  let x := halfPut h v
  if start = R.SH_CTRL then s.writeCtrl p x
  else if start = R.SH_ERR_INJECT then s.writeInject p x
  else if start = R.SH_FIRST_ERR then (if (x &&& mask).testBit 0 then s.clearFirstErr p else s)
  else if start < 0x1000 then s.plainWrite p start r mask x
  else if 0x8000 ≤ start then (if s.expert p then s.ownWrite p start r mask x else s.ctlAccess p)
  else (s.ownWrite p start r mask x).basicWritten p

/-! Accesses to register space. -/

/-- R631: the physical page that a logical page names. -/
def State.physPage (s : State) (p : Page) : Page :=
  let tile (t : Nat) : Nat := s.physTile t
  match p with
  | .cox t => .cox (tileOf (tile t.val))
  | .core c => .core (coreOf (tileOf (tile (c.val / 16))) (c.val % 16))
  | .gather g => .gather (Fin.ofNat 32 (4 * tile (g.val / 4) + g.val % 4))
  | .fin t => .fin (tileOf (tile t.val))
  | p => p

/-- R39: an access refused for its form. -/
def State.badAccess (s : State) (p : Page) : State × Resp := (s.ctlAccess p, ⟨false, 0⟩)

/-- An access to a table group (R66, R781). -/
def State.groupAccess (s : State) (p : Page) (tb : TableId) (off : Nat) (wr wide : Bool) (v : W64) : State × Resp :=
  let o := off - tb.off
  let reg : Nat × Nat := if 0x10 ≤ o then ((if 0x18 ≤ o then 0x18 else 0x10), 8) else (o / 4 * 4, 4)
  match partOf reg.1 reg.2 o wide with
  | none => s.badAccess p
  | some h =>
    if reg.1 = 0x10 then
      if wr then (s.tblWrite tb h v, ⟨true, 0⟩)
      else
        let (d, s) := s.tblRead tb h
        (s, ⟨true, d⟩)
    else if wr then (s.groupWrite tb reg.1 (halfPut h v.toNat) (halfMask h), ⟨true, 0⟩)
    else (s, ⟨true, BitVec.ofNat 64 (halfGet h (s.groupRead tb reg.1))⟩)

/-- What an access of 4 or 8 bytes at an offset of a page does and answers (R39, R40, R48). -/
def State.pageDo (s : State) (p : Page) (off : Nat) (wr wide : Bool) (v : W64) : State × Resp :=
  if off % (if wide then 8 else 4) ≠ 0 then s.badAccess p
  else
    match TableId.atOff p off with
    | some tb => s.groupAccess p tb off wr wide v
    | none =>
      match p.rowOf off with
      | none => (s, ⟨true, 0⟩)
      | some r =>
        let start := r.start off
        match partOf start r.bytes off wide with
        | none => s.badAccess p
        | some h =>
          if wr then (s.writeReg p start r h v.toNat, ⟨true, 0⟩)
          else
            let (s, d) := s.readReg p start h
            (s, ⟨true, d⟩)

/-- An access of 4 or 8 bytes at an offset of a page. Only START_CTL, SVN_CTL and ATT_CTL of the MOD page reach the start sequencer. -/
def State.pageAccess (s : State) (p : Page) (off : Nat) (wr wide : Bool) (v : W64) : State × Resp :=
  let x := s.pageDo p off wr wide v
  if wr && p == .mod && decide (R.MOD_START_STATUS ≤ off) && decide (off < R.MOD_ATT_NONCE) then x else (s.kept x.1, x.2)

/-- An access at an offset of register space (R38, R46). -/
def State.regAccess (s : State) (off : Nat) (wr wide : Bool) (v : W64) : State × Resp :=
  match Page.ofNumber (off / 0x10000) with
  | none => (s.unmapped, ⟨wr, 0⟩)
  | some p => s.pageAccess (s.physPage p) (off % 0x10000) wr wide v

/-- R39: an access of any width; one of 8 or 16 bits is refused in the page addressed. -/
def State.regAccessW (s : State) (off : Nat) (wr : Bool) (width : Width) (v : W64) : State × Resp :=
  if width.bytes < 4 then
    match Page.ofNumber (off / 0x10000) with
    | some p => s.badAccess (s.physPage p)
    | none => (s.unmapped, ⟨wr, 0⟩)
  else s.regAccess off wr (width == .w64) v

/-- The answer of an access is given to its requester in this module. -/
def answered (x : State × Resp) : State := { x.1 with lastResp := x.2 }

/-- REGISTER_WRITE (R40, R49). -/
def execRegisterWrite (page : Page) (off : BitVec 16) (part : Half) (v : W64) (s : State) : Out :=
  s.liveAll (
    let o := match part with | .hi => off.toNat + 4 | _ => off.toNat
    answered (s.pageAccess page o true (part == .word) v))

/-- COUNTER_LOW_READ (R56). -/
def execCounterLowRead (page : Page) (off : BitVec 16) (s : State) : Out :=
  s.liveAll (
    if 0x100 ≤ off.toNat ∧ off.toNat < 0x1000 then answered (s.pageAccess page off.toNat false false 0) else s)

/-! Remote windows (R41 to R45). -/

/-- R45: the address that an access to the HBM aperture reaches. -/
def State.apertureAddr (s : State) (off : Nat) : Nat := s.rf .mod R.MOD_RWIN_BASE 40 34 * 0x400000000 + off

/-- R45: an access to the HBM aperture. Beyond the top of HBM it is unmapped here (DEDUCED; log entry 43). -/
def State.aperture (s : State) (wr : Bool) (off : Nat) (n : Nat) (v : W64) : State × Resp :=
  let b := s.rf .mod R.MOD_RWIN_BASE 40 34
  if !s.rb .mod R.MOD_RWIN_CTRL 2 || decide (0x48 ≤ b) then (s.count .mod R.MOD_REMOTE_REFUSED 1, ⟨false, 0⟩)
  else
    let a := s.apertureAddr off
    if s.hbmTop < a + n then (s.unmapped, ⟨wr, 0⟩)
    else if wr then (s.hbmStore a (leBytes n v.toNat), ⟨true, 0⟩)
    else if s.hbmBad a n then (s.hbmSeen a n, ⟨false, 0⟩)
    else (s.hbmSeen a n, ⟨true, BitVec.ofNat 64 (ofLe (s.hbmRead a n))⟩)

/-- R45: a remote access to register space. -/
def State.remoteReg (s : State) (wr : Bool) (width : Width) (off : Nat) (v : W64) : State × Resp :=
  if s.rb .mod R.MOD_RWIN_CTRL (if wr then 1 else 0) then s.regAccessW off wr width v
  else (s.count .mod R.MOD_REMOTE_REFUSED 1, ⟨false, 0⟩)

/-- R44: remote register accesses that are outstanding. -/
def State.remoteBusy (s : State) : Nat := (s.remotes.filter (fun r => r.reg && r.sent)).length

/-- An access goes out over Selaz, or waits for one of the eight (R44). -/
def State.sendRemote (s : State) (dst : Nat) (reg : Bool) (b : MsgBody) : State :=
  let tag := s.nextTag
  let now := !reg || (decide (s.remoteBusy < 8) && !s.remotes.any (fun r => r.reg && !r.sent))
  let s := { s with nextTag := tag + 1, remotes := s.remotes ++ [{ tag := tag, reg := reg, dst := dst, body := b, sent := now }] }
  if now then s.send dst tag.toNat b else s

/-- R44: the oldest register access that waits goes out. -/
def State.sendHeld (s : State) : State :=
  match s.remotes.find? (fun r => r.reg && !r.sent) with
  | some r =>
    if s.remoteBusy < 8 then
      { s with remotes := s.remotes.map (fun (x : RemoteAcc) => if x.tag = r.tag then { x with sent := true } else x) }.send r.dst r.tag.toNat r.body
    else s
  | none => s

/-- R41 to R44: an access to a remote-window address. One that names the module's own coordinate is served here, under RWIN_CTRL (DEDUCED;
log entry 44). -/
def State.windowAccess (s : State) (a : Access) : State :=
  let n := a.addr.toNat
  let x := fld n 46 43
  let y := fld n 42 39
  let z := fld n 38 35
  let reg := n.testBit 34
  if s.nx ≤ x ∨ s.ny ≤ y ∨ s.nz ≤ z ∨ (reg ∧ fld n 33 28 ≠ 0) then answered (s.unmapped, ⟨a.write, 0⟩)
  else
    let dst := x + y * 16 + z * 256
    if dst = s.coord then
      if reg then answered (s.remoteReg a.write a.width (fld n 27 0) a.data)
      else if !s.memUp (s.apertureAddr (fld n 33 0)) a.width.bytes then s
      else answered (s.aperture a.write (fld n 33 0) a.width.bytes a.data)
    else if reg then s.sendRemote dst true (.regReq a.write a.width (BitVec.ofNat 28 n) a.data)
    else s.sendRemote dst false (.aptReq a.write (BitVec.ofNat 34 n) a.width a.data)

/-- REMOTE_WINDOW_ACCESS. -/
def execRemoteWindowAccess (a : Access) (s : State) : Out := s.liveAll (if a.addr.toNat.testBit 47 then s.windowAccess a else s)

/-- REMOTE_REGISTER_ACCESS (R45): a request of another module is served or refused, and answered. -/
def execRemoteRegisterAccess (m : Msg) (s : State) : Out :=
  s.liveAll (
    match m.body with
    | .regReq wr width off v =>
      if !s.arrived.contains m then s
      else
        let (s, r) := (s.taken m).remoteReg wr width off.toNat v
        s.send m.src.toNat m.tag.toNat (.regResp r.ok r.data)
    | _ => s)

/-- R628: the words of an aperture write that has been received are terms of the IN digest of the step open here; with no step open they
are no step's (DEDUCED; log entry 231). -/
def State.apertureTerms (s : State) (off n : Nat) (v : W64) : State :=
  let a := s.apertureAddr off
  match s.openNow with
  | some k => if a + n ≤ s.hbmTop then s.addIn k (wordTerms a (leBytes n v.toNat)) else s
  | none => s

/-- APERTURE_ACCESS (R45, R571, R628). -/
def execApertureAccess (m : Msg) (dirty : Option (Addr × List Byte)) (s : State) : Out :=
  s.liveAll (
    match m.body with
    | .aptReq wr off width v =>
      if !s.arrived.contains m ∨ !s.memUp (s.apertureAddr off.toNat) width.bytes then s
      else
        let (s, r) := ((s.taken m).recall dirty).aperture wr off.toNat width.bytes v
        let s := if wr && r.ok then s.apertureTerms off.toNat width.bytes v else s
        s.send m.src.toNat m.tag.toNat (.aptResp r.ok r.data)
    | _ => s)

/-- A response completes the access of this module that has its tag. -/
def State.remoteDone (s : State) (m : Msg) (reg ok : Bool) (data : W64) : State :=
  if !s.arrived.contains m then s
  else
    let s := s.taken m
    match s.remotes.find? (fun r => r.tag == m.tag && r.reg == reg && r.sent) with
    | none => s
    | some r => { s with remotes := s.remotes.erase r, lastResp := ⟨ok, data⟩ }.sendHeld

/-- REMOTE_REGISTER_RESPONSE (R44). -/
def execRemoteRegisterResponse (m : Msg) (s : State) : Out :=
  s.liveAll (match m.body with | .regResp ok v => s.remoteDone m true ok v | _ => s)

/-- APERTURE_RESPONSE (R44). -/
def execApertureResponse (m : Msg) (s : State) : Out :=
  s.liveAll (match m.body with | .aptResp ok v => s.remoteDone m false ok v | _ => s)

/-! Idryn cores (R38, R77, R486, R568 to R570). -/

/-- HOST_UNCACHED_ACCESS: a load or a store of an Idryn core. -/
def execHostUncachedAccess (h : HostAccess) (s : State) : Out :=
  let a := h.access
  s.liveAll (
    let n := a.addr.toNat
    let k := a.width.bytes
    match s.locate n with
    | .remote _ => s.windowAccess a
    | .reg off => answered (s.regAccessW off a.write a.width a.data)
    | _ =>
      if !s.memUp n k then s
      else if a.write then
        match s.coreWrite n (leBytes k a.data.toNat) with
        | some s => answered (s, ⟨true, 0⟩)
        | none => answered (s.unmapped, ⟨true, 0⟩)
      else
        match (s.tsramEcc h.ecc n).readUnit n k with
        | (.ok bs, s) => answered (s, ⟨true, BitVec.ofNat 64 (ofLe bs)⟩)
        | (_, s) => answered (s, ⟨false, 0⟩))

end Sys2Proof.Machine
end

