-- ==== Sys2Proof/Machine/Pins.lean ====
section
/-! DEFINITION. The management target (R768, R769) and the TAP (R770 to R774). -/

namespace Sys2Proof.Machine

/-! Management. -/

/-- R769: the mirror. -/
def State.mirror (s : State) (index : Nat) : Option Nat :=
  match index with
  | 0x00 => some Config.deviceNumber.toNat
  | 0x01 => some (s.view .mod R.MOD_START_STATUS)
  | 0x02 => some (s.view .pwr R.PWR_PWR_STATUS)
  | 0x03 => some (s.view .pwr R.PWR_DIE_TEMP_T)
  | 0x04 => some (s.view .pwr R.PWR_DIE_TEMP_D)
  | 0x05 => some (s.view .flt R.FLT_FLT_STATE + s.view .flt R.FLT_FLT_IRQ * 2 ^ 32)
  | 0x06 => some s.modCoord
  | 0x07 => some s.committedStep
  | _ => none

/-- The answer of the management target. -/
def State.mgmtAnswer (s : State) (v : Option W64) : State := { s with mgmt := { s.mgmt with answer := v } }

/-- MGMT_READ (R769): a read of an index outside the mirror is not acknowledged. -/
def execMgmtRead (index : Byte) (s : State) : Out := s.liveAll (s.mgmtAnswer ((s.mirror index.toNat).map (BitVec.ofNat 64)))

/-- MGMT_WRITE (R769): never acknowledged. -/
def execMgmtWrite (_data : List Byte) (s : State) : Out := s.liveAll (s.mgmtAnswer none)

/-- DYNAMIC_ADDRESS_ASSIGN (R768). -/
def execDynamicAddressAssign (a : BitVec 7) (s : State) : Out := s.liveAll { s with mgmt := { s.mgmt with dynamic := some a } }

/-! The TAP. -/

/-- R771: an instruction is loaded. -/
def State.loadIr (s : State) (op : Byte) : State := { s with tap := { s.tap with ir := op } }

/-- R772: the IDCODE of a B0 module. -/
def idcodeB0 : BitVec 32 := 0x1483274B

/-- R771, R772: IDCODE is the instruction. -/
def State.loadIdcode (s : State) : State := { s with tap := { s.tap with ir := 0x01, dr := idcodeB0.setWidth 96 } }

/-- EXTEST. -/
def execExtest (s : State) : Out := s.liveAll (s.loadIr 0x00)
/-- IDCODE. -/
def execIdcode (s : State) : Out := s.liveAll s.loadIdcode
/-- SAMPLE/PRELOAD. -/
def execSamplePreload (s : State) : Out := s.liveAll (s.loadIr 0x02)
/-- CLAMP. -/
def execClamp (s : State) : Out := s.liveAll (s.loadIr 0x04)
/-- HIGHZ. -/
def execHighz (s : State) : Out := s.liveAll (s.loadIr 0x05)
/-- EXTEST_PULSE. -/
def execExtestPulse (s : State) : Out := s.liveAll (s.loadIr 0x06)
/-- EXTEST_TRAIN. -/
def execExtestTrain (s : State) : Out := s.liveAll (s.loadIr 0x07)

/-- The opcodes of R771 that select something other than BYPASS. -/
def tapOpcodes : List Byte := [0x00, 0x01, 0x02, 0x04, 0x05, 0x06, 0x07, 0x20]

/-- BYPASS (R771): 0xFF, and every opcode that is not listed. -/
def execBypass (opcode : Byte) (s : State) : Out := s.liveAll (if tapOpcodes.contains opcode then s else s.loadIr opcode)

/-- REG_ACCESS (R38 to R40, R774): Update-DR starts the access; until step 1 of a start has completed it ends with STATUS 2. -/
def execRegAccess (dr : BitVec 96) (s : State) : Out :=
  s.liveAll (
    let v := dr.toNat
    let s := s.loadIr 0x20
    let s := { s with tap := { s.tap with dr := dr } }
    if s.startFld 27 24 < 2 then { s with tap := { s.tap with data := 0, status := 2 } }
    else
      let (s, r) := s.regAccess (fld v 27 0) (v.testBit 31) (v.testBit 30) (BitVec.ofNat 64 (fld v 95 32))
      { s with tap := { s.tap with data := r.data, status := if r.ok then 0 else 2 } })

/-- REG_ACCESS_CAPTURE (R774): Capture-DR loads data and status of the most recent access, which is complete. -/
def execRegAccessCapture (s : State) : Out :=
  s.liveAll (
    let s := s.loadIr 0x20
    { s with tap := { s.tap with dr := BitVec.ofNat 96 (s.tap.data.toNat * 2 ^ 32 + s.tap.status.toNat * 2 ^ 28) } })

/-- TEST_LOGIC_RESET (R771): IDCODE is the instruction. -/
def execTestLogicReset (s : State) : Out := s.liveAll s.loadIdcode

end Sys2Proof.Machine
end

