-- ==== Sys2Proof/Machine/Dispatch.lean ====
section
/-! DEFINITION. exec: one arm per command of the table, each one call of its meaning. -/

namespace Sys2Proof.Machine

/-- A command's effect on everything but the queue. -/
def exec (i : Instr) (s : State) : Host.Outcome State Fault Refusal :=
  match i with
  | .registerWrite page off part v => Sys2Proof.Machine.execRegisterWrite page off part v s
  | .hostUncachedAccess a => Sys2Proof.Machine.execHostUncachedAccess a s
  | .remoteWindowAccess a => Sys2Proof.Machine.execRemoteWindowAccess a s
  | .remoteRegisterAccess m => Sys2Proof.Machine.execRemoteRegisterAccess m s
  | .remoteRegisterResponse m => Sys2Proof.Machine.execRemoteRegisterResponse m s
  | .apertureAccess m dirty => Sys2Proof.Machine.execApertureAccess m dirty s
  | .apertureResponse m => Sys2Proof.Machine.execApertureResponse m s
  | .enableBlock page => Sys2Proof.Machine.execEnableBlock page s
  | .disableBlock page => Sys2Proof.Machine.execDisableBlock page s
  | .drainWrite page v => Sys2Proof.Machine.execDrainWrite page v s
  | .shutdownComplete page => Sys2Proof.Machine.execShutdownComplete page s
  | .drainTimeout page => Sys2Proof.Machine.execDrainTimeout page s
  | .expertWrite page v => Sys2Proof.Machine.execExpertWrite page v s
  | .basicRederive page => Sys2Proof.Machine.execBasicRederive page s
  | .cntClr page => Sys2Proof.Machine.execCntClr page s
  | .firstErrClear page => Sys2Proof.Machine.execFirstErrClear page s
  | .errInject page v => Sys2Proof.Machine.execErrInject page v s
  | .counterLowRead page off => Sys2Proof.Machine.execCounterLowRead page off s
  | .tblActivate tb => Sys2Proof.Machine.execTblActivate tb s
  | .tblAbort tb => Sys2Proof.Machine.execTblAbort tb s
  | .tblDataWrite tb part v => Sys2Proof.Machine.execTblDataWrite tb part v s
  | .tblDataRead tb part => Sys2Proof.Machine.execTblDataRead tb part s
  | .immediateActivation tb => Sys2Proof.Machine.execImmediateActivation tb s
  | .trainCommand t ring => Sys2Proof.Machine.execTrainCommand t ring s
  | .trainLaunch t => Sys2Proof.Machine.execTrainLaunch t s
  | .stageStart t k stage => Sys2Proof.Machine.execStageStart t k stage s
  | .itemDispatch c t k stage => Sys2Proof.Machine.execItemDispatch c t k stage s
  | .trainComplete t k => Sys2Proof.Machine.execTrainComplete t k s
  | .trainTimeout t k => Sys2Proof.Machine.execTrainTimeout t k s
  | .icacheFill c t => Sys2Proof.Machine.execIcacheFill c t s
  | .matrixTileOp c ecc => Sys2Proof.Machine.execMatrixTileOp c ecc s
  | .matrixTileOpDone c => Sys2Proof.Machine.execMatrixTileOpDone c s
  | .lpqDone c ecc => Sys2Proof.Machine.execLpqDone c ecc s
  | .spqDone c ecc => Sys2Proof.Machine.execSpqDone c ecc s
  | .voutDone c => Sys2Proof.Machine.execVoutDone c s
  | .undefinedOpcode c t w => Sys2Proof.Machine.execUndefinedOpcode c t w s
  | .nop c t f => Sys2Proof.Machine.execNop c t f s
  | .enditem c t f => Sys2Proof.Machine.execEnditem c t f s
  | .bra c t f => Sys2Proof.Machine.execBra c t f s
  | .brz c t f => Sys2Proof.Machine.execBrz c t f s
  | .brnz c t f => Sys2Proof.Machine.execBrnz c t f s
  | .waitAsync c t f => Sys2Proof.Machine.execWaitAsync c t f s
  | .cqpop c t f => Sys2Proof.Machine.execCqpop c t f s
  | .sadd c t f => Sys2Proof.Machine.execSadd c t f s
  | .ssub c t f => Sys2Proof.Machine.execSsub c t f s
  | .smul c t f => Sys2Proof.Machine.execSmul c t f s
  | .sand c t f => Sys2Proof.Machine.execSand c t f s
  | .sor c t f => Sys2Proof.Machine.execSor c t f s
  | .sxor c t f => Sys2Proof.Machine.execSxor c t f s
  | .sshl c t f => Sys2Proof.Machine.execSshl c t f s
  | .sshr c t f => Sys2Proof.Machine.execSshr c t f s
  | .ssra c t f => Sys2Proof.Machine.execSsra c t f s
  | .slt c t f => Sys2Proof.Machine.execSlt c t f s
  | .sltu c t f => Sys2Proof.Machine.execSltu c t f s
  | .sshi c t f => Sys2Proof.Machine.execSshi c t f s
  | .sld c t f => Sys2Proof.Machine.execSld c t f s
  | .sst c t f => Sys2Proof.Machine.execSst c t f s
  | .stime c t f => Sys2Proof.Machine.execStime c t f s
  | .vadd c t f => Sys2Proof.Machine.execVadd c t f s
  | .vsub c t f => Sys2Proof.Machine.execVsub c t f s
  | .vmul c t f => Sys2Proof.Machine.execVmul c t f s
  | .vfma c t f => Sys2Proof.Machine.execVfma c t f s
  | .vfnma c t f => Sys2Proof.Machine.execVfnma c t f s
  | .vadd3 c t f => Sys2Proof.Machine.execVadd3 c t f s
  | .vmax c t f => Sys2Proof.Machine.execVmax c t f s
  | .vmin c t f => Sys2Proof.Machine.execVmin c t f s
  | .vabs c t f => Sys2Proof.Machine.execVabs c t f s
  | .vcmp c t f => Sys2Proof.Machine.execVcmp c t f s
  | .vsel c t f => Sys2Proof.Machine.execVsel c t f s
  | .vcvt c t f => Sys2Proof.Machine.execVcvt c t f s
  | .vrcp c t f => Sys2Proof.Machine.execVrcp c t f s
  | .vrsqrt c t f => Sys2Proof.Machine.execVrsqrt c t f s
  | .vdiv c t f => Sys2Proof.Machine.execVdiv c t f s
  | .vsqrt c t f => Sys2Proof.Machine.execVsqrt c t f s
  | .vexp c t f => Sys2Proof.Machine.execVexp c t f s
  | .vlog c t f => Sys2Proof.Machine.execVlog c t f s
  | .viadd c t f => Sys2Proof.Machine.execViadd c t f s
  | .visub c t f => Sys2Proof.Machine.execVisub c t f s
  | .vimul c t f => Sys2Proof.Machine.execVimul c t f s
  | .viand c t f => Sys2Proof.Machine.execViand c t f s
  | .vior c t f => Sys2Proof.Machine.execVior c t f s
  | .vixor c t f => Sys2Proof.Machine.execVixor c t f s
  | .vishl c t f => Sys2Proof.Machine.execVishl c t f s
  | .vishr c t f => Sys2Proof.Machine.execVishr c t f s
  | .vimax c t f => Sys2Proof.Machine.execVimax c t f s
  | .vimin c t f => Sys2Proof.Machine.execVimin c t f s
  | .vicmp c t f => Sys2Proof.Machine.execVicmp c t f s
  | .vf2i c t f => Sys2Proof.Machine.execVf2i c t f s
  | .vi2f c t f => Sys2Proof.Machine.execVi2f c t f s
  | .vmov c t f => Sys2Proof.Machine.execVmov c t f s
  | .vbcst c t f => Sys2Proof.Machine.execVbcst c t f s
  | .vlane c t f => Sys2Proof.Machine.execVlane c t f s
  | .vidx c t f => Sys2Proof.Machine.execVidx c t f s
  | .vperm c t f => Sys2Proof.Machine.execVperm c t f s
  | .vld c t f => Sys2Proof.Machine.execVld c t f s
  | .vst c t f => Sys2Proof.Machine.execVst c t f s
  | .vldx c t f => Sys2Proof.Machine.execVldx c t f s
  | .vstx c t f => Sys2Proof.Machine.execVstx c t f s
  | .vout c t f => Sys2Proof.Machine.execVout c t f s
  | .mtq c t f => Sys2Proof.Machine.execMtq c t f s
  | .lpq c t f => Sys2Proof.Machine.execLpq c t f s
  | .spq c t f => Sys2Proof.Machine.execSpq c t f s
  | .rget c t f => Sys2Proof.Machine.execRget c t f s
  | .rrel c t f => Sys2Proof.Machine.execRrel c t f s
  | .rout c t f => Sys2Proof.Machine.execRout c t f s
  | .rpub c t f => Sys2Proof.Machine.execRpub c t f s
  | .vrsum c t f => Sys2Proof.Machine.execVrsum c t f s
  | .vrmax c t f => Sys2Proof.Machine.execVrmax c t f s
  | .vrmin c t f => Sys2Proof.Machine.execVrmin c t f s
  | .vtopk c t f => Sys2Proof.Machine.execVtopk c t f s
  | .mlogic c t f => Sys2Proof.Machine.execMlogic c t f s
  | .mnot c t f => Sys2Proof.Machine.execMnot c t f s
  | .mfroms c t f => Sys2Proof.Machine.execMfroms c t f s
  | .mtos c t f => Sys2Proof.Machine.execMtos c t f s
  | .mpop c t f => Sys2Proof.Machine.execMpop c t f s
  | .rngrd c t f => Sys2Proof.Machine.execRngrd c t f s
  | .rngld c t f => Sys2Proof.Machine.execRngld c t f s
  | .rngst c t f => Sys2Proof.Machine.execRngst c t f s
  | .gather g k stage => Sys2Proof.Machine.execGather g k stage s
  | .replace g k stage => Sys2Proof.Machine.execReplace g k stage s
  | .exportRows g k stage => Sys2Proof.Machine.execExportRows g k stage s
  | .remoteGatherRequest m => Sys2Proof.Machine.execRemoteGatherRequest m s
  | .remoteGatherResponse m => Sys2Proof.Machine.execRemoteGatherResponse m s
  | .remoteTimeout g => Sys2Proof.Machine.execRemoteTimeout g s
  | .seatRefresh t k => Sys2Proof.Machine.execSeatRefresh t k s
  | .slideCmd v => Sys2Proof.Machine.execSlideCmd v s
  | .flipArm => Sys2Proof.Machine.execFlipArm s
  | .catchUpdateRequest st => Sys2Proof.Machine.execCatchUpdateRequest st s
  | .rowLockGrant st => Sys2Proof.Machine.execRowLockGrant st s
  | .catchRowRead st => Sys2Proof.Machine.execCatchRowRead st s
  | .journalRecordAck st => Sys2Proof.Machine.execJournalRecordAck st s
  | .journalRoom st => Sys2Proof.Machine.execJournalRoom st s
  | .catchWriteAck st o => Sys2Proof.Machine.execCatchWriteAck st o s
  | .atomic a op ty x cmp dirty => Sys2Proof.Machine.execAtomic a op ty x cmp dirty s
  | .hbmRead a n err dirty => Sys2Proof.Machine.execHbmRead a n err dirty s
  | .hbmWrite a w dirty => Sys2Proof.Machine.execHbmWrite a w dirty s
  | .finishUpdate t k stage => Sys2Proof.Machine.execFinishUpdate t k stage s
  | .finishUpdateWritten t => Sys2Proof.Machine.execFinishUpdateWritten t s
  | .refreshCopies t => Sys2Proof.Machine.execRefreshCopies t s
  | .chainSendSparse t k stage => Sys2Proof.Machine.execChainSendSparse t k stage s
  | .chainSendDense t k stage => Sys2Proof.Machine.execChainSendDense t k stage s
  | .chainSendTopk t k stage => Sys2Proof.Machine.execChainSendTopk t k stage s
  | .chainReceiveDense t k stage => Sys2Proof.Machine.execChainReceiveDense t k stage s
  | .chainReceiveTopk t k stage => Sys2Proof.Machine.execChainReceiveTopk t k stage s
  | .localMerge => Sys2Proof.Machine.execLocalMerge s
  | .sparseSum m => Sys2Proof.Machine.execSparseSum m s
  | .sparseFinal m => Sys2Proof.Machine.execSparseFinal m s
  | .sparseEnd m => Sys2Proof.Machine.execSparseEnd m s
  | .denseSum m => Sys2Proof.Machine.execDenseSum m s
  | .denseFinal m => Sys2Proof.Machine.execDenseFinal m s
  | .topkSum m => Sys2Proof.Machine.execTopkSum m s
  | .topkFinal m => Sys2Proof.Machine.execTopkFinal m s
  | .chainTimeout x => Sys2Proof.Machine.execChainTimeout x s
  | .lockReq => Sys2Proof.Machine.execLockReq s
  | .skewWindow st pc more => Sys2Proof.Machine.execSkewWindow st pc more s
  | .memTempRead st temp => Sys2Proof.Machine.execMemTempRead st temp s
  | .dramRefresh r => Sys2Proof.Machine.execDramRefresh r s
  | .scrub st bad => Sys2Proof.Machine.execScrub st bad s
  | .tcacheFlush t => Sys2Proof.Machine.execTcacheFlush t s
  | .tcacheInval t => Sys2Proof.Machine.execTcacheInval t s
  | .tcacheFlushDone t => Sys2Proof.Machine.execTcacheFlushDone t s
  | .loanEnable k v => Sys2Proof.Machine.execLoanEnable k v s
  | .loanRead p m => Sys2Proof.Machine.execLoanRead p m s
  | .loanWrite p m => Sys2Proof.Machine.execLoanWrite p m s
  | .loanResponse m => Sys2Proof.Machine.execLoanResponse m s
  | .loanTimeout k => Sys2Proof.Machine.execLoanTimeout k s
  | .portTrainingDone p => Sys2Proof.Machine.execPortTrainingDone p s
  | .trainingTimeout p => Sys2Proof.Machine.execTrainingTimeout p s
  | .identityFlit p f x => Sys2Proof.Machine.execIdentityFlit p f x s
  | .ackTimeout p => Sys2Proof.Machine.execAckTimeout p s
  | .lossOfSignal p => Sys2Proof.Machine.execLossOfSignal p s
  | .trainingSequenceReceived p => Sys2Proof.Machine.execTrainingSequenceReceived p s
  | .retrainDone p => Sys2Proof.Machine.execRetrainDone p s
  | .retrainTimeout p => Sys2Proof.Machine.execRetrainTimeout p s
  | .dataFlit p f m => Sys2Proof.Machine.execDataFlit p f m s
  | .acknowledgeFlit p f => Sys2Proof.Machine.execAcknowledgeFlit p f s
  | .nakFlit p f => Sys2Proof.Machine.execNakFlit p f s
  | .idleFlit p f => Sys2Proof.Machine.execIdleFlit p f s
  | .ackSendDeadline p => Sys2Proof.Machine.execAckSendDeadline p s
  | .timeSyncSend p => Sys2Proof.Machine.execTimeSyncSend p s
  | .timeSyncFlit p f sent recv => Sys2Proof.Machine.execTimeSyncFlit p f sent recv s
  | .tsyncHoldoverExpire => Sys2Proof.Machine.execTsyncHoldoverExpire s
  | .tsyncInEdge => Sys2Proof.Machine.execTsyncInEdge s
  | .tsyncOutPulse => Sys2Proof.Machine.execTsyncOutPulse s
  | .timeSet v => Sys2Proof.Machine.execTimeSet v s
  | .messageForward src ecc => Sys2Proof.Machine.execMessageForward src ecc s
  | .treeRegistration m => Sys2Proof.Machine.execTreeRegistration m s
  | .barrierUp m => Sys2Proof.Machine.execBarrierUp m s
  | .barrierDown kind step => Sys2Proof.Machine.execBarrierDown kind step s
  | .barrierTimeout kind step child => Sys2Proof.Machine.execBarrierTimeout kind step child s
  | .fabLockReq => Sys2Proof.Machine.execFabLockReq s
  | .takeover => Sys2Proof.Machine.execTakeover s
  | .doorbell g tail => Sys2Proof.Machine.execDoorbell g tail s
  | .slotRead g => Sys2Proof.Machine.execSlotRead g s
  | .slotReread g => Sys2Proof.Machine.execSlotReread g s
  | .inlineBody g => Sys2Proof.Machine.execInlineBody g s
  | .waitFlag g => Sys2Proof.Machine.execWaitFlag g s
  | .flagPoll g => Sys2Proof.Machine.execFlagPoll g s
  | .waitTimeout g => Sys2Proof.Machine.execWaitTimeout g s
  | .drainCommand g => Sys2Proof.Machine.execDrainCommand g s
  | .nopCommand g => Sys2Proof.Machine.execNopCommand g s
  | .copyData e dirty => Sys2Proof.Machine.execCopyData e dirty s
  | .copyComplete e => Sys2Proof.Machine.execCopyComplete e s
  | .ringEnable g v => Sys2Proof.Machine.execRingEnable g v s
  | .ringResume g => Sys2Proof.Machine.execRingResume g s
  | .ringReset g => Sys2Proof.Machine.execRingReset g s
  | .hostReset => Sys2Proof.Machine.execHostReset s
  | .hostResetEnd => Sys2Proof.Machine.execHostResetEnd s
  | .deviceWrite p a bs => Sys2Proof.Machine.execDeviceWrite p a bs s
  | .deviceRead p a n dirty => Sys2Proof.Machine.execDeviceRead p a n dirty s
  | .pcieCompletionTimeout p => Sys2Proof.Machine.execPcieCompletionTimeout p s
  | .pcieLinkDown p => Sys2Proof.Machine.execPcieLinkDown p s
  | .d2dRetrain k => Sys2Proof.Machine.execD2dRetrain k s
  | .d2dRetrainTimeout k => Sys2Proof.Machine.execD2dRetrainTimeout k s
  | .stepClose => Sys2Proof.Machine.execStepClose s
  | .stepOpen => Sys2Proof.Machine.execStepOpen s
  | .verdictToken => Sys2Proof.Machine.execVerdictToken s
  | .relControlToken m => Sys2Proof.Machine.execRelControlToken m s
  | .crewDigest m => Sys2Proof.Machine.execCrewDigest m s
  | .heatDue c => Sys2Proof.Machine.execHeatDue c s
  | .heatTestStart c => Sys2Proof.Machine.execHeatTestStart c s
  | .heatDefer c => Sys2Proof.Machine.execHeatDefer c s
  | .heatTestDone c pass => Sys2Proof.Machine.execHeatTestDone c pass s
  | .heatCatchTest st pass => Sys2Proof.Machine.execHeatCatchTest st pass s
  | .heatFinishTest t pass => Sys2Proof.Machine.execHeatFinishTest t pass s
  | .heatLate kind index => Sys2Proof.Machine.execHeatLate kind index s
  | .rescan => Sys2Proof.Machine.execRescan s
  | .setStep => Sys2Proof.Machine.execSetStep s
  | .umpireResume => Sys2Proof.Machine.execUmpireResume s
  | .errorReport crc => Sys2Proof.Machine.execErrorReport crc s
  | .wakeEntryWrite => Sys2Proof.Machine.execWakeEntryWrite s
  | .wireFault w => Sys2Proof.Machine.execWireFault w s
  | .wirePairRecover w => Sys2Proof.Machine.execWirePairRecover w s
  | .fenceClr v => Sys2Proof.Machine.execFenceClr v s
  | .holdRelease => Sys2Proof.Machine.execHoldRelease s
  | .firstWakeClear => Sys2Proof.Machine.execFirstWakeClear s
  | .wireInj v => Sys2Proof.Machine.execWireInj v s
  | .strokeEdge => Sys2Proof.Machine.execStrokeEdge s
  | .strokeEnable v => Sys2Proof.Machine.execStrokeEnable v s
  | .forceStop => Sys2Proof.Machine.execForceStop s
  | .powerOn flash => Sys2Proof.Machine.execPowerOn flash s
  | .powerOff => Sys2Proof.Machine.execPowerOff s
  | .inputVoltageFault mv => Sys2Proof.Machine.execInputVoltageFault mv s
  | .railFault long => Sys2Proof.Machine.execRailFault long s
  | .capWindow mean => Sys2Proof.Machine.execCapWindow mean s
  | .pointChangeDone => Sys2Proof.Machine.execPointChangeDone s
  | .sensorRead temps w mv => Sys2Proof.Machine.execSensorRead temps w mv s
  | .thermTrip => Sys2Proof.Machine.execThermTrip s
  | .refLost => Sys2Proof.Machine.execRefLost s
  | .pllUnlock x => Sys2Proof.Machine.execPllUnlock x s
  | .modReset flash => Sys2Proof.Machine.execModReset flash s
  | .warmReset => Sys2Proof.Machine.execWarmReset s
  | .coldRequest => Sys2Proof.Machine.execColdRequest s
  | .warmRequest => Sys2Proof.Machine.execWarmRequest s
  | .startStepTimeout step code unit => Sys2Proof.Machine.execStartStepTimeout step code unit s
  | .startComplete => Sys2Proof.Machine.execStartComplete s
  | .svnCommit => Sys2Proof.Machine.execSvnCommit s
  | .attReq => Sys2Proof.Machine.execAttReq s
  | .attestationDone => Sys2Proof.Machine.execAttestationDone s
  | .mgmtRead index => Sys2Proof.Machine.execMgmtRead index s
  | .dynamicAddressAssign a => Sys2Proof.Machine.execDynamicAddressAssign a s
  | .extest => Sys2Proof.Machine.execExtest s
  | .idcode => Sys2Proof.Machine.execIdcode s
  | .samplePreload => Sys2Proof.Machine.execSamplePreload s
  | .clamp => Sys2Proof.Machine.execClamp s
  | .highz => Sys2Proof.Machine.execHighz s
  | .extestPulse => Sys2Proof.Machine.execExtestPulse s
  | .extestTrain => Sys2Proof.Machine.execExtestTrain s
  | .bypass opcode => Sys2Proof.Machine.execBypass opcode s
  | .regAccess dr => Sys2Proof.Machine.execRegAccess dr s
  | .regAccessCapture => Sys2Proof.Machine.execRegAccessCapture s
  | .fecUncorr p sixteenth => Sys2Proof.Machine.execFecUncorr p sixteenth s
  | .loanPortInactiveTimeout k => Sys2Proof.Machine.execLoanPortInactiveTimeout k s
  | .rescanDone => Sys2Proof.Machine.execRescanDone s
  | .refreshCopiesDone t => Sys2Proof.Machine.execRefreshCopiesDone t s
  | .heatTestTimeout c => Sys2Proof.Machine.execHeatTestTimeout c s
  | .d2dRetrainDone k => Sys2Proof.Machine.execD2dRetrainDone k s
  | .pcieLinkUp p => Sys2Proof.Machine.execPcieLinkUp p s
  | .refDrift off => Sys2Proof.Machine.execRefDrift off s
  | .testLogicReset => Sys2Proof.Machine.execTestLogicReset s
  | .mgmtWrite data => Sys2Proof.Machine.execMgmtWrite data s

end Sys2Proof.Machine
end

