-- ==== Sys2Proof/Machine/Step.lean ====
section
/-! DEFINITION. One step of the block: the command at the front of the queue; fabric time moves on where none waits. -/

namespace Sys2Proof.Machine

/-- An idle nanosecond (R552): the fabric time of a powered module counts on (DESIGN CHOICE; log entry 1). -/
def State.tick (s : State) : State := if s.pwr.on then { s with fabTime := s.fabTime + 1 } else s

/-- One step: the front command of the queue on the state with the queue's rest; an idle nanosecond on an empty queue. -/
def step (s : State) : Host.Outcome State Fault Refusal :=
  match s.pending with
  | [] => .next s.tick
  | c :: rest => exec c { s with pending := rest }

/-- The state with the command that a word spells at the front of its queue; unchanged where it spells none. -/
def State.withFetchWord (s : State) (nbits w : Nat) : State :=
  match decodeTableWord nbits w with
  | some c => { s with pending := c :: s.pending }
  | none => s

end Sys2Proof.Machine
end

