-- ==== Sys2Proof/WellFormed.lean ====
section
/-! DEFINITION. Which commands the spec can send: the body that a message command carries, and the operands that have a range. exec is total
and checks its operands itself; no meaning rests on this predicate. -/

namespace Sys2Proof

/-- A chain packet of one of these kinds (R430). -/
def MsgBody.isChain (ks : List Nat) : MsgBody → Bool
  | .chain p => ks.contains p.kind.toNat
  | _ => false

/-- Operand lists of which each element is a byte address with its bytes in range of an 8-byte flash address. -/
def flashOk (l : List (Nat × Byte)) : Bool := l.all (fun e => decide (e.1 < 2 ^ 32))

/-- A recalled dirty line of a host cache is 64 aligned bytes (R594, R600). -/
def lineOk : Option (Addr × List Byte) → Bool
  | none => true
  | some (a, bs) => a.toNat % 64 == 0 && bs.length == 64

namespace Instr

/-- The commands whose operands are in range. -/
def wf : Instr → Bool
  | .registerWrite _ off part _ => match part with | .hi => off.toNat % 8 == 4 | _ => off.toNat % 8 == 0
  | .counterLowRead _ off => off.toNat % 8 == 0
  | .remoteRegisterAccess m => match m.body with | .regReq _ _ _ _ => true | _ => false
  | .remoteRegisterResponse m => match m.body with | .regResp _ _ => true | _ => false
  | .apertureAccess m dirty => (match m.body with | .aptReq _ _ _ _ => true | _ => false) && lineOk dirty
  | .apertureResponse m => match m.body with | .aptResp _ _ => true | _ => false
  | .remoteGatherRequest m => match m.body with | .gatherReq _ _ _ _ _ _ => true | .replaceReq _ _ _ _ _ _ => true | _ => false
  | .remoteGatherResponse m => match m.body with | .gatherResp _ _ => true | .replaceResp _ _ => true | _ => false
  | .sparseSum m => m.body.isChain [1]
  | .sparseFinal m => m.body.isChain [2]
  | .sparseEnd m => m.body.isChain [7]
  | .denseSum m => m.body.isChain [3]
  | .denseFinal m => m.body.isChain [4]
  | .topkSum m => m.body.isChain [5]
  | .topkFinal m => m.body.isChain [6]
  | .loanRead _ m => match m.body with | .loanRead _ _ => true | _ => false
  | .loanWrite _ m => match m.body with | .loanWrite _ _ => true | _ => false
  | .loanResponse m => match m.body with | .loanResp _ _ => true | _ => false
  | .treeRegistration m => match m.body with | .registration _ => true | _ => false
  | .barrierUp m => match m.body with | .barrierUp _ _ _ => true | _ => false
  | .relControlToken m => match m.body with | .abort _ _ => true | _ => false
  | .crewDigest m => match m.body with | .digest _ _ _ _ => true | _ => false
  | .atomic _ _ _ _ _ dirty => lineOk dirty
  | .hbmRead _ n _ dirty => decide (0 < n) && lineOk dirty
  | .hbmWrite _ w dirty => decide (0 < w.bytes.length) && lineOk dirty
  | .copyData _ dirty => lineOk dirty
  | .deviceWrite _ _ bs => decide (0 < bs.length)
  | .deviceRead _ _ n dirty => decide (0 < n) && lineOk dirty
  | .heatLate kind _ => decide (1 ≤ kind.toNat) && decide (kind.toNat ≤ 3)
  | .powerOn flash => flashOk flash
  | .modReset flash => match flash with | some l => flashOk l | none => true
  | .sensorRead temps _ _ => temps.length == 10
  | .startStepTimeout step code _ => decide (1 ≤ step.toNat) && decide (1 ≤ code.toNat) && decide (code.toNat ≤ 8)
  | .bypass opcode => !([0x00, 0x01, 0x02, 0x04, 0x05, 0x06, 0x07, 0x20] : List Byte).contains opcode
  | .undefinedOpcode _ _ _ => true
  | _ => true

end Instr

end Sys2Proof
end

