-- ==== Sys2Proof/Safety.lean ====
section
/-! DEFINITION. The terms in which claims about the module are stated. -/

namespace Sys2Proof.Machine

/-! Threads that issue. -/

/-- A thread of a powered module that may issue its next instruction (R134, R177): it runs an item of a train that has not failed, and the
line of its program counter is in the instruction cache. -/
structure CanGo (s : State) (c : CoreId) (t : ThreadId) (it : Item) : Prop where
  on : s.pwr.on = true
  item : (s.thread c t.val).item = some it
  train : s.canIssue c t = true
  line : (s.core c).icache.contains (lineOf (s.thread c t.val).pc) = true

/-- The state after an instruction that was issued in state s0 and left state s: the thread as th with its program counter k instructions
on, the instruction counted. -/
def State.issued (s s0 : State) (c : CoreId) (t : ThreadId) (th : Thread) (k : Int) : State :=
  ((s.setThread c t.val { th with pc := th.pc + BitVec.ofInt 64 (8 * k) }).count (.core c) R.CORE_VEC_ISSUE 1).keepScratch s0 c

/-- A kind of instruction: its command by core, thread and word. -/
abbrev ThreadCmd := CoreId → ThreadId → VFields → Instr

/-- The scalar instructions s[vd] := op s[va] (s[vb] + IMM) of R147. -/
def scalarRows : List (ThreadCmd × (W64 → W64 → W64)) :=
  [(.sadd, fun a b => a + b), (.ssub, fun a b => a - b), (.smul, fun a b => a * b), (.sand, fun a b => a &&& b),
   (.sor, fun a b => a ||| b), (.sxor, fun a b => a ^^^ b), (.sshl, fun a b => a <<< (b.toNat % 64)),
   (.sshr, fun a b => a >>> (b.toNat % 64)), (.ssra, fun a b => a.sshiftRight (b.toNat % 64)),
   (.slt, fun a b => if a.toInt < b.toInt then 1 else 0), (.sltu, fun a b => if a.toNat < b.toNat then 1 else 0)]

/-- A lane-wise instruction: its command, the form of its word, whether RND 2 draws, its operation on a lane. -/
structure LaneRow where
  cmd : ThreadCmd
  form : OpForm
  draws : Bool
  op : VFields → Thread → Lane → W32

/-- An FP32 operation under RND with the draw of the lane. -/
def rounded (op : Nat → W32 → Lane → W32 × Ev) (f : VFields) (_ : Thread) (x : Lane) : W32 := (op f.rnd.toNat x.draw x).1

/-- The lane-wise FP32 instructions of R147. -/
def floatRows : List LaneRow :=
  [⟨.vadd, formFF 2, true, rounded (fun m r x => fAdd m r x.a x.b)⟩, ⟨.vsub, formFF 2, true, rounded (fun m r x => fSub m r x.a x.b)⟩,
   ⟨.vmul, formFF 2, true, rounded (fun m r x => fMul m r x.a x.b)⟩, ⟨.vfma, formFFF, true, rounded (fun m r x => fFma m r x.a x.b x.c)⟩,
   ⟨.vfnma, formFFF, true, rounded (fun m r x => fFnma m r x.a x.b x.c)⟩, ⟨.vadd3, formFFF, true, rounded (fun m r x => fAdd3 m r x.a x.b x.c)⟩,
   ⟨.vmax, formFF 0, false, fun _ _ x => fMax x.a x.b⟩, ⟨.vmin, formFF 0, false, fun _ _ x => fMin x.a x.b⟩,
   ⟨.vabs, formF 0, false, fun _ _ x => fAbs x.a⟩, ⟨.vrcp, formF 1, false, rounded (fun m _ x => fRcp m x.a)⟩,
   ⟨.vrsqrt, formF 1, false, rounded (fun m _ x => fRsqrt m x.a)⟩, ⟨.vdiv, formFF 2, true, rounded (fun m r x => fDiv m r x.a x.b)⟩,
   ⟨.vsqrt, formF 2, true, rounded (fun m r x => fSqrt m r x.a)⟩, ⟨.vexp, formF 1, false, rounded (fun m _ x => fExp m x.a)⟩,
   ⟨.vlog, formF 1, false, rounded (fun m _ x => fLog m x.a)⟩]

/-- The lane-wise integer, conversion and move instructions of R147. -/
def intRows : List LaneRow :=
  [⟨.viadd, formII 0, false, fun _ _ x => x.a + x.b⟩, ⟨.visub, formII 0, false, fun _ _ x => x.a - x.b⟩,
   ⟨.vimul, formII 0, false, fun _ _ x => x.a * x.b⟩, ⟨.viand, formII 0, false, fun _ _ x => x.a &&& x.b⟩,
   ⟨.vior, formII 0, false, fun _ _ x => x.a ||| x.b⟩, ⟨.vixor, formII 0, false, fun _ _ x => x.a ^^^ x.b⟩,
   ⟨.vishl, formII 0, false, fun _ _ x => x.a <<< (x.b.toNat % 32)⟩,
   ⟨.vishr, formII 7, false, fun f _ x => if f.imm.getLsbD 0 then x.a.sshiftRight (x.b.toNat % 32) else x.a >>> (x.b.toNat % 32)⟩,
   ⟨.vimax, formII 0, false, fun _ _ x => if x.a.toInt < x.b.toInt then x.b else x.a⟩,
   ⟨.vimin, formII 0, false, fun _ _ x => if x.b.toInt < x.a.toInt then x.b else x.a⟩,
   ⟨.vcvt, { layout := .v, vd := .vec, va := .vec, fmt := .target, rnd := 2 }, true,
     fun f _ x => laneOf f.fmt.toNat (toPlain f.fmt.toNat f.rnd.toNat x.draw (f32v x.a)).1⟩,
   ⟨.vf2i, { layout := .v, vd := .vec, va := .vec, rnd := 2 }, true,
     fun f _ x => BitVec.ofInt 32 (intRound (-(2 ^ 31)) (2 ^ 31 - 1) f.rnd.toNat x.draw (f32v x.a)).1⟩,
   ⟨.vi2f, { layout := .v, vd := .vec, va := .vec, rnd := 2 }, true,
     fun f _ x => (toF32 [] f.rnd.toNat x.draw (Val.ofInt x.a.toInt)).1⟩,
   ⟨.vmov, { layout := .v, vd := .vec, va := .vec, memA := true, fmt := .any }, false, fun _ _ x => x.a⟩,
   ⟨.vbcst, { layout := .v, vd := .vec, va := .sca }, false, fun f th _ => (th.sget f.va.toNat).setWidth 32⟩,
   ⟨.vidx, { layout := .v, vd := .vec }, false, fun _ _ x => BitVec.ofNat 32 x.l⟩,
   ⟨.vperm, { layout := .v, vd := .vec, va := .vec, vb := .vec }, false, fun f th x => nth 0 (th.vget f.va.toNat) (x.b.toNat % 64)⟩]

/-- R139: lane l of the destination of a lane-wise instruction. -/
def laneResult (r : LaneRow) (f : VFields) (th : Thread) (av bv : List W32) (l : Nat) : W32 :=
  if active f th l then
    r.op f th { l := l, a := nth 0 av l, b := nth 0 bv l, c := nth 0 (th.vget f.vc.toNat) l,
                draw := if r.draws ∧ f.rnd = 2#2 then (genDraw (nth 0 th.vgen l)).2 else 0 }
  else if f.pz then 0 else nth 0 (th.vget f.vd.toNat) l

/-- The scratch reads of an instruction meet no error: its word says the ECC saw none, and no injection is armed at the core. -/
def cleanScratch (s : State) (c : CoreId) (f : VFields) : Prop :=
  f.ecc = .ok ∧ s.injArmed (.core c) E.CORE_SCRATCH_UE = false ∧ s.injArmed (.core c) E.CORE_SCRATCH_CE = false

/-- n bytes of a core's scratch at a lie within it and hold no uncorrectable error. -/
def readable (s : State) (c : CoreId) (a n : Nat) : Prop := a + n ≤ scratchBytes ∧ (s.core c).scratchBad a n = false

/-- One byte of a core's scratch. -/
def State.scratchByte (s : State) (c : CoreId) (a : Nat) : Byte := Mem.get (s.core c).scratch a

/-- The threads of every core but the one named, and what memory, tile SRAM and the other cores hold, are as before. -/
def onlyThread (s u : State) (c : CoreId) (t : ThreadId) : Prop :=
  u.mem = s.mem ∧ u.tsram = s.tsram ∧ (∀ d, d ≠ c → u.core d = s.core d) ∧ (∀ k, k ≠ t.val → u.thread c k = s.thread c k)

/-- The value of lane l that a store of format fm under RND writes, as the element's bytes. -/
def storedBytes (f : VFields) (th : Thread) (l : Nat) : List Byte :=
  leBytes (fmtBytes f.fmt.toNat) (storeLane f.fmt.toNat f.rnd.toNat
    { l := l, a := nth 0 (th.vget f.vd.toNat) l, b := 0, c := 0, draw := if f.rnd = 2#2 then (genDraw (nth 0 th.vgen l)).2 else 0 }).1.toNat

/-! Stages of engines. -/

/-- Engine e may go on with the current command c of a gather stage (R276 to R283, R799): the stage g, number stage of train tr in Cox slot k of
its tile, runs, and c passes the checks of R281 under its table's descriptor d. -/
structure GatherReady (s : State) (e : GatherId) (k : Fin 4) (stage : Fin 16) (tr : Train) (g : StageRun) (c : GCmd) (d : TDesc) : Prop where
  on : s.up (.tile (tileOf (e.val / 4))) = true
  first : s.remoteFirst e = false
  running : (s.cox (Fin.ofNat 8 (e.val / 4))).running k.val = some tr
  isStage : tr.stages[stage.val]? = some g
  kind : g.desc.engine = 1 ∧ g.started = true ∧ g.done = false ∧ tr.failed = none ∧ g.nextItem < g.desc.items
  service : s.gatherInService e = true
  prog : g.desc.prog.toNat % 32 = 0 ∧ s.inTileMem (Fin.ofNat 8 (e.val / 4)) g.desc.prog.toNat (32 * g.desc.items) = true
  cmd : ∃ b, s.gcmdBytes g g.nextItem = .ok b ∧ c = GCmd.ofBytes b ∧ s.gcmdOk (Fin.ofNat 8 (e.val / 4)) g.desc.outRings b = true
  fits : g.engineFits e c.cont = true
  fresh : g.carry = none
  table : s.enabled .hrd = true ∧ s.tdesc c.table = some d ∧ s.gcmdFits (Fin.ofNat 8 (e.val / 4)) c d = true

/-- The address of a row in its owner. -/
def State.rowAddr (s : State) (d : TDesc) (id : Nat) : Nat := d.addr (d.owner s.ny id).2

/-- No one holds or waits for the lock of the row at an address, and the row-lock table has room (R350, R352). -/
def State.rowFree (s : State) (a : Nat) : Prop :=
  (∀ l ∈ s.locks (s.stackOfAddr a), l.addr ≠ a) ∧ lockRoom (s.locks (s.stackOfAddr a)) a = true

/-- A row ID names a row of the table that this module owns; its lock is free, its home read gives row, and no fault is found (R273, R285). -/
def State.homeRow (s : State) (d : TDesc) (id : Nat) (row : List Byte) : Prop :=
  id < d.rows ∧ (d.owner s.ny id).1 = s.ownY ∧ s.ownZ = 0 ∧ s.rowFree (s.rowAddr d id) ∧ s.hbmBad (s.rowAddr d id) d.bytes = false ∧
    row = s.hbmRead (s.rowAddr d id) d.bytes ∧ rowSeq row = rowTseq row ∧ rowPoison row = false ∧ (d.gchk = true → rowCheck row = rowCrc row)

/-- A message with a body goes back to the sender of m, under its tag. -/
def State.answers (u : State) (m : Msg) (b : MsgBody) : Prop := ∃ x ∈ u.inject, x.dst = m.src ∧ x.tag = m.tag ∧ x.body = b

/-- A counter may count: its page does not freeze it, and it is not full (R55). -/
def State.counts (s : State) (p : Page) (off : Nat) : Prop := s.rb p R.SH_CTRL 9 = false ∧ s.rd p off + 1 < 2 ^ 64

/-- A bit of ERR_STICKY of a page. -/
def State.sticky (s : State) (p : Page) (bitNo : Nat) : Prop := s.rb p R.SH_ERR_STICKY bitNo = true

/-- No boundary waits for its replacements. -/
def State.quiet (s : State) : Prop := ∀ b, s.hrd.boundary = some b → b.phase ≠ .replacing

/-- A Finish engine may take a notice with bytes b, in entry e of ring number ringNo, for a layer with descriptor d (R380, R387). -/
structure FinishReady (s : State) (t : TileId) (k : Fin 4) (stage : Fin 16) (tr : Train) (g : StageRun) (ring ring' : RingRun) (e : Nat) (d : LDesc)
    (x : DenseIn) : Prop where
  on : s.up (.tile t) = true
  running : (s.cox t).running k.val = some tr
  isStage : tr.stages[stage.val]? = some g
  kind : g.desc.engine = 4 ∧ g.started = true ∧ g.done = false ∧ tr.failed = none ∧ tr.noStep = false
  service : s.enabled (.fin t) = true ∧ (s.fin t).job = none ∧ (s.fin t).ovf ≠ some tr.step
  isRing : tr.rings[nth 0xFF g.desc.inRings 0]? = some ring ∧ ring.take stage.val = some (e, ring')
  clean : s.tsramBad t.val (ring.entryOff e) 64 = false
  step : recFld (s.tsramRead t.val (ring.entryOff e) 64) 0 8 63 0 = tr.step.toNat ∧ s.openNow = some tr.step.toNat
  reserved : recFld (s.tsramRead t.val (ring.entryOff e) 64) 0xC 4 31 0 = 0
  isListed : ∃ l, s.finList g = some l ∧ l.contains (recFld (s.tsramRead t.val (ring.entryOff e) 64) 8 4 11 0) = true
  first : (s.fin t).noted.contains (tr.uid, stage.val, recFld (s.tsramRead t.val (ring.entryOff e) 64) 8 4 11 0) = false
  layer : s.layer t (recFld (s.tsramRead t.val (ring.entryOff e) 64) 8 4 11 0) = some d ∧ d.updTile = s.logTile t.val
  given : s.layerIn t d tr.step.toNat (recFld (s.tsramRead t.val (ring.entryOff e) 64) 0x10 8 63 0) = some x

/-- A chain send (engine 2) or receive (engine 3) stage g of train tr may serve its entries: its step is open here and in the chain unit, and no
chain of it has failed (R421, R440). -/
structure ChainReady (s : State) (engine : Nat) (t : TileId) (k : Fin 4) (stage : Fin 16) (tr : Train) (g : StageRun) : Prop where
  on : s.up .mesh = true
  running : (s.cox t).running k.val = some tr
  isStage : tr.stages[stage.val]? = some g
  kind : g.desc.engine = engine ∧ g.started = true ∧ g.done = false ∧ tr.failed = none ∧ tr.noStep = false ∧ g.desc.items ≠ 0
  service : s.enabled .router = true ∧ s.chain.area ≠ 0
  step : s.openNow = some tr.step.toNat ∧ s.chain.step = some tr.step.toNat
  going : s.chainStatus = none

/-- The next entry of a send stage is e (R422). -/
def State.sends (s : State) (g : StageRun) (e : SendEnt) : Prop :=
  ∃ b, s.chainEntry g g.nextItem = .ok b ∧ SendEnt.ofBytes b = e ∧ sendEntOk b = true

/-- A chain packet p has arrived in message m, intact, in its step and in its turn (R448, R449). -/
structure PktReady (s : State) (m : Msg) (p : ChainPkt) : Prop where
  on : s.up .mesh = true
  here : m ∈ s.arrived
  body : m.body = .chain p
  service : s.enabled .router = true
  csum : p.csum.toNat = pktCrc p
  step : s.openNow = some p.step.toNat ∧ s.chain.step = some p.step.toNat
  turn : p.dst.toNat = s.coord ∧ p.pseq.toNat = SMap.get (fun _ => 0) s.chain.rx (seqNo (s.seqKind p) p.leg.toNat p.stream.toNat)
  going : s.chainStatus = none
  room : s.pktRoom p = true

/-! Power. -/

/-- What every step keeps (R713 to R715): rails are up only while pwr_en is high, and without rails the module stores nothing. -/
structure State.PowerInv (s : State) : Prop where
  enabled : s.pwr.on = true → s.pwr.en = true
  empty : s.pwr.on = false → s.regs = [] ∧ s.mem = [] ∧ s.tsram = [] ∧ s.cores = [] ∧ s.steps = [] ∧ s.coxes = [] ∧ s.reports = [] ∧ s.start.images = []

end Sys2Proof.Machine
end

