-- ==== Sys2Proof/Certificates/Slice0/Obligations.lean ====
section
/-! DEFINITION. The statements for the provers. -/

open Sys2Proof Sys2Proof.Machine

/-- For every command c and state s, a step of s with c put at the front of its queue is exec of c on s, the queue holding the rest; the queue is the
model's own, and the spec names no order of commands. Derived from 02_control_plane.md. -/
def Obligations.StepRunsFront : Prop :=
  ∀ (c : Instr) (s : State), step { s with pending := c :: s.pending } = exec c s

/-- For each of SADD, SSUB, SMUL, SAND, SOR, SXOR, SSHL, SSHR, SSRA, SLT and SLTU, a thread that may issue, with VC, FMT and RND 0, leaves the state in
which only its VD (s0 discards the write) and its program counter (8 on) have changed and the instruction is counted; SSHI the same with VB 0 and its
own operation. Every register is written, the zero register's discard included. Derived from R131, R137, R147. -/
def Obligations.ScalarResults : Prop :=
  (∀ e ∈ scalarRows, ∀ (c : CoreId) (t : ThreadId) (f : VFields) (s : State) (it : Item), CanGo s c t it →
    f.vc = 0 → f.fmt = 0 → f.rnd = 0 →
    exec (e.1 c t f) s = .next (s.issued s c t ((s.thread c t.val).sset f.vd.toNat
      (e.2 ((s.thread c t.val).sget f.va.toNat) ((s.thread c t.val).sget f.vb.toNat + BitVec.ofInt 64 f.simm))) 1)) ∧
  (∀ (c : CoreId) (t : ThreadId) (f : VFields) (s : State) (it : Item), CanGo s c t it →
    f.vb = 0 → f.vc = 0 → f.fmt = 0 → f.rnd = 0 →
    exec (.sshi c t f) s = .next (s.issued s c t ((s.thread c t.val).sset f.vd.toNat
      (((s.thread c t.val).sget f.va.toNat <<< 30) ||| f.imm.setWidth 64)) 1))

/-- On a thread that may issue, with the fields that each leaves unused 0, NOP only goes on; BRA goes OFF instructions on, BRZ and BRNZ go OFF on where
s[va] is 0 or is not and one on otherwise; WAIT goes on where at most N operations are outstanding; CQPOP takes the oldest tag out of the completion
queue into s[vd]; STIME writes the fabric time. That the branch counts from its own address is log entry 23 (DEDUCED). Derived from R147, R157. -/
def Obligations.ControlResults : Prop :=
  ∀ (c : CoreId) (t : ThreadId) (f : VFields) (s : State) (it : Item), CanGo s c t it →
    f.vb = 0 → f.vc = 0 → f.fmt = 0 → f.rnd = 0 →
    (f.vd = 0 → f.va = 0 → f.imm = 0 → exec (.nop c t f) s = .next (s.issued s c t (s.thread c t.val) 1)) ∧
    (f.vd = 0 → f.va = 0 → exec (.bra c t f) s = .next (s.issued s c t (s.thread c t.val) f.simm)) ∧
    (f.vd = 0 → exec (.brz c t f) s =
      .next (s.issued s c t (s.thread c t.val) (if (s.thread c t.val).sget f.va.toNat = 0 then f.simm else 1))) ∧
    (f.vd = 0 → exec (.brnz c t f) s =
      .next (s.issued s c t (s.thread c t.val) (if (s.thread c t.val).sget f.va.toNat = 0 then 1 else f.simm))) ∧
    (f.vd = 0 → f.va = 0 → f.imm.toNat < 32 → (s.thread c t.val).outst.length ≤ f.imm.toNat →
      exec (.waitAsync c t f) s = .next (s.issued s c t (s.thread c t.val) 1)) ∧
    (f.va = 0 → f.imm = 0 → ∀ (g : BitVec 16) (r : List (BitVec 16)), (s.thread c t.val).cq = g :: r →
      exec (.cqpop c t f) s = .next (s.issued s c t ({ s.thread c t.val with cq := r }.sset f.vd.toNat (g.setWidth 64)) 1)) ∧
    (f.va = 0 → f.imm = 0 → exec (.stime c t f) s = .next (s.issued s c t ((s.thread c t.val).sset f.vd.toNat s.fabTime) 1))

/-- On a thread that may issue and with the unused fields 0, MLOGIC, MNOT and MFROMS write the mask register VD, MTOS, MPOP and VLANE the scalar register
VD, and VSEL every lane of v[vd], from v[va] where the bit of m[pm] is 1 and from v[vb] otherwise; nothing else of the thread changes. Derived from
R136, R147, R148. -/
def Obligations.MaskAndLaneMoves : Prop :=
  ∀ (c : CoreId) (t : ThreadId) (f : VFields) (s : State) (it : Item), CanGo s c t it → f.vc = 0 → f.fmt = 0 → f.rnd = 0 →
    let th := s.thread c t.val
    let goes (i : ThreadCmd) (th' : Thread) : Prop := exec (i c t f) s = .next (s.issued s c t th' 1)
    (f.vd.toNat < 8 → f.va.toNat < 8 → f.vb.toNat < 8 → f.imm = 0 →
      goes .mlogic (th.mset f.vd.toNat (th.mget f.va.toNat &&& th.mget f.vb.toNat))) ∧
    (f.vd.toNat < 8 → f.va.toNat < 8 → f.vb.toNat < 8 → f.imm = 1 →
      goes .mlogic (th.mset f.vd.toNat (th.mget f.va.toNat ||| th.mget f.vb.toNat))) ∧
    (f.vd.toNat < 8 → f.va.toNat < 8 → f.vb.toNat < 8 → f.imm = 2 →
      goes .mlogic (th.mset f.vd.toNat (th.mget f.va.toNat ^^^ th.mget f.vb.toNat))) ∧
    (f.vd.toNat < 8 → f.va.toNat < 8 → f.vb.toNat < 8 → f.imm = 3 →
      goes .mlogic (th.mset f.vd.toNat (th.mget f.va.toNat &&& ~~~(th.mget f.vb.toNat)))) ∧
    (f.vd.toNat < 8 → f.va.toNat < 8 → f.vb = 0 → f.imm = 0 → goes .mnot (th.mset f.vd.toNat (~~~(th.mget f.va.toNat)))) ∧
    (f.vd.toNat < 8 → f.vb = 0 → f.imm = 0 → goes .mfroms (th.mset f.vd.toNat (th.sget f.va.toNat))) ∧
    (f.va.toNat < 8 → f.vb = 0 → f.imm = 0 → goes .mtos (th.sset f.vd.toNat (th.mget f.va.toNat))) ∧
    (f.va.toNat < 8 → f.vb = 0 → f.imm = 0 →
      goes .mpop (th.sset f.vd.toNat (BitVec.ofNat 64 (popCount (th.mget f.va.toNat))))) ∧
    (f.imm = 0 → goes .vlane (th.sset f.vd.toNat
      ((nth 0 (th.vget f.va.toNat) ((th.sget f.vb.toNat).toNat % 64)).setWidth 64))) ∧
    (f.p = true → f.imm.toNat % 2 ^ 26 = 0 → goes .vsel (th.vset f.vd.toNat ((List.range 64).map (fun l =>
      if (th.mget f.pm).getLsbD l then nth 0 (th.vget f.va.toNat) l else nth 0 (th.vget f.vb.toNat) l))))

/-- For each lane-wise FP32, integer, conversion and move instruction of R147, a legal word on a thread that may issue and whose operands can be read
(from registers or scratch) leads to a next state in which lane l of VD is the operation on the lane's operands where the lane is active (with a draw
of the lane's generator under RND 2 where the instruction rounds), 0 where it is not and PZ is 1, and as it was otherwise; the program counter is 8
on, the other vector registers, the scalar and the mask registers of the thread are as before. Derived from R139, R140, R147, R175. -/
def Obligations.LaneResults : Prop :=
  ∀ r ∈ floatRows ++ intRows, ∀ (c : CoreId) (t : ThreadId) (f : VFields) (s s1 s2 : State) (it : Item) (av bv : List W32),
    CanGo s c t it → r.form.legal f = true →
    s.operand c f (s.thread c t.val) f.am f.va.toNat f.aoff = .ok s1 av →
    s1.operand c f (s.thread c t.val) f.bm f.vb.toNat f.boff = .ok s2 bv →
    ∃ u, exec (r.cmd c t f) s = .next u ∧
      (∀ l < 64, nth 0 ((u.thread c t.val).vget f.vd.toNat) l = laneResult r f (s.thread c t.val) av bv l) ∧
      (∀ n, n ≠ f.vd.toNat → (u.thread c t.val).vget n = (s.thread c t.val).vget n) ∧
      (∀ n, (u.thread c t.val).sget n = (s.thread c t.val).sget n) ∧
      (∀ n, (u.thread c t.val).mget n = (s.thread c t.val).mget n) ∧
      (u.thread c t.val).pc = (s.thread c t.val).pc + 8

/-- On a thread that may issue, a legal VCMP or VICMP whose operands can be read leads to a next state in which bit l of m[vd] is the comparison SUB of
lane l where the lane is active, and otherwise 0 under PZ and as it was without it; the vector, scalar and other mask registers are as before and the
program counter is 8 on. Derived from R139, R147. -/
def Obligations.CompareResults : Prop :=
  ∀ e ∈ ([(.vcmp, { formFF 0 with vd := .msk, sub := 7 }, fCmp), (.vicmp, { formII 5 with vd := .msk }, iCmp)] :
      List (ThreadCmd × OpForm × (Nat → W32 → W32 → Bool))),
    ∀ (c : CoreId) (t : ThreadId) (f : VFields) (s s1 s2 : State) (it : Item) (av bv : List W32),
    CanGo s c t it → e.2.1.legal f = true →
    s.operand c f (s.thread c t.val) f.am f.va.toNat f.aoff = .ok s1 av →
    s1.operand c f (s.thread c t.val) f.bm f.vb.toNat f.boff = .ok s2 bv →
    ∃ u, exec (e.1 c t f) s = .next u ∧
      (∀ l < 64, ((u.thread c t.val).mget f.vd.toNat).getLsbD l =
        if active f (s.thread c t.val) l then e.2.2 f.sub (nth 0 av l) (nth 0 bv l)
        else (!f.pz && ((s.thread c t.val).mget f.vd.toNat).getLsbD l)) ∧
      (∀ n, n ≠ f.vd.toNat → (u.thread c t.val).mget n = (s.thread c t.val).mget n) ∧
      (∀ n, (u.thread c t.val).vget n = (s.thread c t.val).vget n) ∧
      (∀ n, (u.thread c t.val).sget n = (s.thread c t.val).sget n) ∧
      (u.thread c t.val).pc = (s.thread c t.val).pc + 8

/-- An operand of layout V whose AM or BM bit is 0 is the vector register named. With the bit 1 it is the 64 elements of format FMT at s[reg] + 64 *
offset with the low six bits of the address ignored, where those lie within scratch, hold no uncorrectable error and the ECC sees none and none is
armed; beyond scratch the operand names SCRATCH_RANGE, and with an uncorrectable error among its words SCRATCH_UE. Derived from R127, R139, R143,
R154. -/
def Obligations.OperandForms : Prop :=
  ∀ (s : State) (c : CoreId) (f : VFields) (th : Thread) (r off : Nat),
    s.operand c f th false r off = .ok s (th.vget r) ∧
    (let a := (th.sget r + BitVec.ofNat 64 (64 * off)).toNat / 64 * 64
     let n := 64 * fmtBytes f.fmt.toNat
     (scratchBytes < a + n → s.operand c f th true r off = .bad s E.CORE_SCRATCH_RANGE) ∧
     (a + n ≤ scratchBytes → f.ecc = .ok → s.injArmed (.core c) E.CORE_SCRATCH_UE = false → s.injArmed (.core c) E.CORE_SCRATCH_CE = false →
       ((s.core c).scratchBad a n = true → s.operand c f th true r off = .bad s E.CORE_SCRATCH_UE) ∧
       ((s.core c).scratchBad a n = false →
         s.operand c f th true r off = .ok s ((unpack f.fmt.toNat 64 ((s.core c).scr a n)).map (laneOf f.fmt.toNat)))))

/-- On a thread that may issue and with the unused fields 0, RNGRD writes to each lane of VD the word that the lane's generator draws and leaves the
generator in its next state; RNGLD with VA of 28 or less sets the state of each lane from four registers, low word first, an all-zero state becoming
word 0 equal to 1; RNGST with VD of 28 or less writes word k of each state to register VD + k. The program counter is 8 on each time. Derived from
R147, R149, R174, R200, R201. -/
def Obligations.RandomResults : Prop :=
  ∀ (c : CoreId) (t : ThreadId) (f : VFields) (s : State) (it : Item), CanGo s c t it →
    f.vb = 0 → f.vc = 0 → f.fmt = 0 → f.rnd = 0 → f.imm = 0 →
    (f.va = 0 → ∃ u, exec (.rngrd c t f) s = .next u ∧ (u.thread c t.val).pc = (s.thread c t.val).pc + 8 ∧
      ∀ l < 64, nth 0 ((u.thread c t.val).vget f.vd.toNat) l = (genDraw (nth 0 (s.thread c t.val).vgen l)).2 ∧
        nth 0 (u.thread c t.val).vgen l = (genDraw (nth 0 (s.thread c t.val).vgen l)).1) ∧
    (f.vd = 0 → f.va.toNat ≤ 28 → ∃ u, exec (.rngld c t f) s = .next u ∧ (u.thread c t.val).pc = (s.thread c t.val).pc + 8 ∧
      (u.thread c t.val).vreg = (s.thread c t.val).vreg ∧
      ∀ l < 64, ∀ w : Nat → W32, (∀ k < 4, w k = nth 0 ((s.thread c t.val).vget (f.va.toNat + k)) l) →
        nth 0 (u.thread c t.val).vgen l =
          if w 0 = 0 ∧ w 1 = 0 ∧ w 2 = 0 ∧ w 3 = 0 then 1 else w 3 ++ (w 2 ++ (w 1 ++ w 0))) ∧
    (f.va = 0 → f.vd.toNat ≤ 28 → ∃ u, exec (.rngst c t f) s = .next u ∧ (u.thread c t.val).pc = (s.thread c t.val).pc + 8 ∧
      (u.thread c t.val).vgen = (s.thread c t.val).vgen ∧
      ∀ k < 4, ∀ l < (s.thread c t.val).vgen.length,
        nth 0 ((u.thread c t.val).vget (f.vd.toNat + k)) l = (nth 0 (s.thread c t.val).vgen l).extractLsb' (32 * k) 32)

/-- On a thread that may issue, a legal VRSUM, VRMAX or VRMIN writes to all 64 lanes of VD the value of the fixed tree of six levels over the 64 lanes of
VA, an inactive lane entering as +0, minus infinity or plus infinity; a legal VTOPK, with VD even and K from 1 to 64, writes to rank l of VD and VD +
1 the l-th of the K best entries of the list held there and of the active candidates, and minus infinity with position -1 beyond them. Other registers
but those stay. Derived from R147, R170, R171, R172, R173, R176. -/
def Obligations.ReductionResults : Prop :=
  (∀ e ∈ ([(.vrsum, fun m a b => (fAdd m 0 a b).1, 0x00000000#32), (.vrmax, fun _ a b => fMax a b, 0xFF800000#32),
      (.vrmin, fun _ a b => fMin a b, 0x7F800000#32)] : List (ThreadCmd × (Nat → W32 → W32 → W32) × W32)),
    ∀ (c : CoreId) (t : ThreadId) (f : VFields) (s : State) (it : Item), CanGo s c t it →
      ({ layout := .t, vd := .vec, va := .vec, rnd := 1 } : OpForm).legal f = true → fld f.imm.toNat 6 0 = 0 →
      ∃ u, exec (e.1 c t f) s = .next u ∧
        (∀ l < 64, nth 0 ((u.thread c t.val).vget f.vd.toNat) l =
          tree64 (e.2.1 f.rnd.toNat) ((List.range 64).map (fun l =>
            if active f (s.thread c t.val) l then nth 0 ((s.thread c t.val).vget f.va.toNat) l else e.2.2))) ∧
        (∀ n, n ≠ f.vd.toNat → (u.thread c t.val).vget n = (s.thread c t.val).vget n) ∧
        (u.thread c t.val).sreg = (s.thread c t.val).sreg ∧ (u.thread c t.val).mreg = (s.thread c t.val).mreg ∧
        (u.thread c t.val).pc = (s.thread c t.val).pc + 8) ∧
  (∀ (c : CoreId) (t : ThreadId) (f : VFields) (s : State) (it : Item), CanGo s c t it →
    ({ layout := .t, vd := .vec, va := .sca, vb := .vec } : OpForm).legal f = true → f.vd.toNat % 2 = 0 →
    1 ≤ fld f.imm.toNat 6 0 → fld f.imm.toNat 6 0 ≤ 64 →
    let th := s.thread c t.val
    let old := (List.range 64).map (fun l => (nth 0 (th.vget f.vd.toNat) l, (nth 0 (th.vget (f.vd.toNat + 1)) l).toInt))
    let new := (activeLanes f th).map (fun l => (nth 0 (th.vget f.vb.toNat) l, (th.sget f.va.toNat + BitVec.ofNat 64 l).toInt))
    let top := topMerge (fld f.imm.toNat 6 0) (old ++ new)
    ∃ u, exec (.vtopk c t f) s = .next u ∧
      (∀ l < 64, nth 0 ((u.thread c t.val).vget f.vd.toNat) l = (nth (0xFF800000#32, -1) top l).1 ∧
        nth 0 ((u.thread c t.val).vget (f.vd.toNat + 1)) l = BitVec.ofInt 32 (nth (0xFF800000#32, -1) top l).2) ∧
      (∀ n, n ≠ f.vd.toNat → n ≠ f.vd.toNat + 1 → (u.thread c t.val).vget n = th.vget n) ∧
      (u.thread c t.val).pc = th.pc + 8)

/-- On a thread that may issue, with a legal word, addresses that lie within scratch and hold no uncorrectable error, and no ECC error seen or armed, SLD
writes to s[vd] the u64 at s[va] + IMM with the low three bits of the address ignored; VLD writes to each active lane of VD its element of format FMT
at s[va] + OFF with the low six bits ignored; VLDX writes to each active lane the element at s[va] + OFF + v[vb][l] with the bits below the element
size ignored; inactive lanes become 0 under PZ and stay otherwise. Memory, tile SRAM, other cores and other threads stay. Derived from R131, R143,
R147, R151, R154. -/
def Obligations.ScratchLoads : Prop :=
  ∀ (c : CoreId) (t : ThreadId) (f : VFields) (s : State) (it : Item), CanGo s c t it → cleanScratch s c f →
    (let a := ((s.thread c t.val).sget f.va.toNat + BitVec.ofInt 64 f.simm).toNat / 8 * 8
     f.vb = 0 → f.vc = 0 → f.fmt = 0 → f.rnd = 0 → readable s c a 8 →
     ∃ u, exec (.sld c t f) s = .next u ∧ onlyThread s u c t ∧ (u.thread c t.val).pc = (s.thread c t.val).pc + 8 ∧
       ∀ n, (u.thread c t.val).sget n =
         if n = f.vd.toNat ∧ n ≠ 0 then BitVec.ofNat 64 (ofLe ((s.core c).scr a 8)) else (s.thread c t.val).sget n) ∧
    (let a := ((s.thread c t.val).sget f.va.toNat + BitVec.ofInt 64 f.loff).toNat / 64 * 64
     ({ layout := .l, vd := .vec, va := .sca, fmt := .mem } : OpForm).legal f = true → readable s c a (64 * fmtBytes f.fmt.toNat) →
     ∃ u, exec (.vld c t f) s = .next u ∧ onlyThread s u c t ∧ (u.thread c t.val).pc = (s.thread c t.val).pc + 8 ∧
       (∀ l < 64, nth 0 ((u.thread c t.val).vget f.vd.toNat) l =
         if active f (s.thread c t.val) l then
           nth 0 ((unpack f.fmt.toNat 64 ((s.core c).scr a (64 * fmtBytes f.fmt.toNat))).map (laneOf f.fmt.toNat)) l
         else if f.pz then 0 else nth 0 ((s.thread c t.val).vget f.vd.toNat) l) ∧
       (∀ n, n ≠ f.vd.toNat → (u.thread c t.val).vget n = (s.thread c t.val).vget n)) ∧
    (({ layout := .l, vd := .vec, va := .sca, vb := .vec, fmt := .mem } : OpForm).legal f = true →
     (∀ l < 64, active f (s.thread c t.val) l = true → readable s c (laneAddr (s.thread c t.val) f l) (fmtBytes f.fmt.toNat)) →
     ∃ u, exec (.vldx c t f) s = .next u ∧ onlyThread s u c t ∧ (u.thread c t.val).pc = (s.thread c t.val).pc + 8 ∧
       (∀ l < 64, nth 0 ((u.thread c t.val).vget f.vd.toNat) l =
         if active f (s.thread c t.val) l then
           laneOf f.fmt.toNat (ofLe ((s.core c).scr (laneAddr (s.thread c t.val) f l) (fmtBytes f.fmt.toNat)))
         else if f.pz then 0 else nth 0 ((s.thread c t.val).vget f.vd.toNat) l) ∧
       (∀ n, n ≠ f.vd.toNat → (u.thread c t.val).vget n = (s.thread c t.val).vget n))

/-- On a thread that may issue, with a legal word and every address stored to within scratch, SST stores s[vb] at s[va] + IMM with the low three address
bits ignored; VST stores each active lane of VD, converted to FMT under RND, as its element at s[va] + OFF with the low six bits ignored; VSTX stores
each active lane at s[va] + OFF + v[vb][l], the bits below the element size ignored, and of two lanes on one element the higher-numbered stands. Under
PZ the inactive lanes of VD become 0 (log entry 206, DEDUCED); its other lanes and every other vector register of the thread stay. Every byte of the
core's scratch outside the bytes stored, memory, tile SRAM, other cores and other threads stay. Derived from R143, R147, R151, R153, R154. -/
def Obligations.ScratchStores : Prop :=
  ∀ (c : CoreId) (t : ThreadId) (f : VFields) (s : State) (it : Item), CanGo s c t it →
    let th := s.thread c t.val
    let w := fmtBytes f.fmt.toNat
    let lanesKept (u : State) : Prop :=
      (∀ l < 64, nth 0 ((u.thread c t.val).vget f.vd.toNat) l = if !active f th l && f.pz then 0 else nth 0 (th.vget f.vd.toNat) l) ∧
        (∀ n, n ≠ f.vd.toNat → (u.thread c t.val).vget n = th.vget n)
    (let a := (th.sget f.va.toNat + BitVec.ofInt 64 f.simm).toNat / 8 * 8
     f.vd = 0 → f.vc = 0 → f.fmt = 0 → f.rnd = 0 → a + 8 ≤ scratchBytes →
     ∃ u, exec (.sst c t f) s = .next u ∧ onlyThread s u c t ∧ (u.thread c t.val).pc = th.pc + 8 ∧
       (∀ i < 8, u.scratchByte c (a + i) = nth 0 (leBytes 8 (th.sget f.vb.toNat).toNat) i) ∧
       (∀ b, b < a ∨ a + 8 ≤ b → u.scratchByte c b = s.scratchByte c b)) ∧
    (let a := (th.sget f.va.toNat + BitVec.ofInt 64 f.loff).toNat / 64 * 64
     ({ layout := .l, vd := .vec, va := .sca, fmt := .mem, rnd := 2 } : OpForm).legal f = true → a + 64 * w ≤ scratchBytes →
     ∃ u, exec (.vst c t f) s = .next u ∧ lanesKept u ∧ onlyThread s u c t ∧ (u.thread c t.val).pc = th.pc + 8 ∧
       (∀ l < 64, active f th l = true → ∀ i < w, u.scratchByte c (a + w * l + i) = nth 0 (storedBytes f th l) i) ∧
       (∀ b, (∀ l < 64, active f th l = true → b < a + w * l ∨ a + w * l + w ≤ b) → u.scratchByte c b = s.scratchByte c b)) ∧
    (({ layout := .l, vd := .vec, va := .sca, vb := .vec, fmt := .mem, rnd := 2 } : OpForm).legal f = true →
     (∀ l < 64, active f th l = true → laneAddr th f l + w ≤ scratchBytes) →
     ∃ u, exec (.vstx c t f) s = .next u ∧ lanesKept u ∧ onlyThread s u c t ∧ (u.thread c t.val).pc = th.pc + 8 ∧
       (∀ l < 64, active f th l = true → (∀ k < 64, l < k → active f th k = true → laneAddr th f k ≠ laneAddr th f l) →
         ∀ i < w, u.scratchByte c (laneAddr th f l + i) = nth 0 (storedBytes f th l) i) ∧
       (∀ b, (∀ l < 64, active f th l = true → b < laneAddr th f l ∨ laneAddr th f l + w ≤ b) → u.scratchByte c b = s.scratchByte c b))

/-- The 64-bit word with a defined opcode in bits [63:56], then VD, VA, VB, VC, FMT, RND and IMM decodes to the command of that opcode with those fields.
A thread that may issue and issues a word whose opcode R147 does not define reaches a next state in which ERR_STICKY.ILLEGAL_OP of its CORE page and
STAGE_FAULT of its tile's COX page are set, and its train has failed with STATUS 1 at the thread's stage; the thread runs no item any more where no
operation of it is outstanding, and keeps its registers and the operations it issued earlier where some are; memory and tile SRAM keep what they held.
Derived from R115, R127, R136, R138, R147, R182, R183. -/
def Obligations.IllegalWordFaults : Prop :=
  (∀ o ∈ vectorOps, ∀ (c : CoreId) (t : ThreadId) (f : VFields),
    decodeVector c t f.ecc (BitVec.ofNat 8 o.1 ++ f.vd ++ f.va ++ f.vb ++ f.vc ++ f.fmt ++ f.rnd ++ f.imm) = some (o.2 c t f)) ∧
  (∀ (c : CoreId) (t : ThreadId) (w : W64) (s : State) (it : Item), CanGo s c t it → decodeVector c t .ok w = none →
    ∃ u, exec (.undefinedOpcode c t w) s = .next u ∧
      u.rb (.core c) R.SH_ERR_STICKY E.CORE_ILLEGAL_OP = true ∧
      u.rb (.cox (tileOfCore c)) R.SH_ERR_STICKY E.COX_STAGE_FAULT = true ∧
      (∃ tr, (u.cox (tileOfCore c)).train it.train = some tr ∧ tr.failed = some (1, it.stage)) ∧
      ((s.thread c t.val).outst = [] → (u.thread c t.val).item = none) ∧
      ((s.thread c t.val).outst ≠ [] → u.thread c t.val = s.thread c t.val ∧
        (∀ m ∈ (s.core c).queue, m.thread = t.val → m ∈ (u.core c).queue) ∧ (∀ m ∈ (s.core c).lpq, m.thread = t.val → m ∈ (u.core c).lpq) ∧
        (∀ m ∈ (s.core c).spq, m.key.2 = t.val → m ∈ (u.core c).spq)) ∧
      u.mem = s.mem ∧ u.tsram = s.tsram)

/-- On a thread that may issue, has room for one more asynchronous operation and meets no scratch error, with a legal word, room in the queue and an
acceptable descriptor whose external ranges touch no other tile's window: VOUT puts its destination, descriptor, lanes and generator states on the
store path; MTQ appends the operation of its 32-byte descriptor to the array's queue, its ring operands taken by loads that the thread holds; LPQ and
SPQ append the transfer of their 64-byte descriptor to the load or store path. In each case the thread holds one more outstanding operation, with the
core's next operation number, and its program counter is 8 on. Derived from R85, R87, R88, R141, R155, R156, R159, R160, R202, R232. -/
def Obligations.AsyncIssue : Prop :=
  ∀ (c : CoreId) (t : ThreadId) (f : VFields) (s : State) (it : Item), CanGo s c t it → cleanScratch s c f →
    (s.thread c t.val).roomAsync = true →
    let th := s.thread c t.val
    let x := s.core c
    let tile := tileOfCore c
    let held (u : State) (tag : Bool) : Prop :=
      (u.core c).nextOp = x.nextOp + 1 ∧ (u.thread c t.val).outst = th.outst ++ [(x.nextOp, tag)] ∧ (u.thread c t.val).pc = th.pc + 8
    (let a := (th.sget f.va.toNat + BitVec.ofInt 64 f.qoff).toNat
     let p := (th.sget f.vc.toNat).toNat
     let bf := s.bfd tile f.bfd
     ({ layout := .q, vd := .vec, va := .sca, vc := .sca } : OpForm).legal f = true →
     extBaseOk bf.fmt bf.block p 0 = true → s.privOk bf.fmt bf.priv = true →
     (storeRanges bf.fmt bf a p 0 1 64).any (s.otherWindow tile) = false →
     ∃ u, exec (.vout c t f) s = .next u ∧ held u false ∧
       (u.core c).spq = x.spq ++ [.vout (VoutOp.mk x.nextOp t.val a p f.bfd bf (th.vget f.vd.toNat) th.sgen)]) ∧
    (let a := (th.sget f.va.toNat).toNat
     let d := MDesc.ofBytes (x.scr a 32)
     let bf := s.bfd tile f.bfd
     let base := (th.sget f.vb.toNat).toNat
     let p := (th.sget f.vc.toNat).toNat
     let load (ring off layout : Nat) : Option Nat := if ring = 0 then none else (th.ringFor ring off layout none).map (·.op)
     ({ layout := .q, va := .sca, vb := .sca, vc := .sca } : OpForm).legal f = true → x.queue.length < 4 → readable s c a 32 →
     d.ok = true → (d.aRing ≠ 0 → (load d.aRing d.aOff 1).isSome = true) → (d.bRing ≠ 0 → (load d.bRing d.bOff 2).isSome = true) →
     (d.out = 2 → extBaseOk bf.fmt bf.block p f.qstride = true ∧ s.privOk bf.fmt bf.priv = true ∧
       (storeRanges bf.fmt bf base p f.qstride 64 64).any (s.otherWindow tile) = false) →
     ∃ u m, exec (.mtq c t f) s = .next u ∧ held u true ∧ (u.core c).queue = x.queue ++ [m] ∧
       m.op = x.nextOp ∧ m.thread = t.val ∧ m.k = d.k ∧ m.out = d.out ∧ m.bank = d.bank ∧ m.accIn = d.accIn ∧ m.aFmt = d.aFmt ∧
       m.bFmt = d.bFmt ∧ m.aRing = d.aRing ∧ m.bRing = d.bRing ∧ m.aOff = d.aOff ∧ m.bOff = d.bOff ∧ m.cOff = d.cOff ∧ m.aSc = d.aSc ∧
       m.bSc = d.bSc ∧ m.tag = BitVec.ofNat 16 d.tag ∧ m.base = base ∧ m.stride = f.qstride ∧ m.scBase = p ∧ m.d = f.bfd ∧
       m.aLoad = load d.aRing d.aOff 1 ∧ m.bLoad = load d.bRing d.bOff 2) ∧
    (let a := (th.sget f.va.toNat + BitVec.ofInt 64 f.qoff).toNat
     let d := XDesc.ofBytes (x.scr a 64)
     let bf := s.bfd tile d.bfd
     ({ layout := .q, va := .sca } : OpForm).legal f = true → f.bfd = 0 → readable s c a 64 →
     d.scr + d.span ≤ scratchBytes → (d.sumsOn = true → d.sums + 4 * (if d.layout = 0 then d.rows else 64) ≤ scratchBytes) →
     (d.ranges bf).any (s.otherWindow tile) = false →
     (x.lpq.length < 8 → d.loadOk bf = true → s.privOk d.scrFmt 0 = true →
       ∃ u, exec (.lpq c t f) s = .next u ∧ held u true ∧ (u.core c).lpq = x.lpq ++ [Xfer.ofDesc d x.nextOp t.val bf th.sgen]) ∧
     (x.spq.length < 8 → d.storeOk bf = true → s.privOk d.extFmt bf.priv = true →
       ∃ u, exec (.spq c t f) s = .next u ∧ held u true ∧ (u.core c).spq = x.spq ++ [.spq (Xfer.ofDesc d x.nextOp t.val bf th.sgen)]))

/-- On a powered module, where the array of core c is idle and the operation m at the head of its queue may start, no scratch error is seen, armed or held
in the words that m reads (operands, their block scales, and C under ACC_IN 2), MATRIX_TILE_OP leaves the array running with the bank that m names
holding the product of its operands, from the ring loads that it took or from scratch, over the start values that ACC_IN names; the other bank stays.
A block-scaled operand is read under the scale type of the load that placed its scales, and where no load did, under a free one (log entry 26). Where
the words hold an uncorrectable error, nothing of the operation takes effect: SCRATCH_UE is set and it leaves the queue. Derived from R84, R87, R130,
R208, R214, R233. -/
def Obligations.ArrayRuns : Prop :=
  ∀ (c : CoreId) (s : State) (m : MOp) (r : List MOp), s.pwr.on = true →
    (s.core c).queue = m :: r → (s.core c).running = false → (s.core c).canStart m = true →
    s.injArmed (.core c) E.CORE_SCRATCH_UE = false → s.injArmed (.core c) E.CORE_SCRATCH_CE = false →
    ((∃ e ∈ m.reads, (s.core c).scratchBad e.1 e.2 = true) → ∀ it, (s.thread c m.thread).item = some it → m.thread < 8 →
      ∃ u, exec (.matrixTileOp c .ok) s = .next u ∧ (∀ y ∈ (u.core c).queue, y.op = m.op → y.thread ≠ m.thread) ∧
        (u.core c).bank0 = (s.core c).bank0 ∧ (u.core c).bank1 = (s.core c).bank1 ∧ u.rb (.core c) R.SH_ERR_STICKY E.CORE_SCRATCH_UE = true) ∧
    ((∀ e ∈ m.reads, (s.core c).scratchBad e.1 e.2 = false) →
      let x := s.core c
      let ring (o : Option Nat) : Option (List Nat × List (Nat × Nat)) :=
        o.bind (fun op => ((x.thread m.thread).ringLoads.find? (fun l => l.op == op)).map (fun l => (l.codes, l.scales.map (fun b => (b, l.ty)))))
      let a := (ring m.aLoad).getD (x.wholeOperand m.aFmt m.aOff m.aSc m.k)
      let b := (ring m.bLoad).getD (x.wholeOperand m.bFmt m.bOff m.bSc m.k)
      let start : Option (List W32) := match m.accIn with
        | 0 => none
        | 1 => some (if m.bank = 0 then x.bank0 else x.bank1)
        | _ => some ((List.range 4096).map (fun i => BitVec.ofNat 32 (ofLe (x.scr (m.cOff + 4 * i) 4))))
      ∃ u, exec (.matrixTileOp c .ok) s = .next u ∧ (u.core c).running = true ∧ (u.core c).queue = m :: r ∧
        (if m.bank = 0 then (u.core c).bank0 else (u.core c).bank1) =
          (matrixProduct (decide (11 ≤ m.aFmt)) (operandOf false m.aFmt m.k a.1 a.2) (operandOf true m.bFmt m.k b.1 b.2) m.k start).1 ∧
        (if m.bank = 0 then (u.core c).bank1 = x.bank1 else (u.core c).bank0 = x.bank0) ∧ u.mem = s.mem)

/-- On a powered module: the array's running operation leaves the queue, its tag returns, and with OUT 1 its bank lies in scratch at C_OFF, with OUT 2 its
rows are stored. Where its tile has lock too: the VOUT or SPQ at the head of the store path, where its thread still runs an item and its store can be
made, leaves the path, an SPQ with its stash and its tag; the load at the head of the load path, where it may place its data and its external bytes
can be read, leaves the path with its tag, and scratch holds its converted rows and scales as the layouts place them and its sums. Each of them is no
longer outstanding for its thread; a thread whose train has failed goes idle with its last operation. Derived from R88, R96, R97, R157, R158, R159,
R162, R260. -/
def Obligations.AsyncCompletion : Prop :=
  ∀ (c : CoreId) (s : State), s.pwr.on = true →
    let back (s' u : State) (t op : Nat) (tag : List (BitVec 16)) : Prop :=
      let left := (s'.thread c t).outst.filter (fun o => decide (o.1 ≠ op))
      if s'.threadFailed c t = true ∧ left = [] then u.thread c t = Thread.init
      else (u.thread c t).cq = (s'.thread c t).cq ++ tag ∧ (u.thread c t).outst = left
    (∀ (m : MOp) (r : List MOp), (s.core c).queue = m :: r → (s.core c).running = true →
      let x := s.core c
      let bank := if m.bank = 0 then x.bank0 else x.bank1
      let done (s' u : State) : Prop := (u.core c).queue = r ∧ (u.core c).running = false ∧ back s' u m.thread m.op [m.tag]
      (m.out ≠ 1 → m.out ≠ 2 → ∃ u, exec (.matrixTileOpDone c) s = .next u ∧ done s u ∧ (u.core c).scratch = x.scratch) ∧
      (m.out = 1 → ∃ u, exec (.matrixTileOpDone c) s = .next u ∧ done s u ∧
        (u.core c).scratch = Mem.write x.scratch m.cOff (bank.flatMap (fun w => leBytes 4 w.toNat))) ∧
      (∀ (it : Item) (s' : State), m.out = 2 → (s.thread c m.thread).item = some it →
        s.storeOp c it { fmt := m.bf.fmt, bf := m.bf, spq := false, fb := 0, base := m.base, param := m.scBase, stride := m.stride } m.d m.gens
          ((List.range 64).map (fun r => ((bank.drop (64 * r)).take 64).map f32v)) StashCtx.off = .ok s' () → (s'.core c).queue = m :: r →
        ∃ u, exec (.matrixTileOpDone c) s = .next u ∧ done s' u ∧ u.mem = s'.mem ∧ u.tsram = s'.tsram)) ∧
    (s.up (.tile (tileOfCore c)) = true →
      (∀ (v : VoutOp) (r : List StoreOp) (it : Item) (s' : State), (s.core c).spq = .vout v :: r → (s.thread c v.thread).item = some it →
        s.storeOp c it { fmt := v.bf.fmt, bf := v.bf, spq := false, fb := 0, base := v.addr, param := v.scBase, stride := 0 } v.d v.gens
          [v.lanes.map f32v] StashCtx.off = .ok s' () →
        ∃ u, exec (.voutDone c) s = .next u ∧ (u.core c).spq = r ∧ back s' u v.thread v.op [] ∧ u.mem = s'.mem ∧ u.tsram = s'.tsram) ∧
      (∀ (y : Xfer) (r : List StoreOp) (it : Item) (s' : State), (s.core c).spq = .spq y :: r → (s.thread c y.thread).item = some it →
        s.injArmed (.core c) E.CORE_SCRATCH_UE = false → s.injArmed (.core c) E.CORE_SCRATCH_CE = false →
        (s.core c).scratchBad y.scr y.desc.span = false →
        s.storeOp c it { fmt := y.extFmt, bf := y.bf, spq := true, fb := 0, base := y.ext, param := y.scale, stride := y.stride } y.d y.gens
          ((s.core c).sourceRows y) { mode := y.stash, addr := y.stashAddr, lo := y.lo, hi := y.hi } = .ok s' () →
        ∃ u, exec (.spqDone c .ok) s = .next u ∧ (u.core c).spq = r ∧ back s' u y.thread y.op [y.tag] ∧ u.mem = s'.mem ∧ u.tsram = s'.tsram) ∧
      (∀ (y : Xfer) (r : List Xfer) (it : Item) (s' : State) (bs : List (List Byte)), (s.core c).lpq = y :: r →
        (s.thread c y.thread).item = some it → (s.core c).canLoad y = true →
        s.pathReads (tileOfCore c) (y.desc.ranges y.bf) = .ok s' bs →
        (y.sumsOn = true → s'.injArmed (.core c) E.CORE_SCRATCH_UE = false ∧ s'.injArmed (.core c) E.CORE_SCRATCH_CE = false) →
        (s'.core c).scratchBad y.sums y.sumBytes = false →
        let placed := (s'.core c).place y (y.convert bs).1 (y.convert bs).2.1
        ∃ u, exec (.lpqDone c .ok) s = .next u ∧ (u.core c).lpq = r ∧ back s' u y.thread y.op [y.tag] ∧
          (u.core c).scratch = (if y.sumsOn then placed.addSums y (y.convert bs).1 else placed).scratch ∧ u.mem = s'.mem))

/-- On a thread that may issue a legal word whose SLOT names ring i of its train: RGET takes the next visible entry into s[vd] as a module address, and 0
once the ring has delivered its last; RREL releases the oldest held entry of the ring; ROUT reserves the next entry against one credit; RPUB publishes
the oldest reserved one once only loads of the thread are outstanding. At most 8 entries are held. ENDITEM, with nothing outstanding and nothing
reserved, idles the thread and counts the item done; held entries are released. Derived from R104, R105, R106, R164, R165, R166, R167, R168, R169,
R790. -/
def Obligations.RingInstructions : Prop :=
  ∀ (c : CoreId) (t : ThreadId) (f : VFields) (s : State) (it : Item), CanGo s c t it →
    let th := s.thread c t.val
    let tile := tileOfCore c
    let slot := fld f.imm.toNat 1 0
    let ring (u : State) (tr : Train) (i : Nat) (r : RingRun) : Prop :=
      (u.cox tile) = (s.cox tile).modTrain tr.uid (fun x => x.modRing i (fun _ => r))
    let addr (r : RingRun) (e : Nat) : W64 := BitVec.ofNat 64 (windowBase (s.logTile tile.val) + r.desc.base + e % r.desc.credits * r.desc.entryBytes)
    (∀ (tr : Train) (i : Nat) (r : RingRun), s.slotRing c it false slot = some (tr, i, r) →
      ((ringForm true).legal f = true → th.held.length + th.resv.length < 8 →
        (r.takenBy it.stage < r.visible →
          ∃ u, exec (.rget c t f) s = .next u ∧
            (u.thread c t.val).sget f.vd.toNat = (if f.vd = 0 then 0 else addr r (r.takenBy it.stage)) ∧
            (u.thread c t.val).held = th.held ++ [⟨i, r.takenBy it.stage⟩] ∧ (u.thread c t.val).pc = th.pc + 8 ∧
            ring u tr i { r with taken := SMap.set (fun _ => 0) r.taken it.stage (r.takenBy it.stage + 1) }) ∧
        (¬ r.takenBy it.stage < r.visible → tr.ended r it.stage = true →
          exec (.rget c t f) s = .next (s.issued s c t (th.sset f.vd.toNat 0) 1))) ∧
      (∀ (e : Nat) (rest : List HeldEntry), (ringForm false).legal f = true → dropFirst i th.held = some (e, rest) →
        ∃ u, exec (.rrel c t f) s = .next u ∧ (u.thread c t.val).held = rest ∧ (u.thread c t.val).pc = th.pc + 8 ∧
          (u.cox tile) = (s.cox tile).modTrain tr.uid (fun x => x.modRing i (fun r => r.release it.stage e)))) ∧
    (∀ (tr : Train) (i : Nat) (r : RingRun), s.slotRing c it true slot = some (tr, i, r) →
      ((ringForm true).legal f = true → th.held.length + th.resv.length < 8 → 0 < r.credits →
        ∃ u, exec (.rout c t f) s = .next u ∧
          (u.thread c t.val).sget f.vd.toNat = (if f.vd = 0 then 0 else addr r r.reserved) ∧
          (u.thread c t.val).resv = th.resv ++ [⟨i, r.reserved⟩] ∧ (u.thread c t.val).pc = th.pc + 8 ∧
          ring u tr i { r with reserved := r.reserved + 1, credits := r.credits - 1 }) ∧
      (∀ (e : Nat) (rest : List HeldEntry), (ringForm false).legal f = true → dropFirst i th.resv = some (e, rest) →
        th.outst.all (fun o => (s.core c).lpq.any (fun y => y.op == o.1)) = true →
        ∃ u, exec (.rpub c t f) s = .next u ∧ (u.thread c t.val).resv = rest ∧ (u.thread c t.val).pc = th.pc + 8 ∧
          (u.cox tile) = (s.cox tile).modTrain tr.uid (fun x => x.modRing i (fun r => r.publish e)))) ∧
    (({} : OpForm).legal f = true → th.outst = [] → th.resv = [] →
      ∃ u, exec (.enditem c t f) s = .next u ∧ u.thread c t.val = Thread.init ∧
        u.cox tile = (th.held.foldl (fun x h => x.modTrain it.train (fun tr => tr.modRing h.ring (fun r => r.release it.stage h.entry)))
          (s.cox tile)).modTrain it.train (fun tr => tr.modStage it.stage (fun g =>
            { g with doneItems := g.doneItems + 1, done := g.done || decide (g.desc.items ≤ g.doneItems + 1) })))

/-- On a powered module: where its tile has lock, a TRAIN command whose descriptor passes R102, on a module that is no spare or with NOSTEP 1, appends to
its tile's trains one that is not launched and that carries the command's step, TRAIN_ID, addresses, USER and the descriptor's stages and rings, and
its ring waits; one whose descriptor is refused leaves the tile's trains as they are, frees the ring and sets DESC_BAD. TRAIN_LAUNCH launches the
first waiting train that has not failed, where fewer than 4 run and the rings fit in 64 contexts, at the fabric time with the seeds in force, and its
ring goes on. Derived from R98, R102, R103, R114, R207, R559, R588. -/
def Obligations.TrainCommands : Prop :=
  ∀ (t : TileId) (s : State), s.pwr.on = true →
    (s.up (.tile t) = true → ∀ (k : Fin 4) (c : RingCmd), s.cmdOf (.cox t k) 0x01 = some c →
      let noStep := recFld c.body 0x10 4 20 20 == 1
      let d := s.checkDesc t (recFld c.body 0 8 63 0) (recFld c.body 0x14 4 15 0)
      (s.isSpare = false ∨ noStep = true) →
      (d.bad = false → ∃ u tr, exec (.trainCommand t k) s = .next u ∧ (u.cox t).trains = (s.cox t).trains ++ [tr] ∧
        tr.uid = (s.cox t).nextUid ∧ (u.cox t).nextUid = (s.cox t).nextUid + 1 ∧ tr.ring = k.val ∧ tr.launched = false ∧ tr.failed = none ∧
        tr.step = BitVec.ofNat 64 (recFld c.body 8 8 63 0) ∧ tr.noStep = noStep ∧ tr.trainId = BitVec.ofNat 16 (recFld c.body 0x10 4 15 0) ∧
        tr.compl = BitVec.ofNat 64 (recFld c.body 0x18 8 63 0) ∧ tr.user = BitVec.ofNat 64 (recFld c.body 0x20 8 63 0) ∧
        tr.stages = d.stages.map StageRun.ofRec ∧ tr.rings = d.rings.map RingRun.ofRec ∧ tr.irq = c.irq ∧
        (u.ring (.cox t k)).cmd = none ∧ (u.ring (.cox t k)).hold = true) ∧
      (d.bad = true → ∃ u, exec (.trainCommand t k) s = .next u ∧ (u.cox t).trains = (s.cox t).trains ∧
        u.rb (.cox t) R.SH_ERR_STICKY E.COX_DESC_BAD = true ∧ (u.ring (.cox t k)).cmd = none)) ∧
    (∀ (tr : Train), (s.cox t).trains.find? (fun tr => !tr.launched && tr.failed.isNone) = some tr →
      ((s.cox t).trains.filter (fun tr => tr.launched)).length < 4 →
      ((s.cox t).trains.filter (fun tr => tr.launched)).foldl (fun n r => n + r.rings.length) 0 + tr.rings.length ≤ 64 →
      ∃ u, exec (.trainLaunch t) s = .next u ∧
        (u.cox t) = (s.cox t).modTrain tr.uid (fun tr =>
          { tr with launched := true, start := s.fabTime, job := s.jobSeed, lockstep := s.lockstep }) ∧
        (u.ring (.cox t (Fin.ofNat 4 tr.ring))).hold = false)

/-- On a powered module, where a stage of a running train is ready: a tensor-core stage takes its first UNITS available cores, empties their instruction
caches and starts; a gather stage takes its first UNITS engines in service; a stage of another engine takes no unit; a tensor-core, gather or Finish
stage without items is complete at once; with no core left the train ends with STATUS 2 and CORE_LOST. Where a thread of a core of a started stage is
idle and enabled, the core takes items, and items are left, ITEM_DISPATCH makes it run the next item from the stage's program with s1 PARAM, s2 the
item and s3 ITEMS, its generators seeded for domain 1 and 2, and the stage's next item is one on. Derived from R91, R108, R110, R113, R116, R119,
R129, R133, R203, R799. -/
def Obligations.StagesAndItems : Prop :=
  ∀ (s : State), s.pwr.on = true →
    (∀ (t : TileId) (k : Fin 4) (stage : Fin 16) (tr : Train) (g : StageRun), (s.cox t).running k.val = some tr →
      tr.stages[stage.val]? = some g → s.stageReady tr g stage.val = true →
      let av := (List.range 16).filter (fun c => s.coreAvail (coreOf t c))
      let gs := (List.range 4).filter (fun e => s.gatherInService (Fin.ofNat 32 (4 * t.val + e)))
      let starts (u : State) (units en : List Nat) : Prop := u.cox t = (s.cox t).modTrain tr.uid (fun tr => tr.modStage stage.val (fun g =>
        { g with started := true, cores := units, threadEn := en, done := g.desc.items == 0 && (g.desc.engine < 2 || g.desc.engine == 4) }))
      (g.desc.engine = 0 → av ≠ [] → ∃ u, exec (.stageStart t k stage) s = .next u ∧
        starts u (av.take g.desc.units) ((av.take g.desc.units).map (fun c => s.rf (.core (coreOf t c)) R.CORE_CORE_CFG 7 0)) ∧
        ∀ c ∈ av.take g.desc.units, (u.core (coreOf t c)).icache = []) ∧
      (g.desc.engine = 0 → av = [] → tr.failed = none → (s.cox t).train tr.uid = some tr →
        ∃ u, exec (.stageStart t k stage) s = .next u ∧ u.rb (.cox t) R.SH_ERR_STICKY E.COX_CORE_LOST = true ∧
          ∃ tr', (u.cox t).train tr.uid = some tr' ∧ tr'.failed = some (2, stage.val)) ∧
      (g.desc.engine = 1 → gs ≠ [] → ∃ u, exec (.stageStart t k stage) s = .next u ∧ starts u (gs.take g.desc.units) []) ∧
      (1 < g.desc.engine → ∃ u, exec (.stageStart t k stage) s = .next u ∧ starts u [] [])) ∧
    (∀ (c : CoreId) (t : ThreadId) (k : Fin 4) (stage : Fin 16) (tr : Train) (g : StageRun) (en : Nat),
      (s.cox (tileOfCore c)).running k.val = some tr → tr.stages[stage.val]? = some g →
      (g.cores.zip g.threadEn).find? (fun x => x.1 == c.val % 16) = some (c.val % 16, en) → g.started = true → g.done = false →
      tr.failed = none → g.nextItem < g.desc.items → (s.thread c t.val).item = none → en.testBit t.val = true →
      s.rb (.core c) R.CORE_CORE_CFG 8 = false → s.ump.due.contains c.val = false → s.enabled (.core c) = true →
      (s.core c).busyWith tr.uid stage.val < min g.desc.threads (popN en 8) →
      ∃ u, exec (.itemDispatch c t k stage) s = .next u ∧
        (u.thread c t.val).item = some ⟨tr.uid, stage.val, g.nextItem⟩ ∧ (u.thread c t.val).pc = g.desc.prog ∧
        (u.thread c t.val).sget 1 = g.desc.param ∧ (u.thread c t.val).sget 2 = BitVec.ofNat 64 g.nextItem ∧
        (u.thread c t.val).sget 3 = BitVec.ofNat 64 g.desc.items ∧ (∀ n, 3 < n → (u.thread c t.val).sget n = 0) ∧
        (u.thread c t.val).vgen = s.itemGens tr stage.val g.nextItem 1 ∧ (u.thread c t.val).sgen = s.itemGens tr stage.val g.nextItem 2 ∧
        (u.thread c t.val).vreg = [] ∧ (u.thread c t.val).mreg = [] ∧ (u.thread c t.val).cq = [] ∧
        u.cox (tileOfCore c) = (s.cox (tileOfCore c)).modTrain tr.uid (fun tr =>
          { tr.modStage stage.val (fun x => { x with nextItem := g.nextItem + 1 }) with coresUsed := tr.coresUsed ||| 2 ^ (c.val % 16) }))

/-- On a powered module: the k-th running train of a tile that has lock, once all its stages are done, leaves the tile's trains; where its record address
is HBM of no fenced stack, the 64 bytes there hold STATUS 0, FAIL_STAGE 0, TRAIN_ID, the cores used, its step, start, the fabric time, its events,
USER and DONE 1, the stall and hold cycles being free. A running train with a limit that has not failed fails with STATUS 3 and TRAIN_TIMEOUT is set.
Where a thread of a tile that has lock waits for a line that can be read, ICACHE_FILL puts it first in the core's cache of 512 lines and the thread
waits no more. Derived from R114, R115, R117, R118, R134, R135. -/
def Obligations.TrainEnds : Prop :=
  ∀ (s : State), s.pwr.on = true →
    (∀ (t : TileId) (k : Fin 4) (tr : Train), s.up (.tile t) = true → (s.cox t).running k.val = some tr → tr.failed = none → tr.stages.all (fun g => g.done) = true →
      ∃ u, exec (.trainComplete t k) s = .next u ∧ (u.cox t).trains = (s.cox t).trains.filter (fun x => x.uid != tr.uid) ∧
        (tr.compl.toNat + 64 ≤ s.hbmTop → (s.stacksAt tr.compl.toNat 64).any s.stackFenced = false → ∃ a b : W32,
          u.hbmRead tr.compl.toNat 64 = (Record.mk 0 0 tr.trainId tr.coresUsed tr.step tr.start s.fabTime tr.events a b tr.user).bytes)) ∧
    (∀ (t : TileId) (k : Fin 4) (tr : Train), (s.cox t).running k.val = some tr → (s.cox t).train tr.uid = some tr → tr.timeoutUs ≠ 0 →
      tr.failed = none → ∃ u tr' n, exec (.trainTimeout t k) s = .next u ∧ u.rb (.cox t) R.SH_ERR_STICKY E.COX_TRAIN_TIMEOUT = true ∧
        (u.cox t).train tr.uid = some tr' ∧ tr'.failed = some (3, n)) ∧
    (∀ (c : CoreId) (t : ThreadId) (bs : List Byte), s.up (.tile (tileOfCore c)) = true → (s.thread c t.val).fillWait = true →
      s.unitRead (lineOf (s.thread c t.val).pc * 64) 64 = .ok bs →
      ∃ u, exec (.icacheFill c t) s = .next u ∧ (u.thread c t.val).fillWait = false ∧
        (u.core c).icache = (lineOf (s.thread c t.val).pc ::
          (s.core c).icache.filter (fun l => decide (l ≠ lineOf (s.thread c t.val).pc))).take 512)

/-- For every ring and TAIL on a powered module: on a disabled ring the doorbell changes neither HEAD nor ANNOUNCED, and on a Cox ring whose page is not
frozen and whose counter is not full it adds 1 to DB_IGNORED; on an enabled ring a d of 0 or of at least 2^31 changes nothing at all; otherwise a
distance from HEAD beyond SIZE leaves HEAD and ANNOUNCED and sets DB_BAD; otherwise ANNOUNCED becomes TAIL and HEAD stays. (A copy ring has no
DB_IGNORED register.) States R582. -/
def Obligations.DoorbellRule : Prop :=
  ∀ (g : RingId) (tail : W32) (s : State), s.pwr.on = true →
    let d := (tail.toNat + 2 ^ 32 - s.announced g) % 2 ^ 32
    ∃ u, exec (.doorbell g tail) s = .next u ∧ u.head g = s.head g ∧
      (s.ringOn g = false → u.announced g = s.announced g ∧
        (g.isCox = true → s.rb g.page R.SH_CTRL 9 = false → s.rd g.page R.COX_DB_IGNORED < 2 ^ 64 - 1 →
          u.rd g.page R.COX_DB_IGNORED = s.rd g.page R.COX_DB_IGNORED + 1)) ∧
      (s.ringOn g = true → d = 0 ∨ 2 ^ 31 ≤ d → u = s) ∧
      (s.ringOn g = true → d ≠ 0 → d < 2 ^ 31 →
        ((tail.toNat + 2 ^ 32 - s.head g) % 2 ^ 32 > s.ringSize g →
          u.announced g = s.announced g ∧ u.rb .hostif R.SH_ERR_STICKY E.HOSTIF_DB_BAD = true) ∧
        ((tail.toNat + 2 ^ 32 - s.head g) % 2 ^ 32 ≤ s.ringSize g → u.announced g = tail.toNat))

/-- On a powered module a write of RING_CFG with ENABLE 1 enables the ring, with LOG2_SIZE kept between 4 and 16, where RING_BASE is a multiple of the
ring's bytes and the ring ends within the host region; elsewhere ENABLE reads 0 and CTL_ACCESS of the ring's page is set. RESUME clears HALTED and
HALT_CAUSE, leaves HEAD and ANNOUNCED, and starts the retries afresh. RESET of a halted or disabled ring sets HEAD and ANNOUNCED to 0 and clears
HALTED and HALT_CAUSE; on a ring that runs it changes neither and sets CTL_ACCESS. Derived from R575, R612, R802. -/
def Obligations.RingControls : Prop :=
  ∀ (g : RingId) (s : State), s.pwr.on = true →
    (∀ v : W32, let n := 64 * 2 ^ (min (max (fld v.toNat 4 0) 4) 16)
      ∃ u, exec (.ringEnable g v) s = .next u ∧ u.head g = s.head g ∧ u.announced g = s.announced g ∧
        (s.ringRd g R.RING_BASE % n = 0 → s.ringRd g R.RING_BASE + n ≤ s.hostEnd → u.ringOn g = true ∧ u.ringSize g = n / 64) ∧
        (¬ (s.ringRd g R.RING_BASE % n = 0 ∧ s.ringRd g R.RING_BASE + n ≤ s.hostEnd) →
          u.ringOn g = false ∧ u.rb g.page R.SH_ERR_STICKY E.CTL_ACCESS = true)) ∧
    (∃ u, exec (.ringResume g) s = .next u ∧ u.ringRd g R.RING_STATUS = 0 ∧ u.head g = s.head g ∧ u.announced g = s.announced g ∧
      (u.ring g).retries = 0 ∧ (u.ring g).first = none ∧ (u.ring g).cmd = (s.ring g).cmd) ∧
    (∃ u, exec (.ringReset g) s = .next u ∧
      (s.halted g = true ∨ s.ringOn g = false → u.head g = 0 ∧ u.announced g = 0 ∧ u.ringRd g R.RING_STATUS = 0) ∧
      (s.halted g = false → s.ringOn g = true → u.head g = s.head g ∧ u.announced g = s.announced g ∧
        u.rb g.page R.SH_ERR_STICKY E.CTL_ACCESS = true))

/-- On a powered module whose ring's island has lock, a ring that may read and has an announced slot reads it at RING_BASE + 64 * (index mod SIZE). With
the expected phase, a well-formed one-slot command becomes the ring's command and HEAD moves one past it; without it the ring reads the slot again
later, HEAD staying; the read does what reading that memory does (its errors corrected and counted). A re-read counts; when the phase still differs
after the last allowed one the ring halts with cause 1 at the same HEAD. A poisoned or error response halts the ring with cause 6. Derived from R579,
R583, R584, R585, R801, R802. -/
def Obligations.SlotReads : Prop :=
  ∀ (g : RingId) (s : State), s.up g.island = true → s.mayRead g = true → (s.ring g).first = none →
    let a := s.ringRd g R.RING_BASE / 64 * 64 + 64 * (s.head g % s.ringSize g)
    let r := s.unitRead a 64
    ((s.ring g).reread = false → s.head g ≠ s.announced g →
      (∀ bs, r = .ok bs → (recFld bs 8 8 63 63 == 1) = s.phaseOf g (s.head g) → fld (recFld bs 8 8 63 0) 15 12 = 0 →
        let c : RingCmd := ⟨BitVec.ofNat 32 (s.head g), fld (recFld bs 8 8 63 0) 7 0, recFld bs 0 8 63 0, (recFld bs 8 8 63 0).testBit 62,
          fld (recFld bs 8 8 63 0) 31 16, bs.drop 16⟩
        s.slotForm g (recFld bs 8 8 63 0) c = .ok →
        ∃ u, exec (.slotRead g) s = .next u ∧ (u.ring g).cmd = some c ∧ u.head g = (s.head g + 1) % 2 ^ 32 ∧ u.announced g = s.announced g) ∧
      (∀ bs, r = .ok bs → (recFld bs 8 8 63 63 == 1) ≠ s.phaseOf g (s.head g) →
        exec (.slotRead g) s = .next ((s.seen a 64).setRing g { s.ring g with reread := true })) ∧
      ((∀ bs, r ≠ .ok bs) → ∃ u, exec (.slotRead g) s = .next u ∧ u.head g = s.head g ∧ u.ringRd g R.RING_STATUS = 6 * 2 ^ 28 + 1)) ∧
    ((s.ring g).reread = true → ∀ bs, r = .ok bs → (recFld bs 8 8 63 63 == 1) ≠ s.phaseOf g (s.head g) →
      ∃ u, exec (.slotReread g) s = .next u ∧ u.head g = s.head g ∧ (u.ring g).cmd = none ∧
        (s.tornRetries g ≤ (s.ring g).retries + 1 → u.ringRd g R.RING_STATUS = 1 * 2 ^ 28 + 1) ∧
        ((s.ring g).retries + 1 < s.tornRetries g → (u.ring g).reread = true ∧ (u.ring g).retries = (s.ring g).retries + 1))

/-- On a powered module whose islands have lock, where a ring's command waits to start: INLINE to HBM of no fenced stack stores its first LEN body bytes
at ARG and nowhere else in memory; WAIT_FLAG begins to wait with the fields of its body; a poll ends the wait where the flag read meets the condition
and goes on waiting where it does not; a wait with a limit that passes halts the ring with cause 4 and sets WAIT_TIMEOUT; DRAIN completes once the
ring's trains and copies have; NOP completes at once. A command with IRQ 1 that completes raises its ring's interrupt while the host is out of reset.
On a powered module, where a copy engine's COPY of MODE 0 (one run of bytes) within HBM waits to start, its source holds no uncorrectable error,
neither lies in a fenced stack, and source and destination do not meet: COPY leaves every destination byte equal to its source byte as it was, every
byte outside the destination as it was, and the copy accepted. COPY_COMPLETE takes the oldest accepted copy off, and where it has a flag address in
HBM of no fenced stack the eight bytes there hold the flag. Derived from R577, R586, R587, R588, R590, R592, R593, R594, R596, R597. -/
def Obligations.RingCommandEffects : Prop :=
  (
    ∀ (g : RingId) (s : State), s.pwr.on = true →
      let irq (b : Bool) (u : State) : Prop :=
        u.irqs = s.irqs ++ (if b ∧ s.rb .hostif R.HOSTIF_HOST_CTL 1 = false then [s.rf .hostif R.HOSTIF_INT_BASE 11 0 + g.num] else [])
      (∀ c, s.up g.island = true → s.cmdOf g 0x02 = some c → c.arg + (c.body.take c.len).length ≤ s.hbmTop → 0 < (c.body.take c.len).length →
        (s.stacksAt c.arg (c.body.take c.len).length).any s.stackFenced = false →
        ∃ u, exec (.inlineBody g) s = .next u ∧ (u.ring g).cmd = none ∧ irq c.irq u ∧
          (∀ i (h : i < (c.body.take c.len).length), Mem.get u.mem (c.arg + i) = (c.body.take c.len)[i]) ∧
          (∀ a, a < c.arg ∨ c.arg + (c.body.take c.len).length ≤ a → Mem.get u.mem a = Mem.get s.mem a) ∧ u.tsram = s.tsram) ∧
      (∀ c, s.cmdOf g 0x03 = some c → ∃ u, exec (.waitFlag g) s = .next u ∧ (u.ring g).cmd = none ∧ u.mem = s.mem ∧
        (u.ring g).wait = some ⟨c.arg, recFld c.body 0 8 63 0, recFld c.body 8 8 63 0, recFld c.body 0x10 4 1 0, recFld c.body 0x14 4 31 0, c.irq⟩) ∧
      (∀ w bs, s.up g.island = true → (s.ring g).wait = some w → s.unitRead w.arg 8 = .ok bs →
        ∃ u, exec (.flagPoll g) s = .next u ∧
          (w.holds (ofLe bs) = true → (u.ring g).wait = none ∧ irq w.irq u) ∧
          (w.holds (ofLe bs) = false → (u.ring g).wait = some w ∧ u.irqs = s.irqs)) ∧
      (∀ w, (s.ring g).wait = some w → w.timeoutUs ≠ 0 → ∃ u, exec (.waitTimeout g) s = .next u ∧ (u.ring g).wait = none ∧
        u.ringRd g R.RING_STATUS = 4 * 2 ^ 28 + 1 ∧ u.head g = s.head g ∧ u.rb .hostif R.SH_ERR_STICKY E.HOSTIF_WAIT_TIMEOUT = true) ∧
      (∀ c, s.cmdOf g 0x04 = some c → s.ringIdle g = true → ∃ u, exec (.drainCommand g) s = .next u ∧ (u.ring g).cmd = none ∧ irq c.irq u) ∧
      (∀ c, s.cmdOf g 0x05 = some c → ∃ u, exec (.nopCommand g) s = .next u ∧ (u.ring g).cmd = none ∧ irq c.irq u)) ∧
  (
    ∀ (e : CopyId) (s : State), s.up .mesh = true →
      (∀ c, s.cmdOf (.copy e) 0x10 = some c →
        let d := CopyDesc.ofBytes c.body
        d.mode = 0 → d.rows = 1 → 0 < d.rowBytes → d.src + d.rowBytes ≤ s.hbmTop → d.dst + d.rowBytes ≤ s.hbmTop →
        (d.src + d.rowBytes ≤ d.dst ∨ d.dst + d.rowBytes ≤ d.src) →
        (∀ a n, d.src ≤ a → a + n ≤ d.src + d.rowBytes → s.hbmBad a n = false) →
        (∀ a n, d.dst ≤ a → a + n ≤ d.dst + d.rowBytes → (s.stacksAt a n).any s.stackFenced = false) →
        ∃ u, exec (.copyData e none) s = .next u ∧
          (∀ i < d.rowBytes, Mem.get u.mem (d.dst + i) = Mem.get s.mem (d.src + i)) ∧
          (∀ a, a < d.dst ∨ d.dst + d.rowBytes ≤ a → Mem.get u.mem a = Mem.get s.mem a) ∧ u.tsram = s.tsram ∧
          (u.ring (.copy e)).copies = (s.ring (.copy e)).copies ++ [⟨c.slot, c.arg, BitVec.ofNat 64 d.flag, c.irq⟩]) ∧
      (∀ j rest, (s.ring (.copy e)).copies = j :: rest →
        ∃ u, exec (.copyComplete e) s = .next u ∧ (u.ring (.copy e)).copies = rest ∧
          (j.arg ≠ 0 → j.arg + 8 ≤ s.hbmTop → (s.stacksAt j.arg 8).any s.stackFenced = false → u.hbmRead j.arg 8 = leBytes 8 j.flag.toNat ∧
            ∀ a, a < j.arg ∨ j.arg + 8 ≤ a → Mem.get u.mem a = Mem.get s.mem a)))

/-- On a powered module whose host is not in reset, HOST_RESET sets IN_RESET, halts each ring that R612 gives the module with cause 3 at its HEAD, drops
the pending interrupts, takes the four root-port links down and leaves memory alone; HOST_RESET_END clears IN_RESET and leaves the rings halted. While
the host is in reset no link comes up; out of it PCIE_LINK_UP of a port whose PHY has lock takes it off the links that are down, and PCIE_LINK_DOWN of
an active port puts it there and sets PCIE_LINK_DOWN. Derived from R599, R604, R605, R607, R787. -/
def Obligations.HostResetRules : Prop :=
  ∀ (s : State), s.pwr.on = true →
    (s.rb .hostif R.HOSTIF_HOST_CTL 1 = false → ∃ u, exec .hostReset s = .next u ∧ u.rb .hostif R.HOSTIF_HOST_CTL 1 = true ∧ u.irqs = [] ∧
      (∀ p : Fin 4, p.val ∈ u.linkDown) ∧ u.mem = s.mem ∧
      ∀ g, u.ringRd g R.RING_STATUS = 3 * 2 ^ 28 + 1 ∧ u.head g = s.head g ∧ u.announced g = s.announced g) ∧
    (∃ u, exec .hostResetEnd s = .next u ∧ u.rb .hostif R.HOSTIF_HOST_CTL 1 = false ∧ u.irqs = s.irqs ∧ u.linkDown = s.linkDown ∧
      ∀ g, u.ringRd g R.RING_STATUS = s.ringRd g R.RING_STATUS) ∧
    (∀ p : Fin 4, (s.rb .hostif R.HOSTIF_HOST_CTL 1 = true → exec (.pcieLinkUp p) s = .next s) ∧
      (s.up (.pcie p) = true → s.rb .hostif R.HOSTIF_HOST_CTL 1 = false → exec (.pcieLinkUp p) s = .next { s with linkDown := s.linkDown.filter (fun x => x != p.val) }) ∧
      (s.linkDown.contains p.val = false → ∃ u, exec (.pcieLinkDown p) s = .next u ∧ p.val ∈ u.linkDown ∧
        u.rb .hostif R.SH_ERR_STICKY E.HOSTIF_PCIE_LINK_DOWN = true))

/-- On a powered module, through a port whose PHY has lock and whose link is up, with the HOSTIF block enabled: a device write within the host region and
no fenced stack stores its bytes there and nothing else, one outside it stores nothing and sets DMA_REFUSED; a device read within the host region of
words without error answers the bytes that memory holds, not Poisoned, one outside it is an Unsupported Request with DMA_REFUSED; with the block
disabled either one is refused with WORK_REFUSED and memory stays. A completion timeout answers the Idryn request with an error and sets PCIE_CTO. A
die-to-die link that retrains is listed and sets D2D_RETRAIN, a first limit passed retrains it again, a second takes it off with D2D_FAIL, and a
retrain done takes it off. Derived from R63, R600, R601, R602, R607, R611, R788. -/
def Obligations.DeviceAndLinkEvents : Prop :=
  ∀ (s : State), s.pwr.on = true →
    (∀ (p : Fin 4) (a : W64), s.up (.pcie p) = true → s.linkDown.contains p.val = false → s.enabled .hostif = false →
      (∀ bs : List Byte, ∃ u, exec (.deviceWrite p a bs) s = .next u ∧ u.mem = s.mem ∧ u.rb .hostif R.SH_ERR_STICKY E.WORK_REFUSED = true) ∧
      (∀ (n : Nat) (d : Option (Addr × List Byte)), ∃ u, exec (.deviceRead p a n d) s = .next u ∧ u.mem = s.mem ∧
        u.lastDevice = (false, [], false) ∧ u.rb .hostif R.SH_ERR_STICKY E.WORK_REFUSED = true)) ∧
    (∀ (p : Fin 4) (a : W64), s.up (.pcie p) = true → s.linkDown.contains p.val = false → s.enabled .hostif = true →
      (∀ bs : List Byte, s.inHost a.toNat bs.length = true → (s.stacksAt a.toNat bs.length).any s.stackFenced = false → ∃ u, exec (.deviceWrite p a bs) s = .next u ∧
        (∀ i (h : i < bs.length), Mem.get u.mem (a.toNat + i) = bs[i]) ∧
        (∀ b, b < a.toNat ∨ a.toNat + bs.length ≤ b → Mem.get u.mem b = Mem.get s.mem b) ∧ u.tsram = s.tsram) ∧
      (∀ bs : List Byte, s.inHost a.toNat bs.length = false → ∃ u, exec (.deviceWrite p a bs) s = .next u ∧ u.mem = s.mem ∧
        u.rb .hostif R.SH_ERR_STICKY E.HOSTIF_DMA_REFUSED = true) ∧
      (∀ n : Nat, s.inHost a.toNat n = true → s.hbmBad a.toNat n = false → ∃ u, exec (.deviceRead p a n none) s = .next u ∧
        u.lastDevice = (true, s.hbmRead a.toNat n, false) ∧ u.mem = s.mem) ∧
      (∀ n : Nat, s.inHost a.toNat n = false → ∃ u, exec (.deviceRead p a n none) s = .next u ∧ u.lastDevice = (false, [], false) ∧
        u.mem = s.mem ∧ u.rb .hostif R.SH_ERR_STICKY E.HOSTIF_DMA_REFUSED = true)) ∧
    (∀ p : Fin 4, ∃ u, exec (.pcieCompletionTimeout p) s = .next u ∧ u.lastResp = ⟨false, 0⟩ ∧
      u.rb .hostif R.SH_ERR_STICKY E.HOSTIF_PCIE_CTO = true) ∧
    (∀ k : Fin 3,
      (∃ u, exec (.d2dRetrain k) s = .next u ∧ (k.val, 0) ∈ u.d2d ∧ u.rb .hostif R.SH_ERR_STICKY E.HOSTIF_D2D_RETRAIN = true) ∧
      (s.d2d.find? (fun x => x.1 == k.val) = some (k.val, 0) → ∃ u, exec (.d2dRetrainTimeout k) s = .next u ∧ (k.val, 1) ∈ u.d2d) ∧
      (∀ n, s.d2d.find? (fun x => x.1 == k.val) = some (k.val, n + 1) → ∃ u, exec (.d2dRetrainTimeout k) s = .next u ∧
        (∀ x ∈ u.d2d, x.1 ≠ k.val) ∧ u.rb .hostif R.SH_ERR_STICKY E.HOSTIF_D2D_FAIL = true) ∧
      exec (.d2dRetrainDone k) s = .next { s with d2d := s.d2d.filter (fun x => x.1 != k.val) })

/-- For every page, value and powered state: with CTRL.EXPERT 1 and BIT at most 27, COUNT, BIT and, with COUNT above 0, ARM take the values written, and
ERR_STICKY is unchanged; otherwise ERR_INJECT keeps its value and CTL_ACCESS of the page is set. States R54. -/
def Obligations.InjectRule : Prop :=
  ∀ (p : Page) (v : W32) (s : State), s.pwr.on = true →
    let open' := s.expert p = true ∧ fld v.toNat 20 16 ≤ 27
    ∃ u, exec (.errInject p v) s = .next u ∧
      (open' → u.rf p R.SH_ERR_INJECT 15 0 = fld v.toNat 15 0 ∧ u.rf p R.SH_ERR_INJECT 20 16 = fld v.toNat 20 16 ∧
        (fld v.toNat 15 0 ≠ 0 → u.rb p R.SH_ERR_INJECT 31 = v.getLsbD 31) ∧ u.rd p R.SH_ERR_STICKY = s.rd p R.SH_ERR_STICKY) ∧
      (¬ open' → u.rd p R.SH_ERR_INJECT = s.rd p R.SH_ERR_INJECT ∧ u.rb p R.SH_ERR_STICKY E.CTL_ACCESS = true)

/-- For every page, bit below 32, syndrome and state: an event recorded while VALID is 0 leaves VALID 1, COUNT 0, BIT the bit and SYNDROME the syndrome;
one recorded while VALID is 1 leaves VALID, BIT and SYNDROME and adds 1 to COUNT up to 0xFFFF; both set the bit in ERR_STICKY. FIRST_ERR_CLEAR on a
powered module leaves FIRST_ERR 0 and every other register of the page as it is. States R53. -/
def Obligations.FirstErrRule : Prop :=
  (∀ (p : Page) (b : Nat) (syn : W32) (addr : W64) (s : State), b < 32 →
    let u := s.raise p b syn addr
    u.rb p R.SH_ERR_STICKY b = true ∧
      (s.rb p R.SH_FIRST_ERR 0 = false → u.rb p R.SH_FIRST_ERR 0 = true ∧ u.rf p R.SH_FIRST_ERR 31 16 = 0 ∧
        u.rf p R.SH_FIRST_ERR 12 8 = b ∧ u.rf p R.SH_FIRST_ERR 63 32 = syn.toNat) ∧
      (s.rb p R.SH_FIRST_ERR 0 = true → u.rb p R.SH_FIRST_ERR 0 = true ∧ u.rf p R.SH_FIRST_ERR 12 8 = s.rf p R.SH_FIRST_ERR 12 8 ∧
        u.rf p R.SH_FIRST_ERR 63 32 = s.rf p R.SH_FIRST_ERR 63 32 ∧
        u.rf p R.SH_FIRST_ERR 31 16 = min (s.rf p R.SH_FIRST_ERR 31 16 + 1) 0xFFFF)) ∧
  (∀ (p : Page) (s : State), s.pwr.on = true → ∃ u, exec (.firstErrClear p) s = .next u ∧ u.rd p R.SH_FIRST_ERR = 0 ∧
    ∀ o, o ≠ R.SH_FIRST_ERR → u.rd p o = s.rd p o)

/-- On a powered module: REGISTER_WRITE of DRAIN_LIMIT or ERR_MASK gives it the value; of ERR_STICKY, clears the bits written 1 and no other; at an
aligned offset without a register, changes no register and completes; of a misaligned offset, completes with an error and sets CTL_ACCESS of the page.
A 32-bit read of a counter's low half returns it and the read of the high half that follows returns the half of the same instant. CNT_CLR zeroes the
counters of the page and leaves its status registers, its other registers and memory. A load of an Idryn core from HBM words without error returns the
bytes, a store to HBM of no fenced stack stores them and nothing else, and where a stack of theirs has lost lock either waits; a load or store of an
unmapped address sets CTL_ACCESS of MOD, the load completing with an error, the store without one and storing nothing. Derived from R37, R38, R39,
R48, R49, R51, R55, R56. -/
def Obligations.RegisterAccesses : Prop :=
  ∀ (s : State), s.pwr.on = true →
    (∀ (p : Page) (v : W64),
      (∀ o ∈ [0x0018#16, 0x0024#16], ∃ u, exec (.registerWrite p o .lo v) s = .next u ∧ u.lastResp = ⟨true, 0⟩ ∧
        u.rd p o.toNat % 2 ^ 32 = v.toNat % 2 ^ 32 ∧ u.mem = s.mem) ∧
      (∃ u, exec (.registerWrite p 0x0020#16 .lo v) s = .next u ∧ u.lastResp = ⟨true, 0⟩ ∧
        ∀ n < 32, u.rb p R.SH_ERR_STICKY n = (s.rb p R.SH_ERR_STICKY n && !v.getLsbD n)) ∧
      (∀ o : BitVec 16, o.toNat % 8 = 0 → TableId.atOff p o.toNat = none → p.rowOf o.toNat = none →
        ∃ u, exec (.registerWrite p o .word v) s = .next u ∧ u.lastResp = ⟨true, 0⟩ ∧ u.regs = s.regs) ∧
      (∀ o : BitVec 16, o.toNat % 8 ≠ 0 → ∃ u, exec (.registerWrite p o .word v) s = .next u ∧ u.lastResp = ⟨false, 0⟩ ∧
        u.rb p R.SH_ERR_STICKY E.CTL_ACCESS = true)) ∧
    (∀ (p : Page) (o : BitVec 16) (r : RegRow), 0x100 ≤ o.toNat → o.toNat < 0x1000 → o.toNat % 8 = 0 → p.rowOf o.toNat = some r →
      r.start o.toNat = o.toNat → ∃ u, exec (.counterLowRead p o) s = .next u ∧ u.lastResp = ⟨true, BitVec.ofNat 64 (s.view p o.toNat % 2 ^ 32)⟩ ∧
        u.regs = s.regs ∧ (u.counterRead p o.toNat .hi).2 = BitVec.ofNat 64 (s.view p o.toNat / 2 ^ 32 % 2 ^ 32)) ∧
    (∀ p : Page, ∃ u, exec (.cntClr p) s = .next u ∧ u.mem = s.mem ∧
      (∀ r ∈ p.rows, ∀ i < r.count, 0x100 ≤ r.off → r.off < 0x1000 →
        u.rd p (r.off + i * r.stride) = if p.isStatusReg r.off then s.rd p (r.off + i * r.stride) else 0) ∧
      (∀ o, o < 0x100 ∨ 0x1000 ≤ o → u.rd p o = s.rd p o)) ∧
    (∀ (a : Access) (ecc : Ecc),
      (a.addr.toNat + a.width.bytes ≤ s.hbmTop → s.stacksUp a.addr.toNat a.width.bytes = false → exec (.hostUncachedAccess ⟨a, ecc⟩) s = .next s) ∧
      (a.addr.toNat + a.width.bytes ≤ s.hbmTop → s.stacksUp a.addr.toNat a.width.bytes = true →
        (a.write = true → (s.stacksAt a.addr.toNat a.width.bytes).any s.stackFenced = false → ∃ u, exec (.hostUncachedAccess ⟨a, ecc⟩) s = .next u ∧ u.lastResp = ⟨true, 0⟩ ∧
          u.hbmRead a.addr.toNat a.width.bytes = leBytes a.width.bytes a.data.toNat ∧
          ∀ b, b < a.addr.toNat ∨ a.addr.toNat + a.width.bytes ≤ b → Mem.get u.mem b = Mem.get s.mem b) ∧
        (a.write = false → s.hbmBad a.addr.toNat a.width.bytes = false →
          ∃ u, exec (.hostUncachedAccess ⟨a, ecc⟩) s = .next u ∧ u.mem = s.mem ∧
            u.lastResp = ⟨true, BitVec.ofNat 64 (ofLe (s.hbmRead a.addr.toNat a.width.bytes))⟩)) ∧
      (s.locate a.addr.toNat = .unmapped → ∃ u, exec (.hostUncachedAccess ⟨a, ecc⟩) s = .next u ∧ u.lastResp = ⟨a.write, 0⟩ ∧ u.mem = s.mem ∧
        u.rb .mod R.SH_ERR_STICKY E.CTL_ACCESS = true))

/-- On a powered module, for every page that R57 does not name: ENABLE of a disabled, unfenced block leaves it enabled with ENABLE_PENDING 0; of a fenced
one, sets CTL_ACCESS and leaves STATUS; of one that shuts down, sets ENABLE_PENDING. DISABLE of an enabled block ends ENABLED and begins DRAINING,
ABANDONING following DRAIN; of one that shuts down, clears ENABLE_PENDING. DRAIN written 1 is read back and leaves STATUS; written 0 in a completing
shutdown it sets ABANDONING. A drain time-out with a limit sets DRAIN_TIMEOUT and ABANDONING. SHUTDOWN_COMPLETE of a shutdown whose work is finished
or abandoned ends DRAINING and ABANDONING, the block then being enabled as ENABLE_PENDING said. EXPERT changes only in a block without ENABLED,
DRAINING and ENABLE_PENDING, else CTL_ACCESS is set. On a page of R57 a DISABLE sets CTL_ACCESS, EXPERT takes the value at once, and a basic write
under EXPERT 0 gives both banks of every table that is not basic its derived words. Derived from R57, R58, R60, R61, R62, R783. -/
def Obligations.BlockStates : Prop :=
  ∀ (p : Page) (s : State), s.pwr.on = true →
    let st (u : State) (n : Nat) : Bool := u.rb p R.SH_STATUS n
    let ctl (u : State) : Prop := u.rb p R.SH_ERR_STICKY E.CTL_ACCESS = true
    (p.always = false →
      (st s 4 = false → st s 1 = false → st s 3 = false → ∃ u, exec (.enableBlock p) s = .next u ∧ st u 3 = true ∧ st u 2 = false ∧
        u.rb p R.SH_CTRL 0 = true) ∧
      (st s 4 = true → ∃ u, exec (.enableBlock p) s = .next u ∧ u.rd p R.SH_STATUS = s.rd p R.SH_STATUS ∧ ctl u) ∧
      (st s 4 = false → st s 1 = true → ∃ u, exec (.enableBlock p) s = .next u ∧ st u 2 = true ∧ st u 1 = true ∧ st u 3 = st s 3) ∧
      (st s 1 = false → st s 3 = true → ∃ u, exec (.disableBlock p) s = .next u ∧ st u 3 = false ∧ st u 1 = true ∧
        (s.rb p R.SH_CTRL 2 = true → st u 5 = st s 5 ∧ u.mem = s.mem) ∧ (s.rb p R.SH_CTRL 2 = false → st u 5 = true)) ∧
      (st s 1 = true → ∃ u, exec (.disableBlock p) s = .next u ∧ st u 2 = false ∧ st u 1 = true ∧ st u 5 = st s 5) ∧
      (∃ u, exec (.drainWrite p true) s = .next u ∧ u.rb p R.SH_CTRL 2 = true ∧ u.rd p R.SH_STATUS = s.rd p R.SH_STATUS) ∧
      (st s 1 = true → ∃ u, exec (.drainWrite p false) s = .next u ∧ st u 5 = true ∧ u.rb p R.SH_CTRL 2 = false) ∧
      (st s 1 = true → st s 5 = false → s.rf p R.SH_DRAIN_LIMIT 31 0 ≠ 0 → ∃ u, exec (.drainTimeout p) s = .next u ∧ st u 5 = true ∧
        u.rb p R.SH_ERR_STICKY E.DRAIN_TIMEOUT = true) ∧
      (st s 1 = true → st s 5 = true ∨ s.accepted p = false → ∃ u, exec (.shutdownComplete p) s = .next u ∧ st u 1 = false ∧ st u 5 = false ∧
        (st s 3 = false → st u 3 = st s 2) ∧ (st s 2 = true → st u 2 = false)) ∧
      (∀ v, s.expert p ≠ v →
        (st s 3 = false → st s 1 = false → st s 2 = false → ∃ u, exec (.expertWrite p v) s = .next u ∧ u.expert p = v) ∧
        ((st s 3 || st s 1 || st s 2) = true → ∃ u, exec (.expertWrite p v) s = .next u ∧ u.expert p = s.expert p ∧ ctl u))) ∧
    (p.always = true →
      (∃ u, exec (.disableBlock p) s = .next u ∧ ctl u ∧ u.enabled p = true) ∧
      (∀ v, ∃ u, exec (.expertWrite p v) s = .next u ∧ u.expert p = v) ∧
      (s.expert p = false → ∃ u, exec (.basicRederive p) s = .next u ∧
        ∀ tb ∈ tablesOf p, tb.basic = false → (u.tbl tb).pending = false ∧ (u.tbl tb).active = (s.tbl tb).active ∧
          ∀ b k, k < tb.words → (u.tbl tb).wordAt tb b k = s.tblDerived tb k))

/-- On a powered module, for a table whose group is open: ACTIVATE leaves the table pending where the shadow bank's CRC-32C is the expected one and its
words are accepted, for a step table before its step opens; refuses it with CRC_FAIL on another CRC, with LATE where the step has opened, and with
TBL_LOAD while HELD; and does nothing while PENDING. ABORT ends a pending activation. A word written with INDEX in range, READ_ACTIVE 0 and neither
PENDING nor HELD stands in the shadow bank at INDEX, every other word as before, and INDEX advances; a low half is held, the high half that follows
completes the word; otherwise the write sets CTL_ACCESS and leaves both banks. A word read answers the word at INDEX of the bank that READ_ACTIVE
names, its reserved bits 0 (R9), and advances INDEX; a low half answers and latches, the high half that follows answers the latched half and advances.
An immediate table that is pending and taken changes its active bank. Derived from R9, R66, R67, R68, R69, R70, R781. -/
def Obligations.TableCommands : Prop :=
  ∀ (tb : TableId) (s : State), s.pwr.on = true → s.tblOpen tb = true →
    let x := s.tbl tb
    let k := x.index.toNat
    let load (u : State) : Prop := u.rb tb.page R.SH_ERR_STICKY E.TBL_LOAD = true
    (x.pending = true → exec (.tblActivate tb) s = .next s) ∧
    (x.pending = false → x.held = true → ∃ u, exec (.tblActivate tb) s = .next u ∧ u.tbl tb = x ∧ load u) ∧
    (x.pending = false → x.held = false →
      (s.shadowCrc tb ≠ x.crcExp.toNat → ∃ u, exec (.tblActivate tb) s = .next u ∧ u.tbl tb = { x with crcFail := true } ∧ load u) ∧
      (s.shadowCrc tb = x.crcExp.toNat → tblAccepts tb ((s.shadowWords tb).map BitVec.toNat) = true →
        (tb.byStep = true → x.step.toNat ≤ s.openStep →
          ∃ u, exec (.tblActivate tb) s = .next u ∧ u.tbl tb = { x with late := true } ∧ load u) ∧
        (tb.byStep = false ∨ s.openStep < x.step.toNat →
          ∃ u, exec (.tblActivate tb) s = .next u ∧ u.tbl tb = { x with pending := true }))) ∧
    (∃ u, exec (.tblAbort tb) s = .next u ∧ u.tbl tb = { x with pending := false }) ∧
    (∀ v : W64,
      (k < tb.words → x.readActive = false → x.pending = false → x.held = false →
        (∃ u, exec (.tblDataWrite tb .word v) s = .next u ∧ (u.tbl tb).index = x.index + 1 ∧ (u.tbl tb).active = x.active ∧
          ∀ b n, (u.tbl tb).wordAt tb b n = if b = !x.active ∧ n = k then v else x.wordAt tb b n) ∧
        (∀ l, x.heldLow = some l → ∃ u, exec (.tblDataWrite tb .hi v) s = .next u ∧ (u.tbl tb).index = x.index + 1 ∧
          (u.tbl tb).heldLow = none ∧
          ∀ b n, (u.tbl tb).wordAt tb b n =
            if b = !x.active ∧ n = k then BitVec.ofNat 64 (v.toNat % 2 ^ 32 * 2 ^ 32 + l.toNat) else x.wordAt tb b n)) ∧
      (∃ u, exec (.tblDataWrite tb .lo v) s = .next u ∧ u.tbl tb = { x with heldLow := some (v.setWidth 32) }) ∧
      ((x.readActive || x.pending || x.held || decide (tb.words ≤ k)) = true →
        ∃ u, exec (.tblDataWrite tb .word v) s = .next u ∧ (u.tbl tb).bank0 = x.bank0 ∧ (u.tbl tb).bank1 = x.bank1 ∧
          (u.tbl tb).index = x.index ∧ u.rb tb.page R.SH_ERR_STICKY E.CTL_ACCESS = true)) ∧
    (k < tb.words → let w := x.wordAt tb (if x.readActive then x.active else !x.active) k &&& tblMask tb k
      (∃ u, exec (.tblDataRead tb .word) s = .next u ∧ u.lastResp = ⟨true, w⟩ ∧ (u.tbl tb).index = x.index + 1) ∧
      (∃ u, exec (.tblDataRead tb .lo) s = .next u ∧ u.lastResp = ⟨true, BitVec.ofNat 64 (w.toNat % 2 ^ 32)⟩ ∧
        (u.tbl tb).index = x.index ∧ (u.tbl tb).latchedHigh = some (BitVec.ofNat 32 (w.toNat / 2 ^ 32)))) ∧
    (∀ h, x.latchedHigh = some h → ∃ u, exec (.tblDataRead tb .hi) s = .next u ∧ u.lastResp = ⟨true, h.setWidth 64⟩ ∧
      (u.tbl tb).index = x.index + 1 ∧ (u.tbl tb).latchedHigh = none) ∧
    (tb.byStep = false → x.pending = true → ∃ u, exec (.immediateActivation tb) s = .next u ∧
      u.tbl tb = { x with active := !x.active, pending := false })

/-- On a powered module: a window access outside the torus sizes sets CTL_ACCESS of MOD, a read answering an error and a write completing. A register
access of any width to another module in the torus goes out at once while fewer than eight are outstanding and none waits, else it waits; an aperture
access goes out at once. An arrived register access whose enable bit is 0 answers an error and counts in REMOTE_REFUSED unless the counter is frozen
or full; one that is enabled answers what the access at that offset answers here. Where the stacks that it reaches have lock, an arrived aperture
access is refused with the aperture disabled, a read within the aperture and below HBM_TOP of words without error answers the bytes, and a write there
to no fenced stack stores them. A response that an outstanding access waits for removes it and answers its requester. Derived from R41, R42, R44, R45. -/
def Obligations.RemoteAccesses : Prop :=
  ∀ (s : State), s.pwr.on = true →
    (∀ a : Access, a.addr.getLsbD 47 = true →
      let n := a.addr.toNat
      let inside := fld n 46 43 < s.nx ∧ fld n 42 39 < s.ny ∧ fld n 38 35 < s.nz ∧ (n.testBit 34 = true → fld n 33 28 = 0)
      let dst := fld n 46 43 + fld n 42 39 * 16 + fld n 38 35 * 256
      (¬ inside → ∃ u, exec (.remoteWindowAccess a) s = .next u ∧ u.lastResp = ⟨a.write, 0⟩ ∧ u.inject = s.inject ∧
        u.rb .mod R.SH_ERR_STICKY E.CTL_ACCESS = true) ∧
      (inside → dst ≠ s.coord → n.testBit 34 = true →
        let body : MsgBody := .regReq a.write a.width (BitVec.ofNat 28 n) a.data
        ∃ u, exec (.remoteWindowAccess a) s = .next u ∧
          (s.remoteBusy < 8 → (∀ r ∈ s.remotes, r.reg = true → r.sent = true) →
            u.inject = s.inject ++ [⟨BitVec.ofNat 12 dst, BitVec.ofNat 12 s.coord, 0, s.nextTag, body⟩] ∧
            u.remotes = s.remotes ++ [⟨s.nextTag, true, dst, body, true⟩]) ∧
          (8 ≤ s.remoteBusy → u.inject = s.inject ∧ u.remotes = s.remotes ++ [⟨s.nextTag, true, dst, body, false⟩])) ∧
      (inside → dst ≠ s.coord → n.testBit 34 = false →
        let body : MsgBody := .aptReq a.write (BitVec.ofNat 34 n) a.width a.data
        ∃ u, exec (.remoteWindowAccess a) s = .next u ∧
          u.inject = s.inject ++ [⟨BitVec.ofNat 12 dst, BitVec.ofNat 12 s.coord, 0, s.nextTag, body⟩] ∧
          u.remotes = s.remotes ++ [⟨s.nextTag, false, dst, body, true⟩])) ∧
    (∀ (m : Msg), m ∈ s.arrived →
      let answers (u : State) (b : MsgBody) : Prop := ∃ x ∈ u.inject, x.dst = m.src ∧ x.tag = m.tag ∧ x.body = b
      (∀ wr width off v, m.body = .regReq wr width off v →
        (s.rb .mod R.MOD_RWIN_CTRL (if wr then 1 else 0) = false → ∃ u, exec (.remoteRegisterAccess m) s = .next u ∧
          answers u (.regResp false 0) ∧ (s.rb .mod R.SH_CTRL 9 = false → s.rd .mod R.MOD_REMOTE_REFUSED < 2 ^ 64 - 1 →
            u.rd .mod R.MOD_REMOTE_REFUSED = s.rd .mod R.MOD_REMOTE_REFUSED + 1)) ∧
        (s.rb .mod R.MOD_RWIN_CTRL (if wr then 1 else 0) = true → ∃ u, exec (.remoteRegisterAccess m) s = .next u ∧
          let r := ((s.taken m).regAccessW off.toNat wr width v).2
          answers u (.regResp r.ok r.data))) ∧
      (∀ wr off width v, m.body = .aptReq wr off width v →
        let a := s.rf .mod R.MOD_RWIN_BASE 40 34 * 2 ^ 34 + off.toNat
        s.memUp a width.bytes = true →
        (s.rb .mod R.MOD_RWIN_CTRL 2 = false → ∃ u, exec (.apertureAccess m none) s = .next u ∧ answers u (.aptResp false 0) ∧ u.mem = s.mem) ∧
        (s.rb .mod R.MOD_RWIN_CTRL 2 = true → s.rf .mod R.MOD_RWIN_BASE 40 34 < 0x48 → a + width.bytes ≤ s.hbmTop →
          (wr = false → s.hbmBad a width.bytes = false → ∃ u, exec (.apertureAccess m none) s = .next u ∧ u.mem = s.mem ∧
            answers u (.aptResp true (BitVec.ofNat 64 (ofLe (s.hbmRead a width.bytes))))) ∧
          (wr = true → (s.stacksAt a width.bytes).any s.stackFenced = false → ∃ u, exec (.apertureAccess m none) s = .next u ∧ answers u (.aptResp true 0) ∧
            u.hbmRead a width.bytes = leBytes width.bytes v.toNat ∧
            ∀ b, b < a ∨ a + width.bytes ≤ b → Mem.get u.mem b = Mem.get s.mem b))) ∧
      (∀ r, s.remotes.find? (fun x => x.tag == m.tag && x.reg == r.reg && x.sent) = some r →
        (∀ ok v, r.reg = true → m.body = .regResp ok v → ∃ u, exec (.remoteRegisterResponse m) s = .next u ∧ u.lastResp = ⟨ok, v⟩ ∧
          u.remotes.length + 1 = s.remotes.length) ∧
        (∀ ok v, r.reg = false → m.body = .aptResp ok v → ∃ u, exec (.apertureResponse m) s = .next u ∧ u.lastResp = ⟨ok, v⟩ ∧
          u.remotes.length + 1 = s.remotes.length)))

/-- On a powered module, for GATHER of an OP 1 command that does not use the directory and EXPORT of an OP 3 command: where the engine may go on with the
stage's last command, which fits one free entry of its output ring, and every ID is null or names a row of this module whose lock is free and whose
home read succeeds, slot i of the entry holds row i as FORM lays it out, a null ID and every slot past the last ID hold zeros, and HBM is unchanged.
Derived from R277, R278, R280, R284, R285, R287. -/
def Obligations.GatherEntries : Prop :=
  ∀ cmd ∈ [(Instr.gather, 1), (Instr.exportRows, 3)],
    ∀ (s : State) (e : GatherId) (k : Fin 4) (stage : Fin 16) (tr : Train) (g : StageRun) (c : GCmd) (d : TDesc) (ring ring' : RingRun) (n : Nat)
      (ids : List Nat) (rows : Nat → List Byte),
      GatherReady s e k stage tr g c d → c.op = cmd.2 →
      (!tr.noStep && !c.homeOnly && c.op == 1 && s.unrotated) = false → g.nextItem + 1 = g.desc.items →
      tr.rings[nth 0xFF g.desc.outRings c.outSlot]? = some ring → c.inEntry d ring.desc.entryBytes = true → ring.reserve = some (n, ring') →
      (s.readIds c 0 c.rpe).1 = some ids → c.nIds ≤ c.rpe →
      (∀ id ∈ ids, id.testBit 63 = false → s.homeRow d id (rows id)) →
      ∃ u, exec (cmd.1 e k stage) s = .next u ∧ u.mem = s.mem ∧
        ∀ i < c.rpe, u.tsramRead (e.val / 4) (ring.entryOff n + i * slotSize d c.form) (slotSize d c.form) =
          match ids[i]? with
          | some id => if id.testBit 63 then List.replicate (slotSize d c.form) 0#8 else slotOfRow d c.form (rows id)
          | none => List.replicate (slotSize d c.form) 0#8

/-- On a powered module, where the engine may go on with an OP 2 command of one row that is not null, its train has a step that is open and not closed,
and the image can be read: an image of a row that another module owns goes out to that owner as a message; one of a row of this module that its stack
accepts is kept there as a KIND 2 record, whose bytes stand in the journal. HBM below HBM_TOP is unchanged. Derived from R305, R306, R354, R366. -/
def Obligations.ReplaceRows : Prop :=
  ∀ (s : State) (e : GatherId) (k : Fin 4) (stage : Fin 16) (tr : Train) (g : StageRun) (c : GCmd) (d : TDesc) (id : Nat) (image : List Byte),
    GatherReady s e k stage tr g c d → c.op = 2 → tr.noStep = false → s.openNow = some tr.step.toNat →
    (s.readIds c 0 c.nIds).1 = some [id] → id.testBit 63 = false → id < d.rows → s.unitRead c.src d.bytes = .ok image →
    let own := (d.owner s.ny id).1 = s.ownY ∧ s.ownZ = 0
    let a := d.addr (d.owner s.ny id).2
    (¬ own → ∃ u, exec (.replace e k stage) s = .next u ∧ u.mem = s.mem ∧
      u.inject = s.inject ++ [⟨BitVec.ofNat 12 (s.ownX + 16 * (d.owner s.ny id).1), BitVec.ofNat 12 s.coord, 0, s.nextTag,
        .replaceReq (BitVec.ofNat 12 c.table) (BitVec.ofNat 64 id) tr.step (Fin.ofNat 8 (s.logTile (e.val / 4))) (gatherTag s.nextTag false false) image⟩]) ∧
    (own → (∃ x, s.acceptReplace tr.step.toNat d c.table id a image s.ownY (s.logTile (e.val / 4)) = .done x) →
      ∃ u, exec (.replace e k stage) s = .next u ∧ u.mem = s.mem ∧ u.inject = s.inject ∧
        ∃ r ∈ (u.catchSt (s.stackOfAddr a)).journal, r.kind = 2 ∧ r.step = tr.step ∧ r.table = c.table ∧ r.row = id ∧ r.addr = a ∧
          (u.catchSt (s.stackOfAddr a)).recBytes r = r.image image)

/-- On a powered module with an arrived message: a gather request that may be served, for rows whose locks are free and whose home reads succeed, is
answered with status 0 and the slot of each row, HBM unchanged; a replacement of the open step that its stack accepts, no older one of its tile
waiting, is answered accepted, one of a step that is no longer open refused. A gather response of one row with status 0 that a live train waits for
writes the row's slot and scale and ends the wait; a status other than 0 sets its bit in the GATHER page. A time-out of an engine with a limit, for a
row of a stage or for a Seat that is not the boundary's last, ends its oldest wait and sets REMOTE_TIMEOUT. Derived from R289, R290, R291, R292, R305,
R306. -/
def Obligations.RemoteRows : Prop :=
  ∀ (s : State), s.pwr.on = true →
    (∀ m ∈ s.arrived,
      (∀ table form e tag step ids d (rows : W64 → List Byte), m.body = .gatherReq table form e tag step ids → s.mayServe step tag = true →
        s.servingDesc table.toNat step tag = some d → (s.servingEngine (s.requestStack (some d) ids)).isSome = true →
        (∀ id ∈ ids, s.homeRow d id.toNat (rows id)) →
        ∃ u, exec (.remoteGatherRequest m) s = .next u ∧ u.mem = s.mem ∧
          u.answers m (.gatherResp tag (ids.map (fun id =>
            (0#8, slotOfRow d form.toNat (rows id) ++ if form.toNat = 2 then ((rows id).drop 14).take 2 else []))))) ∧
      (∀ table row step tile tag image, m.body = .replaceReq table row step tile tag image → ∀ d, s.tdesc table.toNat = some d →
        s.opened step.toNat = true → olderImage m tile s.arrived = false →
        (s.openNow = some step.toNat →
          (∃ x, s.acceptReplace step.toNat d table.toNat row.toNat (d.addr (d.owner s.ny row.toNat).2) image (fld m.src.toNat 7 4) tile.val = .done x) →
          ∃ u, exec (.remoteGatherRequest m) s = .next u ∧ u.mem = s.mem ∧ u.answers m (.replaceResp tag true)) ∧
        (s.openNow ≠ some step.toNat → ∃ u, exec (.remoteGatherRequest m) s = .next u ∧ u.mem = s.mem ∧ u.answers m (.replaceResp tag false))) ∧
      (∀ tag st bs rd tr row slot scale, m.body = .gatherResp tag [(st, bs)] → s.remoteReads.find? (fun r => r.tag == tag && !r.replace) = some rd →
        rd.seat = none → rd.rows = [(row, slot, scale)] → rd.engine < 32 → (s.cox (tileOf (rd.engine / 4))).train rd.train = some tr → tr.failed = none →
        (st = 0#8 → bs.length = rd.slotBytes + (if rd.form = 2 then 2 else 0) → (rd.form = 2 → slot + rd.slotBytes ≤ scale ∨ scale + 2 ≤ slot) →
          ∃ u, exec (.remoteGatherResponse m) s = .next u ∧ u.remoteReads = s.remoteReads.erase rd ∧
            u.tsramRead (rd.engine / 4) slot rd.slotBytes = bs.take rd.slotBytes ∧
            (rd.form = 2 → u.tsramRead (rd.engine / 4) scale 2 = bs.drop rd.slotBytes)) ∧
        (st ≠ 0#8 → ∃ u, exec (.remoteGatherResponse m) s = .next u ∧ u.sticky (.gather (Fin.ofNat 32 rd.engine)) (statusBit st)))) ∧
    (∀ (g : GatherId) rd, s.rf (.gather g) R.GATHER_GATHER_CFG 15 0 ≠ 0 → s.remoteReads.find? (fun r => r.engine == g.val && !r.replace) = some rd →
      (∀ x b, rd.seat = some x → s.hrd.boundary = some b → b.refresh.erase x ≠ []) →
      ∃ u, exec (.remoteTimeout g) s = .next u ∧ u.sticky (.gather g) E.GATHER_REMOTE_TIMEOUT ∧ ∀ r ∈ u.remoteReads, r ∈ s.remoteReads.erase rd)

/-- On a powered module: SEAT_REFRESH of a slot that is due, waits for no answer and is not the boundary's last, for a row of this module whose lock is
free and whose home read succeeds, writes header and weights and then zeros into the slot, leaves an entry that was Seating Seated and takes the slot
off the boundary's list; for a row of another module it asks that owner, the boundary as before. SLIDE_CMD under EXPERT 1 with the HRD enabled and
room in its queue appends the request of SLIDE_KEY; with the queue full sets SLIDE_CMD_OVF; under EXPERT 0 sets CTL_ACCESS; the queue then stays as it
is. FLIP_ARM appends the flip of FLIP_TABLE at FLIP_STEP where the other image is acceptable, the step is still ahead and fewer than 64 flips wait;
sets FLIP_LATE where it is not ahead, FLIP_FULL where 64 wait. Derived from R299, R302, R309, R310, R316. -/
def Obligations.HotRows : Prop :=
  ∀ (s : State), s.pwr.on = true →
    (∀ (t : TileId) k b w d row,
      let x := (t.val, dirOff (rowKey (s.dirAt t.val w).table (s.dirAt t.val w).row) ((w - 0x7A000000) / 16 % 8))
      let e := s.dirAt t.val w
      let base := (s.pool t.val).1 + e.slot * (s.pool t.val).2.1
      w = x.2 → s.hrd.boundary = some b → (s.toRefresh t.val b)[k]? = some x →
      s.tdesc e.table = some d →
      (b.refresh.erase x ≠ [] → s.homeRow d e.row row → 16 + d.w ≤ (s.pool t.val).2.1 → base + (s.pool t.val).2.1 ≤ 0x7A000000 → 16 + d.w ≤ row.length →
        ∃ u, exec (.seatRefresh t k) s = .next u ∧ u.mem = s.mem ∧ u.hrd.boundary = some { b with refresh := b.refresh.erase x } ∧
          u.tsramRead t.val base (s.pool t.val).2.1 = row.take (16 + d.w) ++ List.replicate ((s.pool t.val).2.1 - (16 + d.w)) 0#8 ∧
          (e.state = 2 → (u.dirAt t.val w).state = 3)) ∧
      (¬ ((d.owner s.ny e.row).1 = s.ownY ∧ s.ownZ = 0) → ∃ u m g, exec (.seatRefresh t k) s = .next u ∧ u.mem = s.mem ∧ u.hrd = s.hrd ∧
        u.inject = s.inject ++ [m] ∧ m.dst = BitVec.ofNat 12 (s.ownX + 16 * (d.owner s.ny e.row).1) ∧
        m.body = .gatherReq (BitVec.ofNat 12 e.table) 0 g (gatherTag s.nextTag false true) (BitVec.ofNat 64 (b.step + 1)) [BitVec.ofNat 64 e.row])) ∧
    (∀ v : W32,
      (s.expert .hrd = true → s.enabled .hrd = true → s.hrd.slides.length < 1024 → ∃ u, exec (.slideCmd v) s = .next u ∧
        u.hrd.slides = s.hrd.slides ++ [⟨s.rf .hrd R.HRD_SLIDE_KEY 51 40, s.rf .hrd R.HRD_SLIDE_KEY 39 0, fld v.toNat 15 8, fld v.toNat 1 0⟩]) ∧
      (s.expert .hrd = true → s.enabled .hrd = true → 1024 ≤ s.hrd.slides.length → ∃ u, exec (.slideCmd v) s = .next u ∧ u.hrd = s.hrd ∧
        u.sticky .hrd E.HRD_SLIDE_CMD_OVF) ∧
      (s.expert .hrd = false → ∃ u, exec (.slideCmd v) s = .next u ∧ u.hrd = s.hrd ∧ u.sticky .hrd E.CTL_ACCESS)) ∧
    (s.expert .hrd = true → s.enabled .hrd = true →
      let t := s.rf .hrd R.HRD_FLIP_TABLE 11 0
      let n := s.rd .hrd R.HRD_FLIP_STEP
      let waiting := (s.hrd.flips.filter (fun f => !f.taken)).length
      s.readImage t (!s.imgSel t) ≠ .bad →
        (s.flipLate n = true → ∃ u, exec .flipArm s = .next u ∧ u.hrd = s.hrd ∧ u.sticky .hrd E.HRD_FLIP_LATE) ∧
        (s.flipLate n = false → 64 ≤ waiting → ∃ u, exec .flipArm s = .next u ∧ u.hrd = s.hrd ∧ u.sticky .hrd E.HRD_FLIP_FULL) ∧
        (s.flipLate n = false → waiting < 64 → ∃ u, exec .flipArm s = .next u ∧ u.hrd.flips = s.hrd.flips ++ [⟨t, BitVec.ofNat 64 n, false⟩]))

/-- On a powered module, for a stack's Catch unit, while no boundary waits for replacements: a request of the open step for a row not yet seen, under a
valid rule that fits the row, becomes a transaction that asks for its lock, one of another step sets STEP_LATE. A lock grant lets the first request
whose row no one holds, where all before it are granted and the table has room, hold the lock; a transaction, while fewer than MAX_TXN are in flight,
then reads. In a base die whose PLL has lock: a row read without fault keeps the old row, forms the new one and, with room in the journal, issues its
pre-image record, HBM below HBM_TOP unchanged; a torn row sets ROW_TORN and is marked poisoned. Journal room lets a waiting transaction issue its
record. The record's acknowledgement writes the new row, on stacks without a fence, and nothing else. The write's acknowledgement ends the
transaction, adds the row's change to RD and counts the update; a failed write puts the old row back and sets CATCH_TEAR; one whose old row cannot be
put back sets RESTORE_FAIL too. Derived from R322, R323, R342, R343, R344, R345, R348, R350, R352, R354, R362, R641. -/
def Obligations.CatchUpdates : Prop :=
  ∀ (st : StackId) (s : State), s.pwr.on = true → s.quiet →
    let x := s.catchSt st
    let fenced (a n : Nat) : Bool := (s.stacksAt a n).any s.stackFenced
    let fits (n : Nat) : Prop := (x.place (s.journalSize st) n).isSome = true
    let inFlight := (x.txns.filter (fun t => decide (t.phase ≠ .lock))).length
    (∀ v r, x.inbox = v :: r → s.enabled (.base st) = true →
      (s.openNow = some v.step.toNat → x.seen.contains (v.table, v.row) = false → ruleOk (s.ruleWord st v.d.rule) = true →
        (Rule.ofWords (s.ruleWord st v.d.rule)).stateBytes v.d.elems ≤ v.d.stateBytes →
        ∃ u, exec (.catchUpdateRequest st) s = .next u ∧ (u.catchSt st).inbox = r ∧
          (u.catchSt st).txns = x.txns ++ [{ v with id := x.nextTxn, phase := .lock }] ∧
          (u.catchSt st).locks = x.locks ++ [{ addr := v.addr, who := .txn x.nextTxn, granted := false }]) ∧
      (s.openNow ≠ some v.step.toNat → ∃ u, exec (.catchUpdateRequest st) s = .next u ∧ (u.catchSt st).inbox = r ∧ (u.catchSt st).txns = x.txns ∧
        u.sticky (.base st) E.BASE_STEP_LATE)) ∧
    (∀ pre l post, s.locks st = pre ++ l :: post → (∀ m ∈ pre, m.granted = true) → l.granted = false → (∀ m ∈ pre ++ post, m.granted = true → m.addr ≠ l.addr) →
      lockRoom (s.locks st) l.addr = true → (l.who.writer = true → inFlight < s.maxTxn st) →
      ∃ u, exec (.rowLockGrant st) s = .next u ∧ u.mem = s.mem ∧ { l with granted := true } ∈ (u.catchSt st).locks ∧
        ∀ t ∈ x.txns, l.who = .txn t.id → t.phase = .lock → { t with phase := .read } ∈ (u.catchSt st).txns) ∧
    (s.up (.base st) = true →
      (∀ t, x.firstIn .read = some t → s.hbmBad t.addr t.d.bytes = false →
        let old := s.hbmRead t.addr t.d.bytes
        (rowSeq old = rowTseq old → rowPoison old = false → rowCheck old = rowCrc old → fits (32 + t.d.bytes) →
          let t' := { t with old := old, new := (s.txnRow st t old).1 }
          ∃ u, exec (.catchRowRead st) s = .next u ∧ u.mem = s.mem ∧ { t' with phase := .record } ∈ (u.catchSt st).txns ∧
            ∃ r ∈ (u.catchSt st).journal, r.kind = 1 ∧ r.step = t.step ∧ r.addr = t.addr ∧ (u.catchSt st).recBytes r = r.image old) ∧
        (rowSeq old ≠ rowTseq old → 16 ≤ t.d.bytes → ∃ u, exec (.catchRowRead st) s = .next u ∧ u.sticky (.base st) E.BASE_ROW_TORN ∧
          rowPoison (u.hbmRead t.addr t.d.bytes) = true)) ∧
      (∀ t, x.firstIn .room = some t → fits (32 + t.d.bytes) →
        ∃ u, exec (.journalRoom st) s = .next u ∧ u.mem = s.mem ∧ { t with phase := .record } ∈ (u.catchSt st).txns) ∧
      (∀ t, x.oldestRecord = some t → fenced t.addr t.new.length = false →
        ∃ u, exec (.journalRecordAck st) s = .next u ∧ { t with phase := .write } ∈ (u.catchSt st).txns ∧
          u.hbmRead t.addr t.new.length = t.new ∧ ∀ a, a < t.addr ∨ t.addr + t.new.length ≤ a → Mem.get u.mem a = Mem.get s.mem a) ∧
      (∀ t, x.firstIn .write = some t → let rest := x.txns.filter (fun v => v.id != t.id)
        (∃ u, exec (.catchWriteAck st .acked) s = .next u ∧ u.mem = s.mem ∧ (u.catchSt st).txns = rest ∧
          (u.catchSt st).rd = x.rd + rowTerm t.table t.row t.new - rowTerm t.table t.row t.old ∧
          (t.replace = false → s.counts (.base st) R.BASE_CATCH_UPDATES → u.rd (.base st) R.BASE_CATCH_UPDATES = s.rd (.base st) R.BASE_CATCH_UPDATES + 1)) ∧
        (fenced t.addr t.old.length = false → ∃ u, exec (.catchWriteAck st .failed) s = .next u ∧ u.hbmRead t.addr t.old.length = t.old ∧
          (u.catchSt st).txns = rest ∧ u.sticky (.base st) E.BASE_CATCH_TEAR) ∧
        (∃ u, exec (.catchWriteAck st .restoreFailed) s = .next u ∧ (u.catchSt st).txns = rest ∧ u.sticky (.base st) E.BASE_CATCH_TEAR ∧
          u.sticky (.base st) E.BASE_RESTORE_FAIL)))

/-- On a powered module whose stack has lock, for n bytes of HBM below HBM_TOP: HBM_WRITE on no fenced stack stores them and changes no other byte;
HBM_READ that meets no poison returns the bytes that memory holds and leaves memory; one whose first word then has two or more symbols in error
returns none and sets ECC_UE. A naturally aligned ATOMIC at an enabled stack on words without error answers the old value and stores the new one of
its operation and type, nothing else; one on an odd address or of an operation that its type has not sets ATOMIC_BAD and stores nothing. DRAM_REFRESH
alone changes nothing; with a refresh-management command for a bank that was activated it counts one. SCRUB with scrubbing on moves to the next word
and counts it, HBM below HBM_TOP unchanged. Derived from R367, R368, R369, R459, R460, R472, R484, R485, R487, R693. -/
def Obligations.StackAccesses : Prop :=
  ∀ (s : State), s.pwr.on = true →
    (∀ (a : Addr) (bs : List Byte) (parity : Bool), bs ≠ [] → a.toNat + bs.length ≤ s.hbmTop → s.up (.base (s.stackOfAddr a.toNat)) = true →
      (s.stacksAt a.toNat bs.length).any s.stackFenced = false →
      ∃ u, exec (.hbmWrite a ⟨bs, parity⟩ none) s = .next u ∧ (∀ i (h : i < bs.length), Mem.get u.mem (a.toNat + i) = bs[i]) ∧
        ∀ b, b < a.toNat ∨ a.toNat + bs.length ≤ b → Mem.get u.mem b = Mem.get s.mem b) ∧
    (∀ (a : Addr) (n : Nat), 0 < n → a.toNat + n ≤ s.hbmTop → s.up (.base (s.stackOfAddr a.toNat)) = true →
      (∀ parity, s.hbmBad a.toNat n = false →
        ∃ u, exec (.hbmRead a n ⟨0, parity⟩ none) s = .next u ∧ u.lastRead = some (s.hbmRead a.toNat n) ∧ u.mem = s.mem) ∧
      (∀ bad, a.toNat % 32 = 0 → s.frameFenced a.toNat = false → s.injArmed (.base (s.stackOfAddr a.toNat)) E.BASE_ECC_UE = false →
        2 ≤ symbolErrs (s.errOf (a.toNat / 32) ||| bad) →
        ∃ u, exec (.hbmRead a n ⟨bad, false⟩ none) s = .next u ∧ u.lastRead = none ∧ u.mem = s.mem ∧
          u.sticky (.base (s.stackOfAddr a.toNat)) E.BASE_ECC_UE)) ∧
    (∀ (a : Addr) (op : AtomOp) (ty : AtomTy) (x cmp : W64), let n := atomBytes ty
      let st := s.stackOfAddr a.toNat
      a.toNat + n ≤ s.hbmTop → s.up (.base st) = true →
      (a.toNat % n = 0 → s.enabled (.base st) = true → s.hbmBad a.toNat n = false →
        ∀ v ev, atomicNew op ty (ofLe (s.hbmRead a.toNat n)) (x.toNat % 2 ^ (8 * n)) cmp.toNat = some (v, ev) →
          ∃ u, exec (.atomic a op ty x cmp none) s = .next u ∧ u.lastResp = ⟨true, BitVec.ofNat 64 (ofLe (s.hbmRead a.toNat n))⟩ ∧
            u.hbmRead a.toNat n = leBytes n v ∧ ∀ b, b < a.toNat ∨ a.toNat + n ≤ b → Mem.get u.mem b = Mem.get s.mem b) ∧
      (a.toNat % n ≠ 0 ∨ atomicNew op ty 0 0 0 = none → ∃ u, exec (.atomic a op ty x cmp none) s = .next u ∧ u.lastResp.ok = false ∧ u.mem = s.mem ∧
        u.sticky (.base st) E.BASE_ATOMIC_BAD)) ∧
    (∀ old x cmp : Nat, (atomicNew .add .i32 old x cmp).map Prod.fst = some ((old + x) % 2 ^ 32) ∧
      (atomicNew .swap .b64 old x cmp).map Prod.fst = some (x % 2 ^ 64) ∧
      (atomicNew .cas .b32 old x cmp).map Prod.fst = some (if old = cmp % 2 ^ 32 then x % 2 ^ 32 else old)) ∧
    (∀ st : StackId, exec (.dramRefresh ⟨st, none, 0⟩) s = .next s ∧
      ∀ (b : Fin 1536) onDie, s.up (.base st) = true → SMap.get (fun _ => 0) (s.catchSt st).acts b.val ≠ 0 → s.counts (.base st) R.BASE_RFM_CMDS →
        ∃ u, exec (.dramRefresh ⟨st, some b, onDie⟩) s = .next u ∧ u.mem = s.mem ∧ u.rd (.base st) R.BASE_RFM_CMDS = s.rd (.base st) R.BASE_RFM_CMDS + 1) ∧
    (∀ (st : StackId) bad, let w := (s.catchSt st).scrub
      s.up (.base st) = true → s.rf (.base st) R.BASE_ECC_CFG 7 0 ≠ 0 →
      ∃ u, exec (.scrub st bad) s = .next u ∧ u.mem = s.mem ∧ (u.catchSt st).scrub = (w + 1) % stackWords ∧
        (s.counts (.base st) R.BASE_SCRUB_WORDS → u.rd (.base st) R.BASE_SCRUB_WORDS = s.rd (.base st) R.BASE_SCRUB_WORDS + 1))

/-- On a module whose tile has lock: where a Finish engine may take a notice, the layer's rule gives a result whatever value the spec leaves open in it,
and the journal has room, FINISH_UPDATE keeps the old and the new master and state of the update in progress and writes nothing in HBM outside the
journal's place of its record; FINISH_UPDATE_WRITTEN of such an update, its master and state apart in HBM on no fenced stack, stores both, changes no
other byte of HBM, adds the layer's change to DF and leaves the engine without an update. REFRESH_COPIES of an enabled block begins a rewrite, of a
disabled one sets WORK_REFUSED; its completion ends the rewrite, the copies of a tile's one layer then standing as its master gives them. Derived from
R385, R387, R388, R399, R401, R402, R415, R642. -/
def Obligations.FinishUpdates : Prop :=
  ∀ (t : TileId) (s : State),
    (∀ (k : Fin 4) (stage : Fin 16) tr g ring ring' e d x, FinishReady s t k stage tr g ring ring' e d x → (∀ v, (d.update { x with free := v }).ok = true) →
      let len := 32 + alignUp (x.master ++ x.state).length 32
      let f := s.fin t
      f.pos + len ≤ f.size → f.used + len ≤ f.size →
      ∃ u j v, exec (.finishUpdate t k stage) s = .next u ∧ (u.fin t).job = some j ∧ j.recorded = true ∧ j.oldMaster = x.master ∧ j.oldState = x.state ∧
        j.newMaster = (d.update { x with free := v }).master ∧ j.newState = (d.update { x with free := v }).state ∧ u.tsram = s.tsram ∧
        ∀ a, a < f.base + f.pos ∨ f.base + f.pos + len ≤ a → Mem.get u.mem a = Mem.get s.mem a) ∧
    (s.up (.tile t) = true →
      (∀ j, (s.fin t).job = some j → j.recorded = true →
        let d := LDesc.ofBytes j.desc
        d.state + j.newState.length ≤ d.master ∨ d.master + j.newMaster.length ≤ d.state →
        (s.stacksAt d.state j.newState.length).any s.stackFenced = false → (s.stacksAt d.master j.newMaster.length).any s.stackFenced = false →
        ∃ u, exec (.finishUpdateWritten t) s = .next u ∧ (u.fin t).job = none ∧
          (u.fin t).df = (s.fin t).df + layerTerm d.layerId (j.newMaster ++ j.newState) - layerTerm d.layerId (j.oldMaster ++ j.oldState) ∧
          u.hbmRead d.master j.newMaster.length = j.newMaster ∧ u.hbmRead d.state j.newState.length = j.newState ∧
          ∀ a, (a < d.state ∨ d.state + j.newState.length ≤ a) → (a < d.master ∨ d.master + j.newMaster.length ≤ a) →
            Mem.get u.mem a = Mem.get s.mem a) ∧
      ((s.fin t).refreshing = true → ∃ u, exec (.refreshCopiesDone t) s = .next u ∧ u.mem = s.mem ∧ (u.fin t).refreshing = false ∧
        u.rb (.fin t) R.FIN_FIN_CTL 0 = false ∧
        ∀ n d m, s.layersOf t = [(n, d)] → s.unitRead d.master d.masterLen = .ok m → u.tsram = (s.writeCopies d m).1.tsram)) ∧
    (s.pwr.on = true →
      (s.enabled (.fin t) = true → ∃ u, exec (.refreshCopies t) s = .next u ∧ (u.fin t).refreshing = true ∧ u.rb (.fin t) R.FIN_FIN_CTL 0 = true) ∧
      (s.enabled (.fin t) = false → ∃ u, exec (.refreshCopies t) s = .next u ∧ u.fins = s.fins ∧ u.sticky (.fin t) E.WORK_REFUSED))

/-- Where a send stage may serve its next entry: a KIND 1 entry that has a ring entry to take, before the step's records are merged, with legal records of
keys and ORDs not met before, adds them to the step's contribution records; a KIND 2 entry with a readable partial, consistent with what its layer
holds and not met before, adds it to the layer; a KIND 3 entry with a readable list, consistent with its group, adds a list to it. On a module whose
mesh has lock, with a step open in the chain unit, its gathers done and LAST sent by every tile that must, LOCAL_MERGE merges the records and counts
one key per sum. HBM below HBM_TOP is unchanged by the sends. Derived from R421, R422, R424, R427, R438, R446. -/
def Obligations.ChainSends : Prop :=
  ∀ (s : State) (t : TileId) (k : Fin 4) (stage : Fin 16) (tr : Train) (g : StageRun) (e : SendEnt),
    (ChainReady s 2 t k stage tr g → s.sends g e →
      (e.kind = 1 → s.chain.merged = false → ∀ (r r' : RingRun) (i : Nat) (rs : List (CRec × List Byte)), tr.rings[nth 0xFF g.desc.inRings e.inSlot]? = some r →
        e.count = 0 ∨ (g.carry.map (fun c => c.pos)).getD 0 < e.count → r.take stage.val = some (i, r') →
        s.tsramBad t.val (r.entryOff i) r.desc.entryBytes = false →
        s.parseRecs e.bf16 (r.desc.entryBytes / 16) (s.tsramView t.val (r.entryOff i) r.desc.entryBytes) = some rs →
        (rs.map (fun x => (x.1.key, x.1.ord))).Nodup → (∀ x ∈ rs, ∀ y ∈ s.chain.recs, (y.key, y.ord) ≠ (x.1.key, x.1.ord)) →
        ∃ u, exec (.chainSendSparse t k stage) s = .next u ∧ u.chain.recs = s.chain.recs ++ rs.map (fun x => x.1) ∧ u.mem = s.mem) ∧
      (e.kind = 2 → let x := s.chain.block false e.no
        let part := e.count / 65536
        let nparts := e.count % 65536
        part < nparts → 0 < e.aux → e.aux ≤ 2 ^ 28 → (x.parts = [] → (s.chain.blocks.filter (fun y => !y.topk && !y.parts.isEmpty)).length < 1024) →
        (x.parts ≠ [] → x.nparts = nparts ∧ x.size = e.aux) → (∀ p ∈ x.parts, p.1 ≠ part) → ∀ b, s.unitRead e.addr (4 * e.aux) = .ok b →
        ∃ u, exec (.chainSendDense t k stage) s = .next u ∧ (part, b) ∈ (u.chain.block false e.no).parts ∧ u.mem = s.mem) ∧
      (e.kind = 3 → let x := s.chain.block true e.no
        0 < e.k → e.k ≤ 64 → e.count = 0 → x.own = none → x.scopeBad e.scope = false → (x.parts ≠ [] → x.size = e.k ∧ x.scope = e.scope) → ∀ b, s.unitRead e.addr 512 = .ok b →
        ∃ u, exec (.chainSendTopk t k stage) s = .next u ∧ (u.chain.block true e.no).parts.length = x.parts.length + 1 ∧ u.mem = s.mem)) ∧
    (∀ n, s.up .mesh = true → s.chain.step = some n → s.openNow = some n → s.chainStatus = none → s.gathersDone n = true → s.chain.merged = false →
      (∀ t ∈ s.chain.need, t ∈ s.chain.last) →
      ∃ u, exec .localMerge s = .next u ∧ u.chain.merged = true ∧
        (s.rb .router R.SH_CTRL 9 = false → u.rd .router R.ROUTER_CHAIN_KEYS =
          min (s.rd .router R.ROUTER_CHAIN_KEYS + (localSums (s.chain.recs.foldl (fun l r => insertCRec r l) []) []).length) (2 ^ 64 - 1)))

/-- Where a receive stage with one entry, whose destination lies in HBM on no fenced stack, may serve it and the chain it names has finished: a KIND 2
entry of the layer's size, its total not empty, with a free entry in its notice ring writes the layer's total at DEST and the notice, with STATUS 0,
in the ring; a KIND 3 entry writes the 64 best entries of the group's list at DEST. Derived from R386, R440, R441, R446. -/
def Obligations.ChainReceives : Prop :=
  ∀ (s : State) (t : TileId) (k : Fin 4) (stage : Fin 16) (tr : Train) (g : StageRun) (i : Nat) (b : List Byte),
    ChainReady s 3 t k stage tr g → s.recvEntries g = some [(i, b)] → s.recvOk t b = true →
    let no := recFld b 0 4 11 0
    let dest := recFld b 8 8 63 0
    (recFld b 0 4 31 28 = 2 → (false, no) ∈ s.chain.finished →
      let v := (s.chain.block false no).fin.flatten
      (s.chain.block false no).size = recFld b 0x10 8 63 0 → 0 < v.length → dest + v.length ≤ s.hbmTop →
      (s.stacksAt dest v.length).any s.stackFenced = false → ∀ r r' n, tr.rings[nth 0xFF g.desc.outRings 0]? = some r → r.reserve = some (n, r') →
      ∃ u, exec (.chainReceiveDense t k stage) s = .next u ∧ u.hbmRead dest v.length = v ∧
        u.tsramRead t.val (r.entryOff n) 64 = noticeBytes tr.step.toNat no 0 dest) ∧
    (recFld b 0 4 31 28 = 3 → (true, no) ∈ s.chain.finished →
      let v := topBest 64 (topList (s.chain.block true no).fin.flatten)
      dest + v.length ≤ s.hbmTop → (s.stacksAt dest v.length).any s.stackFenced = false →
      ∃ u, exec (.chainReceiveTopk t k stage) s = .next u ∧ u.hbmRead dest v.length = v ∧ u.tsram = s.tsram)

/-- An intact packet of the open step in its turn that has a receive buffer, on a module whose mesh has lock, with the router enabled: a sparse sum for a
stream that waits for its own value, every other stream being closed, joins the stream's input; a sparse final of one record, for a stream with
nothing before it and every other closed, hands the total to the Catch unit of the row's stack; a sparse end closes the stream's input; a dense or
top-k sum for a chain without own value waits on its leg; a dense or top-k final of a chain with its own value, of its SCOPE, joins the finals. A
packet that has a buffer, with another CSUM, sets CHAIN_CSUM and is taken; one of a step neither open nor next counts as stale. A time-out with a
limit, of a stream that waits, sets CHAIN_TIMEOUT and fails the chains with STATUS 2. Derived from R418, R428, R432, R435, R439, R446, R448, R449,
R450. -/
def Obligations.ChainPackets : Prop :=
  (∀ (s : State) (m : Msg) (p : ChainPkt), PktReady s m p →
    let leg := p.leg.toNat
    let no := p.stream.toNat
    (p.kind = 1#4 → ∀ x vs, s.chain.stream leg no false = some x → x.inClosed = false → x.own = [] → x.ownReady = false → x.closed = false →
      (∀ y ∈ s.chain.streams, y = x ∨ y.closed = true) → s.parseVals (p.body.length / 16 + 1) p.body = some vs →
      ∃ u, exec (.sparseSum m) s = .next u ∧ (u.chain.stream leg no false).map (fun y => y.inq) = some (x.inq ++ vs)) ∧
    (p.kind = 2#4 → ∀ x v d, s.chain.stream leg no true = some x → x.inClosed = false → x.own = [] → x.ownReady = true → x.inq = [] → x.closed = false →
      (s.finalHop no).hasIn = true → leg = 1 → (∀ y ∈ s.chain.streams, y = x ∨ y.closed = true) →
      s.parseVals (p.body.length / 16 + 1) p.body = some [v] → s.tdesc (v.key / 2 ^ 40) = some d →
      ∃ u, exec (.sparseFinal m) s = .next u ∧
        ∃ q ∈ (u.catchSt (s.stackOfAddr (d.addr (d.owner s.ny (v.key % 2 ^ 40)).2))).inbox,
          q.replace = false ∧ q.table = v.key / 2 ^ 40 ∧ q.row = v.key % 2 ^ 40 ∧ q.step = p.step ∧ q.grads = v.vals) ∧
    (p.kind = 7#4 → ∀ x, s.chain.stream leg no (s.seqKind p == 2) = some x → x.inClosed = false →
      ∃ u, exec (.sparseEnd m) s = .next u ∧ (u.chain.stream leg no (s.seqKind p == 2)).map (fun y => y.inClosed) = some true) ∧
    (∀ c ∈ [(Instr.denseSum, 3#4, false), (Instr.topkSum, 5#4, true)], p.kind = c.2.1 →
      let x := s.chain.block c.2.2 no
      x.own = none → x.parts = [] → x.crew = [] →
      ∃ u, exec (c.1 m) s = .next u ∧
        (leg = 1 → (u.chain.block c.2.2 no).xIn = x.xIn ++ [p.body]) ∧ (leg ≠ 1 → (u.chain.block c.2.2 no).yIn = x.yIn ++ [p.body])) ∧
    (∀ c ∈ [(Instr.denseFinal, 4#4, false), (Instr.topkFinal, 6#4, true)], p.kind = c.2.1 →
      let x := s.chain.block c.2.2 no
      x.own.isSome = true → x.got < x.packets → (c.2.2 = true → p.leg = 1#2 → x.scope = true) →
      ∃ u, exec (c.1 m) s = .next u ∧ (u.chain.block c.2.2 no).fin = x.fin ++ [p.body])) ∧
  (∀ (s : State) (m : Msg) (p : ChainPkt), s.up .mesh = true → m ∈ s.arrived → m.body = .chain p → s.enabled .router = true → p.kind = 3#4 →
    (p.csum.toNat ≠ pktCrc p → s.pktRoom p = true → ∃ u, exec (.denseSum m) s = .next u ∧ u.arrived = s.arrived.erase m ∧ u.sticky .router E.ROUTER_CHAIN_CSUM) ∧
    (p.csum.toNat = pktCrc p → s.openNow ≠ some p.step.toNat → p.step.toNat ≠ s.openStep + 1 → s.counts .router R.ROUTER_CHAIN_STALE →
      ∃ u, exec (.denseSum m) s = .next u ∧ u.rd .router R.ROUTER_CHAIN_STALE = s.rd .router R.ROUTER_CHAIN_STALE + 1 ∧ u.chain = s.chain)) ∧
  (∀ (s : State) (x : ChainStream) (n : Nat), s.up .mesh = true → s.chain.timeoutUs ≠ 0 → s.chainStatus = none → s.streamWaits x = true →
    s.chain.step = some n →
    ∃ u, exec (.chainTimeout x) s = .next u ∧ u.sticky .router E.ROUTER_CHAIN_TIMEOUT ∧ u.chain.failed = some 2)

/-- On a powered module: LOCK_REQ of acceptable registers locks the geometry, gives HBM_TOP the end of the last region and every base die its journal
size; of registers that are not, sets GEO_BAD and leaves it unlocked; once locked, sets CTL_ACCESS and leaves HBM_TOP. A window skewed by its counts
of accesses lengthens its stack's run and is counted until the run has reached its length, which sets HASH_SKEW and restarts it; any other window
restarts the run. A temperature readout, 95 where it failed, stands in MEM_TEMP with the point in force; a failed one sets TEMP_READ. Derived from
R462, R463, R471, R472, R475, R476, R479, R480, R481. -/
def Obligations.GeometryAndStacks : Prop :=
  ∀ (s : State), s.pwr.on = true →
    (s.geoLocked = false → s.geoOk = true → ∃ u, exec .lockReq s = .next u ∧ u.geoLocked = true ∧
      u.rd .mod R.MOD_HBM_TOP = ((layRegions 0 (s.regionSpecs (s.nextMib 0))).foldl (fun n r => n + r.size) 0) % 2 ^ 64 ∧
      ∀ st, u.rf (.base st) R.BASE_JOURNAL_CFG 31 16 = s.nextMib st) ∧
    (s.geoLocked = false → s.geoOk = false → ∃ u, exec .lockReq s = .next u ∧ u.geoLocked = false ∧ u.hbmTop = s.hbmTop ∧
      u.sticky .mod E.MOD_GEO_BAD) ∧
    (s.geoLocked = true → ∃ u, exec .lockReq s = .next u ∧ u.hbmTop = s.hbmTop ∧ u.sticky .mod E.CTL_ACCESS) ∧
    (∀ (st : StackId) (pc : Fin 32) (more : Nat),
      let counts := (s.catchSt st).windowWith pc.val more
      let total := counts.foldl (fun n e => n + e.2) 0
      let busiest := counts.foldl (fun n e => max n e.2) 0
      let r := s.rf (.base st) R.BASE_SKEW_CFG 15 8
      let w := s.rf (.base st) R.BASE_SKEW_CFG 7 0
      let skewed := 40000 ≤ total ∧ (if r = 0 then 2 else r) * total ≤ 32 * busiest
      let run := (s.catchSt st).skewRun
      (skewed → run + 1 < (if w = 0 then 1 else w) → ∃ u, exec (.skewWindow st pc more) s = .next u ∧ (u.catchSt st).skewRun = run + 1 ∧
        (s.counts (.base st) R.BASE_SKEW_WINDOWS → u.rd (.base st) R.BASE_SKEW_WINDOWS = s.rd (.base st) R.BASE_SKEW_WINDOWS + 1)) ∧
      (skewed → (if w = 0 then 1 else w) ≤ run + 1 → ∃ u, exec (.skewWindow st pc more) s = .next u ∧ (u.catchSt st).skewRun = 0 ∧
        u.sticky (.base st) E.BASE_HASH_SKEW) ∧
      (¬ skewed → ∃ u, exec (.skewWindow st pc more) s = .next u ∧ (u.catchSt st).skewRun = 0 ∧ (u.catchSt st).window = [] ∧ u.regs = s.regs)) ∧
    (∀ (st : StackId) (temp : Option Byte), ∃ u, exec (.memTempRead st temp) s = .next u ∧
      let v := (temp.getD 95#8).toNat
      u.rf (.base st) R.BASE_MEM_TEMP 7 0 = v ∧
      u.rf (.base st) R.BASE_MEM_TEMP 10 8 = s.rfcPoint st (s.rf (.base st) R.BASE_MEM_TEMP 10 8) (sgn 8 v) ∧
      (temp = none → u.sticky (.base st) E.BASE_TEMP_READ))

/-- On a powered module: FLUSH of an enabled tile whose cache is not busy sets BUSY and leaves no tile dirty, the valid sectors of its one dirty HBM tile,
on no fenced stack, standing in HBM; INVAL empties the cache too; BUSY clears once no write-back waits for its lender. A loan that fits is enabled
with LOST 0, any other sets LOAN_BAD and stays off. A class-3 read in its port's turn that the lend window admits is answered with the words, or as
poisoned where one is, a write to no fenced stack is stored; a request outside is refused and sets LEND_REFUSED. The answer to a sector's fill makes
the sector valid with its data. A time-out of a loan that is on, or of its inactive port, loses it and sets NBR_LOST. Derived from R493, R494, R495,
R500, R502, R503, R506. -/
def Obligations.CachesAndLoans : Prop :=
  ∀ (s : State), s.pwr.on = true →
    (∀ t : TileId,
      (s.enabled (.cox t) = true → s.rb (.cox t) R.COX_TCACHE_CTL 8 = false →
        (∃ u, exec (.tcacheFlush t) s = .next u ∧ u.rb (.cox t) R.COX_TCACHE_CTL 8 = true ∧ (∀ e ∈ (u.cox t).cache, e.dirty = 0) ∧
          ∀ e, (s.cox t).cache = [e] → e.loan = false → e.dirty ≠ 0 → ∀ k < 16, e.valid.testBit k = true →
            (s.stacksAt (e.tag * 0x10000 + 4096 * k) 4096).any s.stackFenced = false →
            u.hbmRead (e.tag * 0x10000 + 4096 * k) 4096 = e.sector k) ∧
        (∃ u, exec (.tcacheInval t) s = .next u ∧ u.rb (.cox t) R.COX_TCACHE_CTL 8 = true ∧ (u.cox t).cache = [])) ∧
      ((∀ q ∈ s.loanReqs, q.tile ≠ t.val ∨ q.write = false) → ∃ u, exec (.tcacheFlushDone t) s = .next u ∧ u.rb (.cox t) R.COX_TCACHE_CTL 8 = false)) ∧
    (∀ (k : Fin 4) (v : W32), let v' := setFld v.toNat 31 31 1
      (s.loanOk k.val v' = true → ∃ u, exec (.loanEnable k v) s = .next u ∧ u.loanOn k.val = true ∧ u.loanLost k.val = false ∧
        u.loanSize k.val = fld v.toNat 26 16 * 0x4000000) ∧
      (s.loanOk k.val v' = false → ∃ u, exec (.loanEnable k v) s = .next u ∧ u.loanOn k.val = false ∧ u.sticky .mod E.MOD_LOAN_BAD)) ∧
    (∀ m ∈ s.arrived,
      (∀ (p : PortId) off len, m.body = .loanRead off len → s.lendNext p m = true →
        (s.lendAddr p off.toNat len = none →
          ∃ u, exec (.loanRead p m) s = .next u ∧ u.answers m (.loanResp .refused []) ∧ u.mem = s.mem ∧ u.sticky .mod E.MOD_LEND_REFUSED) ∧
        (∀ a, s.lendAddr p off.toNat len = some a → ∃ u, exec (.loanRead p m) s = .next u ∧ u.mem = s.mem ∧
          u.answers m (if s.hbmBad a len then .loanResp .poisoned [] else .loanResp .done (s.hbmRead a len)))) ∧
      (∀ (p : PortId) off data, m.body = .loanWrite off data → s.lendNext p m = true →
        (s.lendAddr p off.toNat data.length = none →
          ∃ u, exec (.loanWrite p m) s = .next u ∧ u.answers m (.loanResp .refused []) ∧ u.mem = s.mem ∧ u.sticky .mod E.MOD_LEND_REFUSED) ∧
        (∀ a, s.lendAddr p off.toNat data.length = some a → (s.stacksAt a data.length).any s.stackFenced = false →
          ∃ u, exec (.loanWrite p m) s = .next u ∧ u.answers m (.loanResp .done []) ∧
            u.hbmRead a data.length = data ∧ ∀ b, b < a ∨ a + data.length ≤ b → Mem.get u.mem b = Mem.get s.mem b)) ∧
      (∀ data q, m.body = .loanResp .done data → s.loanReqs.find? (fun q => q.tag == m.tag) = some q → q.write = false → q.addr % 4096 = 0 → data.length = 4096 →
        ∃ u e, exec (.loanResponse m) s = .next u ∧ (u.cox (tileOf q.tile)).cached (q.addr / 0x10000) = some e ∧
          e.valid.testBit (q.addr / 4096 % 16) = true ∧ e.sector (q.addr / 4096 % 16) = data)) ∧
    (∀ k : Fin 4, s.loanOn k.val = true → s.loanLost k.val = false →
      ((∃ q ∈ s.loanReqs, q.loan = k.val) → ∃ u, exec (.loanTimeout k) s = .next u ∧ u.loanLost k.val = true ∧ u.sticky .mod E.MOD_NBR_LOST) ∧
      (s.portState (Fin.ofNat 6 (s.rf .mod (R.MOD_LOAN_CFG + 16 * k.val) 30 28)) ≠ 2 →
        ∃ u, exec (.loanPortInactiveTimeout k) s = .next u ∧ u.loanLost k.val = true ∧ u.sticky .mod E.MOD_NBR_LOST))

/-- On a powered module, the port's SerDes having lock for what it receives: training done sends the identity flit of a port in TRAINING, with sizes,
position and buffers; a training attempt past its bound is tried again, the third moves the port to FAULT with TRAIN_FAIL. An identity flit in
sequence from the expected partner moves a trained port to ACTIVE with the partner's buffer sizes advertised, one from another partner to FAULT with
MISCABLE. Loss of signal, a training sequence, an acknowledgement overdue while flits are unacknowledged (with ACK_TIMEOUT) and a 16th uncorrectable
codeword move an ACTIVE port to RETRAIN with RETRAIN set; an earlier uncorrectable codeword leaves it ACTIVE with FEC_UNCORR. A retrain done moves it
back to ACTIVE with the unacknowledged flits sent first; a retrain past its bound is tried again, the second moves it to FAULT with LINK_FAULT.
Derived from R519, R520, R521, R522, R523, R525, R526, R528, R532. -/
def Obligations.PortStates : Prop :=
  ∀ (p : PortId) (s : State), s.pwr.on = true →
    let x := s.port p
    let bad (u : State) (b : Nat) : Prop := u.sticky (.port p) b
    (s.up (.serdes p) = true → s.portState p = 1 → x.trained = false → ∃ u f, exec (.portTrainingDone p) s = .next u ∧ (u.port p).trained = true ∧ (u.port p).tx = [f] ∧
      f.ftype = 4 ∧ f.flit.seq = x.txSeq ∧
      f.ident = some ⟨BitVec.ofNat 32 s.fabSizes, BitVec.ofNat 32 (s.rd .router R.ROUTER_FAB_POS), x.bufs⟩ ∧ (u.port p).replay = x.replay ++ [f] ∧ u.portState p = 1) ∧
    (s.portState p = 1 → ∃ u, exec (.trainingTimeout p) s = .next u ∧
      (x.failed + 1 < 3 → u.portState p = 1 ∧ (u.port p).failed = x.failed + 1 ∧ (u.port p).trained = false) ∧
      (3 ≤ x.failed + 1 → u.portState p = 4 ∧ bad u E.PORT_TRAIN_FAIL)) ∧
    (∀ (f : Flit) (y : Ident), s.up (.serdes p) = true → s.portState p = 1 → x.trained = true → f.crcOk = true → f.seq = x.rxSeq →
      let right := y.size.toNat = s.fabSizes ∧ fld y.pos.toNat 11 0 = s.nextPos p
      ∃ u, exec (.identityFlit p f y) s = .next u ∧
        (right → u.portState p = 2 ∧ (u.port p).advertised = y.bufs ∧ u.rf (.port p) R.PORT_PORT_STATUS 27 16 = fld y.pos.toNat 11 0) ∧
        (¬ right → u.portState p = 4 ∧ bad u E.PORT_MISCABLE)) ∧
    (s.portState p = 2 →
      (∀ c ∈ [Instr.lossOfSignal p, .fecUncorr p true], ∃ u, exec c s = .next u ∧ u.portState p = 3 ∧ bad u E.PORT_RETRAIN) ∧
      (s.up (.serdes p) = true → ∃ u, exec (.trainingSequenceReceived p) s = .next u ∧ u.portState p = 3 ∧ bad u E.PORT_RETRAIN) ∧
      (x.replay ≠ [] → ∃ u, exec (.ackTimeout p) s = .next u ∧ u.portState p = 3 ∧ bad u E.PORT_ACK_TIMEOUT ∧ bad u E.PORT_RETRAIN) ∧
      (∃ u, exec (.fecUncorr p false) s = .next u ∧ u.portState p = 2 ∧ bad u E.PORT_FEC_UNCORR)) ∧
    (s.portState p = 3 →
      (s.up (.serdes p) = true → ∃ u l, exec (.retrainDone p) s = .next u ∧ u.portState p = 2 ∧ (u.port p).tx = x.replay ++ l) ∧
      (∃ u, exec (.retrainTimeout p) s = .next u ∧
        (x.failed + 1 < 2 → u.portState p = 3 ∧ (u.port p).failed = x.failed + 1) ∧ (2 ≤ x.failed + 1 → u.portState p = 4 ∧ bad u E.PORT_LINK_FAULT)))

/-- On an ACTIVE port whose SerDes has lock: an intact data flit in sequence is accepted, the message it completes joining the received ones, one that
completes none counted into its class and VC; one out of sequence, or with a bad CRC (with CRC_ERR), is discarded with a NAK unless one is out. An
intact acknowledge or idle flit frees the flits it acknowledges, while nothing is queued. A NAK frees the flits before the named one and sends the
rest again. Where the Selaz island has lock, the acknowledgement's deadline sends an acknowledge flit with the last SEQ received, where one is due.
Derived from R529, R530, R531, R535, R537. -/
def Obligations.FlitExchange : Prop :=
  ∀ (p : PortId) (s : State) (f : Flit), s.up (.serdes p) = true → s.portState p = 2 →
    let x := s.port p
    let lane := vcLane f.cls.toNat f.vc
    (∀ m : Option Msg,
      (f.crcOk = true → f.seq = x.rxSeq → ∃ u, exec (.dataFlit p f m) s = .next u ∧ (u.port p).rxSeq = x.rxSeq + 1 ∧
        (m = none → (u.port p).rx = x.rx ∧ nth 0 (u.port p).partly lane = if lane < x.partly.length then (if f.som then 0 else nth 0 x.partly lane) + 1 else 0) ∧
        (∀ m', m = some m' → ∃ r, (u.port p).rx = x.rx ++ [r] ∧ r.msg = m' ∧ r.cls = f.cls.toNat ∧ r.vc = f.vc)) ∧
      (f.crcOk = true → f.seq ≠ x.rxSeq → ∃ u, exec (.dataFlit p f m) s = .next u ∧ (u.port p).rxSeq = x.rxSeq ∧ (u.port p).rx = x.rx ∧ (u.port p).nak = true) ∧
      (f.crcOk = false → ∃ u, exec (.dataFlit p f m) s = .next u ∧ (u.port p).rxSeq = x.rxSeq ∧ (u.port p).rx = x.rx ∧ (u.port p).nak = true ∧
        u.sticky (.port p) E.PORT_CRC_ERR)) ∧
    (f.crcOk = true → f.crCount = 0 → (∀ q ∈ x.queues, q = []) →
      (∀ c ∈ [Instr.acknowledgeFlit p f, .idleFlit p f], ∀ l y r, x.replay = l ++ y :: r → y.flit.seq = f.ack → (∀ z ∈ l, z.flit.seq ≠ f.ack) →
        ∃ u, exec c s = .next u ∧ (u.port p).replay = r ∧ (u.port p).tx = []) ∧
      (∃ u, exec (.nakFlit p f) s = .next u ∧ (u.port p).tx = ((x.ack f.ack).ack (f.seq - 1)).replay ∧
        (u.port p).replay = ((x.ack f.ack).ack (f.seq - 1)).replay)) ∧
    (s.up .selaz = true → x.ackDue = true → ∃ u g, exec (.ackSendDeadline p) s = .next u ∧ (u.port p).tx = [g] ∧ g.ftype = 2 ∧ g.flit.ack = x.rxSeq - 1 ∧
      (u.port p).ackDue = false)

/-- On a powered module, the Selaz island and the port's SerDes having lock: TIME_SYNC_SEND on an ACTIVE port with room for replay sends a time-sync flit
with the times of the last ones sent and received and notes the time; a time-sync flit in sequence that completes an exchange gives LINK_DELAY, and on
the parent's port disciplines time, by the whole offset before lock and by 0 to 62 ns after it, on another port leaves time. Ten milliseconds without
a parent end LOCKED with TSYNC_LOST on a module that is not the root. An input edge moves an enabled root's time to the nearest second; an output
pulse counts; TIME_SET gives the root's time, elsewhere sets CTL_ACCESS and leaves time. Derived from R552, R553, R554, R556, R557, R567. -/
def Obligations.FabricTime : Prop :=
  ∀ (s : State), s.pwr.on = true →
    (∀ p : PortId, s.portState p = 2 →
      (s.up .selaz = true → (s.port p).replay.length < 2048 → ∃ u f, exec (.timeSyncSend p) s = .next u ∧ (u.port p).tx = [f] ∧ f.ftype = 5 ∧
        f.sync = some ((s.port p).syncSent, (s.port p).syncRecv) ∧ (u.port p).syncSent = s.now ∧
        u.fabTime = s.fabTime) ∧
      (∀ (f : Flit) (sent recv : W64), s.up (.serdes p) = true → f.crcOk = true → f.seq = (s.port p).rxSeq → f.crCount = 0 →
        (s.port p).syncSent ≠ 0 → (s.port p).syncRecv ≠ 0 → sent ≠ 0 → recv ≠ 0 →
        let t1 : Int := (s.port p).syncSent
        let t2 : Int := recv.toNat
        let t3 : Int := sent.toNat
        let t4 : Int := (s.port p).syncRecv
        let off := ((t2 - t1) + (t3 - t4)) / 2
        ∃ u, exec (.timeSyncFlit p f sent recv) s = .next u ∧ u.rd (.port p) R.PORT_LINK_DELAY = wrap 32 (((t4 - t1) - (t3 - t2)) * 50) ∧
          (s.isParentPort p = false → u.fabTime = s.fabTime) ∧
          (s.isParentPort p = true → s.rb .router R.ROUTER_TSYNC_STATUS 0 = false → u.fabTime = s.fabTime + BitVec.ofInt 64 (off / 10)) ∧
          (s.isParentPort p = true → s.rb .router R.ROUTER_TSYNC_STATUS 0 = true → ∃ n : Nat, n ≤ 62 ∧ u.fabTime = s.fabTime + BitVec.ofNat 64 n))) ∧
    (s.isRoot = false → s.parent = none → s.rb .router R.ROUTER_TSYNC_STATUS 0 = true → ∃ u, exec .tsyncHoldoverExpire s = .next u ∧
      u.rb .router R.ROUTER_TSYNC_STATUS 0 = false ∧ u.sticky .router E.ROUTER_TSYNC_LOST ∧ u.fabTime = s.fabTime) ∧
    (s.isRoot = true → s.rb .router R.ROUTER_TSYNC_CFG 63 = true → s.fabTime.toNat < 2 ^ 63 → ∃ u, exec .tsyncInEdge s = .next u ∧
      u.fabTime.toNat % 1000000000 = 0 ∧ u.fabTime.toNat ≤ s.fabTime.toNat + 500000000 ∧ s.fabTime.toNat < u.fabTime.toNat + 500000000) ∧
    (s.rf .router R.ROUTER_TSYNC_CFG 31 0 ≠ 0 → exec .tsyncOutPulse s = .next { s with tsyncEdges := s.tsyncEdges + 1 }) ∧
    (∀ v, (s.isRoot = true → exec (.timeSet v) s = .next { s with fabTime := v }) ∧
      (s.isRoot = false → ∃ u, exec (.timeSet v) s = .next u ∧ u.fabTime = s.fabTime ∧ u.sticky .router E.CTL_ACCESS))

/-- On a powered module whose Selaz island has lock: the oldest injected message that is no tree message is delivered here where its route entry names
port 6; goes to the port its valid entry names, one hop on, while that port is in service and it has hops left; is discarded with ROUTE_MISS where the
entry is not valid, with HDR_BAD where the router's buffer lost it. A received message returns its credits as it leaves its port, at once where that
carries traffic. A registration makes its sender a child with its tokens; an up message joins its words to the barrier's; a child overdue in a barrier
that waits for it sets BARRIER_TIMEOUT once. FAB_LOCK_REQ of an acceptable configuration locks it, the sizes in force as the first lock took them, of
another sets FAB_CFG_BAD; a locked spare told to take a coordinate inside the fabric has it and is no spare, otherwise TAKEOVER_BAD is set. Derived
from R540, R541, R542, R543, R544, R548, R549, R550, R558, R560, R567. -/
def Obligations.RoutesAndTrees : Prop :=
  ∀ (s : State), s.up .selaz = true →
    (∀ m r, s.inject = m :: r → isTree m.body = false →
      let e := s.routeEntry m.dst.toNat
      (e.testBit 63 = true → fld e 62 60 = 6 → ∃ u, exec (.messageForward .inject .ok) s = .next u ∧ u.inject = r ∧ u.arrived = s.arrived ++ [m]) ∧
      (∀ p : PortId, e.testBit 63 = true → fld e 62 60 = p.val → m.hops.toNat < 31 → s.portState p = 2 ∨ s.portState p = 1 ∨ s.portState p = 3 →
        ∃ u f, exec (.messageForward .inject .ok) s = .next u ∧ u.inject = r ∧ u.arrived = s.arrived ∧ f.msg = some { m with hops := m.hops + 1 } ∧
          (f ∈ (u.port p).tx ∨ ∃ q ∈ (u.port p).queues, f ∈ q)) ∧
      (e.testBit 63 = false → refusalOf m.body = none → ∃ u, exec (.messageForward .inject .ok) s = .next u ∧ u.inject = r ∧ u.arrived = s.arrived ∧
        u.sticky .router E.ROUTER_ROUTE_MISS) ∧
      (∃ u, exec (.messageForward .inject .uncorrectable) s = .next u ∧ u.inject = r ∧ u.arrived = s.arrived ∧ u.sticky .router E.ROUTER_HDR_BAD)) ∧
    (∀ (p : PortId) x r, (s.port p).rx = x :: r → isTree x.msg.body = true → mtypeClass (mtypeOf x.msg.body) = some x.cls →
      ∃ u, exec (.messageForward (.port p) .ok) s = .next u ∧ (u.port p).rx = r ∧ u.arrived = s.arrived ++ [x.msg] ∧
        (s.portState p = 2 → ∀ k < 8, nth 0 (u.port p).owed k = 0) ∧
        (s.portState p ≠ 2 → (u.port p).owed = modNth (fun v => v + x.flits) (s.port p).owed (vcLane x.cls x.vc))) ∧
    (∀ m ∈ s.arrived,
      (∀ n, m.body = .registration n → ∃ u, exec (.treeRegistration m) s = .next u ∧ (m.src.toNat, n) ∈ u.children) ∧
      (∀ kind step word, m.body = .barrierUp kind step word → ∃ u, exec (.barrierUp m) s = .next u ∧
        m.src.toNat ∈ (u.bar kind.toNat step.toNat).ups ∧ (u.bar kind.toNat step.toNat).word = (s.bar kind.toNat step.toNat).word ||| word)) ∧
    (∀ (kind : BitVec 4) (step : W64) (child : Coord) (n : Nat), let b := s.bar kind.toNat step.toNat
      s.rf .router R.ROUTER_BARRIER_CFG 31 0 ≠ 0 → b.reported = false → b.complete = false → b.sent = false → b.own = true →
      (child.toNat, n) ∈ s.children → n ≠ 0 → child.toNat ∉ b.ups →
      ∃ u, exec (.barrierTimeout kind step child) s = .next u ∧ (u.bar kind.toNat step.toNat).reported = true ∧ u.sticky .router E.ROUTER_BARRIER_TIMEOUT) ∧
    (s.fabOk = true → ∃ u, exec .fabLockReq s = .next u ∧ u.fabLocked = true ∧ u.fabSize = some (BitVec.ofNat 32 s.fabSizes)) ∧
    (s.fabOk = false → ∃ u, exec .fabLockReq s = .next u ∧ u.fabLocked = s.fabLocked ∧ u.sticky .router E.ROUTER_FAB_CFG_BAD) ∧
    (let c := s.rf .router R.ROUTER_TAKEOVER 11 0
     let inside := ∀ a < 3, fld c (4 * a + 3) (4 * a) ≤ fld s.fabSizes (4 * a + 3) (4 * a)
     (s.fabLocked = true → s.isSpare = true → inside → ∃ u, exec .takeover s = .next u ∧ u.isSpare = false ∧ u.rf .router R.ROUTER_FAB_POS 27 16 = c) ∧
     (¬ (s.fabLocked = true ∧ s.isSpare = true ∧ inside) → ∃ u, exec .takeover s = .next u ∧ u.rd .router R.ROUTER_FAB_POS = s.rd .router R.ROUTER_FAB_POS ∧
       u.sticky .router E.ROUTER_TAKEOVER_BAD))

/-- On a powered module: STEP_CLOSE closes the open step once its work is over, and before that changes nothing. STEP_OPEN opens the step that the
boundary lets open, showing it in OPEN_STEP, open unless an abort for it came early; while a condition of its opening is missing it changes nothing.
VERDICT_TOKEN sends the token of the oldest closed step without one, where its digest is taken and it has no Crew check: a first run's word keeps its
bits 3 to 1; while Crew digests are missing it changes nothing. An abort that arrives closes its step as FAILED, and one for a step to come is kept. A
digest that arrives joins its step's or the second exchange's; one for a committed step is dropped, one for a step to come waits. That an early abort
is kept for the opening is log entry 80 (DEDUCED). Derived from R31, R32, R301, R618, R621, R622, R639, R644. -/
def Obligations.StepsOpenAndClose : Prop :=
  ∀ (s : State), s.pwr.on = true →
    (∀ n x, s.openNow = some n → s.stepSt n = some x →
      (s.workDone n = false → exec .stepClose s = .next s) ∧
      (s.workDone n = true → ∃ u y, exec .stepClose s = .next u ∧ u.stepSt n = some y ∧ y.closed = true ∧ y.closedAt = s.fabTime)) ∧
    (∀ n, s.ump.mayOpen = some n →
      (s.mayOpenStep n = false → exec .stepOpen s = .next s) ∧
      (s.mayOpenStep n = true → n < 2 ^ 64 → s.stepSt n = none → ∃ u y, exec .stepOpen s = .next u ∧ u.openStep = n ∧ u.ump.mayOpen = none ∧
        u.stepSt n = some y ∧ y.closed = s.ump.earlyAbort.contains (BitVec.ofNat 64 n) ∧ y.openedAt = s.fabTime)) ∧
    (∀ x, s.steps.find? (fun x => x.closed && !x.tokenSent) = some x → s.stepSt x.step.toNat = some x → x.sd.isSome = true →
      (s.crewStep x.step.toNat = false → x.run = 1 → ∃ u y, exec .verdictToken s = .next u ∧ u.stepSt x.step.toNat = some y ∧
        y.tokenSent = true ∧ y.word = x.word &&& 0xE#32) ∧
      (s.crewStep x.step.toNat = true → x.word.getLsbD 2 = false → x.sent = true → x.crew.length < s.nx → exec .verdictToken s = .next s)) ∧
    (∀ m ∈ s.arrived, ∀ n up, m.body = .abort n up →
      (∀ x, s.stepSt n.toNat = some x → x.aborted = false → ∃ u y, exec (.relControlToken m) s = .next u ∧ u.stepSt n.toNat = some y ∧
        y.aborted = true ∧ y.closed = true ∧ y.word.getLsbD 2 = true) ∧
      (s.stepSt n.toNat = none → s.committedStep < n.toNat → ∃ u, exec (.relControlToken m) s = .next u ∧ n ∈ u.ump.earlyAbort)) ∧
    (∀ m ∈ s.arrived, ∀ n (x : BitVec 4) sd second, m.body = .digest n x sd second →
      (second = false → s.stepSt n.toNat = none →
        exec (.crewDigest m) s = .next (if n.toNat ≤ s.committedStep then { s with arrived := s.arrived.erase m } else s)) ∧
      (second = false → ∀ y, s.stepSt n.toNat = some y → y.closed = false → ∃ u z, exec (.crewDigest m) s = .next u ∧ u.stepSt n.toNat = some z ∧
        (x.toNat, sd) ∈ z.crew) ∧
      (second = true → s.ump.recheck = some n.toNat → (s.ump.second.filter (fun e => e.1 != x.toNat)).length + 1 < s.nx →
        ∃ u, exec (.crewDigest m) s = .next u ∧ (x.toNat, sd) ∈ u.ump.second))

/-- On a powered module that is no spare, a down message of a barrier that has arrived acts here: kind 2 for step n lets step n + 1 open; kind 3 with word
0 for the step after COMMITTED_STEP, closed, commits it; with FAILED rolls the module back, so that no record of the step or of a later one is left,
and sets ROLLBACK. On a powered module: SET_STEP with the Umpire suspended or stopped and no train running gives COMMITTED_STEP and OPEN_STEP the
value of SET_STEP_VALUE, empties the step journals and dense journals and leaves no open step and no digest, memory as it was; otherwise it sets
CTL_ACCESS and leaves both and the steps. RESCAN with no step open begins, BUSY reading 1; with one open it sets CTL_ACCESS. Its end gives every base
die RD from its rows, SD_COMMITTED the sum, and BUSY 0. RESUME on a suspended or stopped Umpire that waits for no SET_STEP begins the resumption;
otherwise it changes nothing. That no SET_STEP is needed on a module that is not expelled is log entry 87 (DEDUCED). Derived from R549, R618, R620,
R623, R637, R638, R647, R662, R663, R665. -/
def Obligations.UmpireActs : Prop :=
  (
    ∀ (s : State) (step : W64), s.pwr.on = true → s.isSpare = false →
      (∀ m ∈ s.arrived, ∀ w, m.body = .barrierDown 2 step w →
        ∃ u, exec (.barrierDown 2 step) s = .next u ∧ u.ump.mayOpen = some (step.toNat + 1)) ∧
      (∀ m ∈ s.arrived, ∀ w, m.body = .barrierDown 3 step w → (∀ m' ∈ s.arrived, ∀ w', m'.body = .barrierDown 3 step w' → w' = w) →
        ∀ x, s.stepSt step.toNat = some x →
          (w = 0 → x.closed = true → step.toNat = s.committedStep + 1 → ∃ u, exec (.barrierDown 3 step) s = .next u ∧ step.toNat ≤ u.committedStep ∧
            ∀ y ∈ u.steps, step.toNat < y.step.toNat) ∧
          (w.getLsbD 2 = true → ∃ u, exec (.barrierDown 3 step) s = .next u ∧ (∀ y ∈ u.steps, y.step.toNat < step.toNat) ∧
            u.sticky .rel E.REL_ROLLBACK))) ∧
  (
    ∀ (s : State), s.pwr.on = true →
      (let allowed := (s.umpState = 4 ∨ s.umpState = 5) ∧ ∀ x ∈ s.coxes, ∀ tr ∈ x.2.trains, tr.launched = false
       (allowed → ∃ u, exec .setStep s = .next u ∧ u.committedStep = s.rd .rel R.REL_SET_STEP_VALUE ∧ u.openStep = s.rd .rel R.REL_SET_STEP_VALUE ∧
          u.steps = [] ∧ u.ump.needSet = false ∧ u.rd .rel R.REL_SD_COMMITTED = 0 ∧ u.mem = s.mem ∧ u.tsram = s.tsram ∧
          (∀ st, (u.catchSt st).journal = []) ∧ ∀ t, (u.fin t).journal = []) ∧
       (¬ allowed → ∃ u, exec .setStep s = .next u ∧ u.committedStep = s.committedStep ∧ u.openStep = s.openStep ∧ u.steps = s.steps ∧
          u.ump = s.ump ∧ u.sticky .rel E.CTL_ACCESS)) ∧
      (s.openNow = none → ∃ u, exec .rescan s = .next u ∧ u.ump.rescanning = true ∧ u.rb .rel R.REL_REL_CMD 31 = true ∧ u.mem = s.mem) ∧
      (s.openNow.isSome = true → ∃ u, exec .rescan s = .next u ∧ u.ump = s.ump ∧ u.sticky .rel E.CTL_ACCESS) ∧
      (s.ump.rescanning = true → ∃ u, exec .rescanDone s = .next u ∧ u.ump.rescanning = false ∧ u.rb .rel R.REL_REL_CMD 31 = false ∧
        u.rd .rel R.REL_SD_COMMITTED = u.ump.sd.toNat ∧ u.mem = s.mem ∧ ∀ st, (u.catchSt st).rd = s.scanRd st) ∧
      (let may := (s.umpState = 4 ∨ s.umpState = 5) ∧ s.ump.needSet = false ∧ s.ump.resuming = false
       (may → ∃ u, exec .umpireResume s = .next u ∧ u.ump.resuming = true ∧ u.rb .rel R.REL_UMPIRE_STATUS 8 = false) ∧
       (¬ may → exec .umpireResume s = .next s)))

/-- On a powered module: an in-service core falls due; an idle one that is due is taken while no other core of its tile is, its HEAT bit set; one not idle
in time is deferred. The end of a test clears HEAT; a pass records COMMITTED_STEP as the unit's last passing step; a failure or a time-out sets
HEAT_FAIL, marks every uncommitted step SUSPECT and names the unit in HEAT_EXPOSED. The tests of base dies and of idle Finish engines, while enabled,
end the same way; HEAT_LATE sets its bit for an enabled kind. Derived from R119, R649, R650, R651, R652, R653, R654. -/
def Obligations.HeatTests : Prop :=
  ∀ (s : State), s.pwr.on = true →
    let good (u : State) (unit : Nat) : Prop := SMap.get (fun _ => 0) u.ump.passed unit = s.committedStep ∧ u.steps = s.steps
    let bad (u : State) (unit : Nat) : Prop := u.sticky .rel E.REL_HEAT_FAIL ∧ u.rd .rel R.REL_HEAT_EXPOSED_UNIT = unit ∧
      u.rd .rel R.REL_HEAT_EXPOSED_LAST = s.committedStep ∧ u.steps.length = s.steps.length ∧ ∀ y ∈ u.steps, y.word.getLsbD 1 = true
    (∀ c : CoreId,
      (s.rb .rel R.REL_HEAT_CFG 0 = true → s.coreAvail c = true → s.underTest c = false → c.val ∉ s.ump.due →
        ∃ u, exec (.heatDue c) s = .next u ∧ u.ump.due = s.ump.due ++ [c.val] ∧ u.regs = s.regs ∧ u.mem = s.mem) ∧
      (c.val ∈ s.ump.due → s.coreIdle c = true → (∀ k < 16, s.underTest (coreOf (tileOfCore c) k) = false) →
        ∃ u, exec (.heatTestStart c) s = .next u ∧ u.underTest c = true ∧ u.ump.due = s.ump.due.erase c.val) ∧
      (c.val ∈ s.ump.due → s.underTest c = false → ∃ u, exec (.heatDefer c) s = .next u ∧ u.ump.due = s.ump.due.erase c.val ∧ u.underTest c = false) ∧
      (s.underTest c = true →
        (∃ u, exec (.heatTestDone c true) s = .next u ∧ u.underTest c = false ∧ good u (4096 + c.val)) ∧
        (∃ u, exec (.heatTestDone c false) s = .next u ∧ u.underTest c = false ∧ bad u (4096 + c.val)) ∧
        (∃ u, exec (.heatTestTimeout c) s = .next u ∧ u.underTest c = false ∧ bad u (4096 + c.val)))) ∧
    (∀ st : StackId, s.rb .rel R.REL_HEAT_CFG 1 = true → s.enabled (.base st) = true →
      (∃ u, exec (.heatCatchTest st true) s = .next u ∧ good u (2 * 4096 + st.val) ∧ u.mem = s.mem) ∧
      (∃ u, exec (.heatCatchTest st false) s = .next u ∧ bad u (2 * 4096 + st.val) ∧ u.mem = s.mem)) ∧
    (∀ t : TileId, s.rb .rel R.REL_HEAT_CFG 2 = true → s.enabled (.fin t) = true → (s.fin t).job = none →
      (∃ u, exec (.heatFinishTest t true) s = .next u ∧ good u (3 * 4096 + t.val)) ∧
      (∃ u, exec (.heatFinishTest t false) s = .next u ∧ bad u (3 * 4096 + t.val))) ∧
    (∀ (kind : BitVec 4) (index : BitVec 12), 1 ≤ kind.toNat → kind.toNat ≤ 3 → s.rb .rel R.REL_HEAT_CFG (kind.toNat - 1) = true →
      ∃ u, exec (.heatLate kind index) s = .next u ∧ u.sticky .rel E.REL_HEAT_LATE ∧ u.steps = s.steps)

/-- On a powered module that is not stopped, its fault island having lock for what collects reports and writes the Wake: the oldest report, of a checker
that is not ignored, is taken; of reaction 0 it is counted and, the queue having room, nothing more is reported; of reactions 1 to 4 it sets
IRQ_PENDING; of 2 and 3 it fences its subject, of 2 it sets HOLD, of 4 it stops the module. A report whose CRC fails stays and sets COLL_LINK. The
next queued entry is written in the Wake at its place, NEXT_SEQ following it. A wire fault on a pair that is not ignored, of milder reactions, sets
WIRE_FAULT and the pair is ignored until it recovers; on a tile collector's pair it sets COLL_LINK. FENCE_CLR of a fenced unit that drains nowhere, no
core of a fenced tile, clears its fence on every page; where R694 refuses, CTL_ACCESS is set and no fence changes. RELEASE clears HOLD and changes
only FLT_STATE; clearing FIRST_WAKE empties it. That STOP takes no fence and no hold of its own is log entry 92 (DEDUCED). Derived from R667, R669,
R672, R681, R684, R689, R690, R694, R695, R803, R804. -/
def Obligations.ReportsAndTheWake : Prop :=
  ∀ (s : State), s.pwr.on = true → s.stopped = false →
    (∀ r rest, s.up .flt = true → s.reports = r :: rest →
      let src := sourceOf r.page r.bit
      let react := fld (s.tblWord .frt src) 2 0
      (∃ u l, exec (.errorReport false) s = .next u ∧ u.reports = r :: rest ++ l ∧ u.sticky .flt E.FLT_COLL_LINK) ∧
      ((src, instanceOf r.page) ∉ s.flt.ignored → r.injected = false → ∃ u, exec (.errorReport true) s = .next u ∧
        (react = 0 → s.flt.queue.length < 32 → u.reports = rest ∧ u.stopped = false ∧
          (s.counts .flt R.FLT_EVENTS → u.rd .flt R.FLT_EVENTS = s.rd .flt R.FLT_EVENTS + 1)) ∧
        (1 ≤ react → react ≤ 4 → u.rb .flt R.FLT_FLT_IRQ 0 = true) ∧
        (react = 2 ∨ react = 3 → ∀ x, subjectOf r.page r.bit r.syndrome = some x → x.exists = true → u.unitFenced x = true) ∧
        (react = 2 → u.rb .flt R.FLT_FLT_STATE 0 = true) ∧ (react = 4 → u.stopped = true))) ∧
    (∀ e rest, s.up .flt = true → s.flt.queue = e :: rest → ∃ u, exec .wakeEntryWrite s = .next u ∧ u.flt.queue = rest ∧ u.wakeAt (wakeOff e.seq) = e ∧
      u.nextSeq = (e.seq + 1) % 2 ^ 32) ∧
    (∀ (p : Page) (b : Fin 32), let k := (sourceOf p b.val, instanceOf p)
      (k ∉ s.flt.ignored → fld (s.tblWord .frt k.1) 2 0 ≤ 1 → fld (s.tblWord .frt (sourceOf .flt E.FLT_WIRE_FAULT)) 2 0 ≤ 1 →
        ∃ u, exec (.wireFault (.checker p b)) s = .next u ∧ u.sticky .flt E.FLT_WIRE_FAULT ∧ k ∈ u.flt.ignored) ∧
      (exec (.wirePairRecover (.checker p b)) s = .next { s with flt := { s.flt with ignored := s.flt.ignored.erase k } })) ∧
    (∀ t : TileId, (∃ u, exec (.wireFault (.collector t)) s = .next u ∧ u.sticky .flt E.FLT_COLL_LINK) ∧
      exec (.wirePairRecover (.collector t)) s = .next s) ∧
    (∀ v : W32, let x : FUnit := ⟨fld v.toNat 18 16, fld v.toNat 11 0⟩
      let ok := x.exists = true ∧ (∀ p ∈ x.pages, s.draining p = false) ∧ (x.kind = 1 → s.unitFenced ⟨2, x.index / 16⟩ = false)
      (ok → s.unitFenced x = true → ∃ u, exec (.fenceClr v) s = .next u ∧ u.unitFenced x = false ∧ ∀ p ∈ x.pages, u.rb p R.SH_STATUS 4 = false) ∧
      (¬ ok → ∃ u, exec (.fenceClr v) s = .next u ∧ u.sticky .flt E.CTL_ACCESS ∧ ∀ y : FUnit, u.unitFenced y = s.unitFenced y)) ∧
    (∃ rs, exec .holdRelease s = .next { s with regs := rs } ∧ let u : State := { s with regs := rs }
      u.rd .flt R.FLT_FLT_STATE = setFld (s.rd .flt R.FLT_FLT_STATE) 0 0 0 ∧
        ∀ a, a ≠ Page.flt.addr + R.FLT_FLT_STATE → SMap.get regDefault rs a = SMap.get regDefault s.regs a) ∧
    (∃ rs, exec .firstWakeClear s = .next { s with regs := rs } ∧ let u : State := { s with regs := rs }
      u.wakeAt R.FLT_FIRST_WAKE = ⟨0, 0, 0, 0⟩)

/-- On a powered module: an edge of the running stroke inverts its level, and without a running stroke changes nothing. EN 1 starts the stroke unless it
is held low, EN 0 ends it, its level low; FORCE_STOP ends it and holds it low. WIRE_INJ without EXPERT sets CTL_ACCESS; with it, ARM written, a
pattern 00 or 11 for 4 samples or more on an existing pair makes that pair ignored as a wire fault does; fewer samples cause no wire fault. Derived
from R668, R702, R703, R705. -/
def Obligations.StrokeAndInjection : Prop :=
  ∀ (s : State), s.pwr.on = true →
    (s.flt.stroke = true → ∃ rs, exec .strokeEdge s = .next { s with regs := rs } ∧
      State.rb { s with regs := rs } .flt R.FLT_STROKE_CTL 2 = !s.rb .flt R.FLT_STROKE_CTL 2) ∧
    (s.flt.stroke = false → exec .strokeEdge s = .next s) ∧
    (∃ u, exec (.strokeEnable true) s = .next u ∧ u.rb .flt R.FLT_STROKE_CTL 0 = true ∧ u.flt.stroke = (s.flt.stroke || s.flt.low == 0)) ∧
    (∃ u, exec (.strokeEnable false) s = .next u ∧ u.rb .flt R.FLT_STROKE_CTL 0 = false ∧ u.rb .flt R.FLT_STROKE_CTL 2 = false ∧
      u.flt.stroke = false) ∧
    (∃ u, exec .forceStop s = .next u ∧ u.flt.stroke = false ∧ u.rb .flt R.FLT_STROKE_CTL 2 = false ∧ 1 ≤ u.flt.low ∧ u.mem = s.mem) ∧
    (∀ v : W64,
      (s.expert .flt = false → ∃ u, exec (.wireInj v) s = .next u ∧ u.sticky .flt E.CTL_ACCESS ∧ u.flt = s.flt) ∧
      (s.expert .flt = true → fld v.toNat 11 0 < 4 → ∃ u, exec (.wireInj v) s = .next u ∧ u.flt = s.flt ∧
        u.rd .flt R.SH_ERR_STICKY = s.rd .flt R.SH_ERR_STICKY) ∧
      (s.expert .flt = true → 4 ≤ fld v.toNat 11 0 → fld v.toNat 13 12 = 1 ∨ fld v.toNat 13 12 = 2 →
        ∀ p, pageOfSlot (fld v.toNat 31 22 / 32) (fld v.toNat 21 14) = some p →
          ∃ u, exec (.wireInj v) s = .next u ∧ (sourceOf p (fld v.toNat 31 22 % 32), instanceOf p) ∈ u.flt.ignored))

/-- On a powered module: while a point changes a control window acts not at all. A window whose mean exceeds the cap moves every tile one point slower, at
most to point 4, and begins the change; with every tile at point 4 it lowers DUTY by 1, or where DUTY is at its least counts a miss, the tenth in a
row setting CAP_MISS. The tenth window in a row below 97 % of the cap raises a DUTY below 16 by 1. POINT_CHANGE_DONE ends the change. A reading of the
sensors with no die at 118 °C shows the power, the voltage and each compute die's temperature; one at 118 °C or above removes the rails. THERM_TRIP,
REF_LOST and a short rail excursion set their bits, a long one removes the rails; a PLL that unlocks takes its island out, ends its bit of PLL_LOCK,
where it has one, with PLL_UNLOCK, the fault island's also the stroke; the commands by which a unit of an island without lock acts then change
nothing. While fabric time is locked a drift is published, beyond 100 ppm with REF_DRIFT. Derived from R15, R18, R714, R717, R718, R721, R724, R725,
R726, R727, R729, R730. -/
def Obligations.PowerControl : Prop :=
  ∀ (s : State), s.pwr.on = true →
    let allSlow := ∀ t < 8, s.point t = 4
    (∀ mean : Nat,
      (s.pwr.moving = true → exec (.capWindow mean) s = .next s) ∧
      (s.pwr.moving = false → s.cap < mean →
        (¬ allSlow → ∃ u, exec (.capWindow mean) s = .next u ∧ u.pwr.moving = true ∧ u.duty = s.duty ∧ ∀ t < 8, u.point t = min (s.point t + 1) 4) ∧
        (allSlow → s.dutyMin < s.duty → ∃ u, exec (.capWindow mean) s = .next u ∧ u.duty = s.duty - 1 ∧ ∀ t < 8, u.point t = 4) ∧
        (allSlow → s.duty ≤ s.dutyMin → ∃ u, exec (.capWindow mean) s = .next u ∧ u.duty = s.duty ∧
          (s.pwr.above = 9 → u.pwr.above = 0 ∧ u.sticky .pwr E.PWR_CAP_MISS) ∧ (s.pwr.above ≠ 9 → u.pwr.above = s.pwr.above + 1))) ∧
      (s.pwr.moving = false → mean ≤ s.cap → mean * 100 < s.cap * 97 → 9 ≤ s.pwr.below → s.duty < 16 →
        ∃ u, exec (.capWindow mean) s = .next u ∧ u.duty = s.duty + 1 ∧ u.pwr.below = 0 ∧ ∀ t < 8, u.point t = s.point t)) ∧
    exec .pointChangeDone s = .next { s with pwr := { s.pwr with moving := false } } ∧
    (∀ (temps : List (List (Option Byte))) (w mv : BitVec 16),
      let c (k : Nat) : Int := dieTemp (if k < 8 then 4 else 2) (nth [] temps k)
      ((∀ k < 10, c k < 118) → ∃ u, exec (.sensorRead temps w mv) s = .next u ∧ u.pwr.on = true ∧ u.rf .pwr R.PWR_PWR_STATUS 63 48 = w.toNat ∧
        u.rf .pwr R.PWR_PWR_STATUS 47 32 = mv.toNat ∧ (∀ k < 8, u.rf .pwr R.PWR_DIE_TEMP_T (8 * k + 7) (8 * k) = wrap 8 (c k)) ∧ u.mem = s.mem) ∧
      (∀ k < 10, 118 ≤ c k → ∃ u, exec (.sensorRead temps w mv) s = .next u ∧ u.pwr.on = false ∧ u.mem = [])) ∧
    (∃ u, exec .thermTrip s = .next u ∧ u.sticky .pwr E.PWR_THERM_TRIP ∧ u.pwr = s.pwr) ∧
    (∃ u, exec .refLost s = .next u ∧ u.sticky .clk E.CLK_REF_LOST ∧ u.rd .clk R.CLK_PLL_LOCK = s.rd .clk R.CLK_PLL_LOCK) ∧
    (∃ u, exec (.railFault false) s = .next u ∧ u.sticky .pwr E.PWR_RAIL_FAULT ∧ u.pwr = s.pwr) ∧
    (∃ u, exec (.railFault true) s = .next u ∧ u.pwr.on = false ∧ u.pwr.en = s.pwr.en ∧ u.mem = []) ∧
    (∀ x : Island, ∃ u, exec (.pllUnlock x) s = .next u ∧ u.up x = false ∧ u.sticky .clk E.CLK_PLL_UNLOCK ∧
      (∀ b, Machine.Island.bit x = some b → u.rb .clk R.CLK_PLL_LOCK b = false) ∧ (x = .flt → u.flt.stroke = false) ∧ (x ≠ .flt → u.flt = s.flt)) ∧
    (s.up .mesh = false → exec .localMerge s = .next s) ∧
    (s.up .selaz = false → (∀ src ecc, exec (.messageForward src ecc) s = .next s) ∧ ∀ p, exec (.ackSendDeadline p) s = .next s) ∧
    (s.up .flt = false → ∀ c ∈ [Instr.errorReport true, .errorReport false, .wakeEntryWrite], exec c s = .next s) ∧
    (∀ t k stage, s.up (.tile t) = false → ∀ c ∈ [Instr.finishUpdate t k stage, .finishUpdateWritten t, .refreshCopiesDone t], exec c s = .next s) ∧
    (∀ st bad o b n, s.up (.base st) = false →
      ∀ c ∈ [Instr.catchRowRead st, .journalRoom st, .journalRecordAck st, .catchWriteAck st o, .dramRefresh ⟨st, b, n⟩, .scrub st bad], exec c s = .next s) ∧
    (∀ p f y m, s.up (.serdes p) = false → ∀ c ∈ [Instr.portTrainingDone p, .identityFlit p f y, .dataFlit p f m, .acknowledgeFlit p f, .nakFlit p f, .idleFlit p f,
      .trainingSequenceReceived p, .retrainDone p], exec c s = .next s) ∧
    (∀ off : BitVec 16,
      (s.rb .router R.ROUTER_TSYNC_STATUS 0 = false → exec (.refDrift off) s = .next s) ∧
      (s.rb .router R.ROUTER_TSYNC_STATUS 0 = true → ∃ u, exec (.refDrift off) s = .next u ∧ u.rd .clk R.CLK_REF_MON = off.toNat ∧
        (10000 < off.toInt.natAbs → u.sticky .clk E.CLK_REF_DRIFT) ∧
        (off.toInt.natAbs ≤ 10000 → u.rd .clk R.SH_ERR_STICKY = s.rd .clk R.SH_ERR_STICKY)))

/-- A rising pwr_en starts a module cold with the flash on the board: rails up, memory empty, the fused versions kept, the kind in START_STATUS 1; a
falling one removes everything but the fuses. An input that leaves its range removes the rails or sets UNDERVOLT or OVERVOLT, and within the range
changes nothing. mod_reset_n and COLD start a powered module cold in the same way, the first from the flash that the board may have written. A warm
request with no start active and WARM_VALID 0 starts it cold; with WARM_VALID 1 and WARM_FAILS below 2 warm: fuses, flash and rails stay, every PLL
has lock, the images are those of the first of the two image sets that passes, no step is left uncommitted and IMG_SEL names the set; where neither
passes, the first such failure in a row ends the start at step 3 with START_FAIL and is counted. (Which keys the module trusts is fused, so which
images pass is no choice of the model's.) Derived from R50, R713, R714, R715, R732, R735, R736, R741, R743. -/
def Obligations.ResetsAndPower : Prop :=
  ∀ (s : State),
    let cold (u : State) : Prop := u.pwr.on = true ∧ u.mem = [] ∧ u.steps = [] ∧ u.start.fused = s.start.fused ∧ u.startFld 31 28 = 1 ∧
      u.pending = s.pending
    (s.pwr.en = false → ∀ flash, ∃ u, exec (.powerOn flash) s = .next u ∧ cold u ∧ u.pwr.en = true ∧ u.start.flash = flash) ∧
    (∃ u, exec .powerOff s = .next u ∧ u.pwr.on = false ∧ u.pwr.en = false ∧ u.mem = [] ∧ u.regs = [] ∧ u.start.fused = s.start.fused) ∧
    (s.pwr.on = true →
      (∀ mv, mv < 46000 ∨ 60500 < mv → ∃ u, exec (.inputVoltageFault mv) s = .next u ∧ u.pwr.on = false ∧ u.mem = []) ∧
      (∀ mv, 46000 ≤ mv → mv < 48000 → ∃ u, exec (.inputVoltageFault mv) s = .next u ∧ u.pwr = s.pwr ∧ u.sticky .pwr E.PWR_UNDERVOLT) ∧
      (∀ mv, 59500 < mv → mv ≤ 60500 → ∃ u, exec (.inputVoltageFault mv) s = .next u ∧ u.pwr = s.pwr ∧ u.sticky .pwr E.PWR_OVERVOLT) ∧
      (∀ mv, 48000 ≤ mv → mv ≤ 59500 → exec (.inputVoltageFault mv) s = .next s) ∧
      (∀ flash, ∃ u, exec (.modReset flash) s = .next u ∧ cold u ∧ u.start.flash = flash.getD s.start.flash) ∧
      (∃ u, exec .coldRequest s = .next u ∧ cold u ∧ u.start.flash = s.start.flash) ∧
      ∀ c ∈ [Instr.warmReset, .warmRequest],
        (s.start.active = false → s.startFld 2 2 = 0 → ∃ u, exec c s = .next u ∧ cold u) ∧
        (s.start.active = false → s.startFld 2 2 = 1 → s.startFld 1 0 < 2 → ∃ u v, exec c s = .next u ∧ u.pending = s.pending ∧
          u.start.fused = s.start.fused ∧ u.start.flash = s.start.flash ∧
          let ok (l : List (Nat × List Byte)) (sel : Nat) : Prop := u.pwr = { s.pwr with lost := [] } ∧ u.startFld 31 28 = 2 ∧ u.startFld 27 24 = 4 ∧ u.startFld 3 3 = sel ∧
            u.start.images = l ∧ u.steps = []
          match s.bootSet false v, s.bootSet true v with
          | .ok l, _ => ok l 0
          | .error _, .ok l => ok l 1
          | .error _, .error code => s.startFld 1 0 = 0 → u.pwr = { s.pwr with lost := [] } ∧ u.start.active = false ∧ u.startFld 27 24 = 3 ∧ u.startFld 23 16 = code ∧
              u.startFld 1 0 = 1 ∧ u.start.images = [] ∧ u.sticky .mod E.MOD_START_FAIL))

/-- On a powered module: a failure of a step of a start in progress that is not warm ends it with the step, the code and the unit in START_STATUS and
START_FAIL set; without a start in progress it changes nothing. The completion of a start shows step 8 and code 0, sets WARM_VALID and clears
WARM_FAILS. REQ with room for the report in the host region and none in progress (and measurements of 48 bytes) clears DONE and begins a report of 608
bytes whose first 512 are those of R752; otherwise it sets ATT_BAD. Its end writes the report, on stacks without a fence, and sets DONE. That the
report says what the module is at the request is log entry 42 (DEDUCED). Derived from R736, R737, R740, R741, R751, R752. -/
def Obligations.StartsAndAttestation : Prop :=
  ∀ (s : State), s.pwr.on = true →
    (∀ (step : Fin 8) (code unit : Byte), step.val ≠ 0 → 1 ≤ code.toNat → code.toNat ≤ 8 →
      (s.start.active = false → exec (.startStepTimeout step code unit) s = .next s) ∧
      (s.start.active = true → s.startFld 31 28 ≠ 2 → ∃ u, exec (.startStepTimeout step code unit) s = .next u ∧ u.start.active = false ∧
        u.startFld 27 24 = step.val ∧ u.startFld 23 16 = code.toNat ∧ u.startFld 15 8 = unit.toNat ∧ u.sticky .mod E.MOD_START_FAIL)) ∧
    (s.start.active = false → exec .startComplete s = .next s) ∧
    (s.start.active = true → ∃ u, exec .startComplete s = .next u ∧ u.start.active = false ∧ u.startDone = true ∧ u.startFld 23 16 = 0 ∧
      u.startFld 2 2 = 1 ∧ u.startFld 1 0 = 0) ∧
    (let a := s.rd .mod R.MOD_ATT_ADDR
     (s.start.att = none → s.inHost a 608 = true → (∀ e ∈ s.start.images, e.2.length = 48) → ∃ u b, exec .attReq s = .next u ∧ u.start.att = some (a, b) ∧ b.length = 608 ∧
        b.take 512 = s.reportBody ∧ u.rb .mod R.MOD_ATT_CTL 1 = false) ∧
     (¬ (s.start.att = none ∧ s.inHost a 608 = true) → ∃ u, exec .attReq s = .next u ∧ u.start = s.start ∧ u.sticky .mod E.MOD_ATT_BAD)) ∧
    (∀ a b, s.start.att = some (a, b) → a + b.length ≤ s.hbmTop → (s.stacksAt a b.length).any s.stackFenced = false →
      ∃ u, exec .attestationDone s = .next u ∧ u.start.att = none ∧ u.rb .mod R.MOD_ATT_CTL 1 = true ∧ u.hbmRead a b.length = b)

/-- On a powered module: a management read of an index of the mirror is answered with its value, any other index and every write is not acknowledged; a
dynamic address is taken. Every boundary-scan instruction loads its opcode, IDCODE and test-logic reset the IDCODE of a B0 module, BYPASS any opcode
that the table does not list. REG_ACCESS ends with STATUS 2 until step 1 of a start has completed, and then with the data and the status of its
access; a capture shows data and status of the most recent access. These change nothing but the TAP and the management target, REG_ACCESS apart. That
the boundary cells are not modelled is said under Scope. Derived from R39, R40, R768, R769, R770, R771, R772, R774. -/
def Obligations.TapAndManagement : Prop :=
  ∀ (s : State), s.pwr.on = true →
    (∀ i : Byte, exec (.mgmtRead i) s = .next { s with mgmt := { s.mgmt with answer := (s.mirror i.toNat).map (BitVec.ofNat 64) } }) ∧
    (∀ i, (s.mirror i).isSome = true ↔ i < 8) ∧
    (∀ bs, exec (.mgmtWrite bs) s = .next { s with mgmt := { s.mgmt with answer := none } }) ∧
    (∀ a, exec (.dynamicAddressAssign a) s = .next { s with mgmt := { s.mgmt with dynamic := some a } }) ∧
    (∀ e ∈ [(Instr.extest, 0x00#8), (.samplePreload, 0x02#8), (.clamp, 0x04#8), (.highz, 0x05#8), (.extestPulse, 0x06#8), (.extestTrain, 0x07#8)],
      exec e.1 s = .next { s with tap := { s.tap with ir := e.2 } }) ∧
    (∀ c ∈ [Instr.idcode, .testLogicReset], exec c s = .next { s with tap := { s.tap with ir := 0x01, dr := 0x1483274B#96 } }) ∧
    (∀ op : Byte, op ∉ tapOpcodes → exec (.bypass op) s = .next { s with tap := { s.tap with ir := op } }) ∧
    (∀ dr : BitVec 96, let s1 : State := { s with tap := { s.tap with ir := 0x20, dr := dr } }
      (s.startFld 27 24 < 2 → exec (.regAccess dr) s = .next { s1 with tap := { s1.tap with data := 0, status := 2 } }) ∧
      (2 ≤ s.startFld 27 24 → ∃ u, exec (.regAccess dr) s = .next u ∧
        let r := (s1.regAccess (fld dr.toNat 27 0) (dr.getLsbD 31) (dr.getLsbD 30) (BitVec.ofNat 64 (fld dr.toNat 95 32))).2
        u.tap.data = r.data ∧ u.tap.status = if r.ok then 0 else 2)) ∧
    (∃ u, exec .regAccessCapture s = .next u ∧ fld u.tap.dr.toNat 95 32 = s.tap.data.toNat ∧ fld u.tap.dr.toNat 29 28 = s.tap.status.toNat ∧
      u = { s with tap := u.tap })

/-- For every command and every state the model answers a next state, in which the queue is as it was. For every state without power, every command but
POWER_ON and POWER_OFF leaves the state as it is. These are the model's own reading (log entry 2, DESIGN CHOICE): the spec gives a module without
power no command. Derived from R713, R714, R715, R736. -/
def Obligations.UnpoweredIdle : Prop :=
  (∀ (c : Instr) (s : State), ∃ u, exec c s = .next u ∧ u.pending = s.pending) ∧
  (∀ (c : Instr) (s : State), s.pwr.on = false → (∀ f, c ≠ .powerOn f) → c ≠ .powerOff → exec c s = .next s)

/-- For every state in which rails are up only while pwr_en is high and, without rails, no register, memory byte, tile SRAM byte, step, train, report or
image is held, every step that answers a next state leaves one in which the same holds. Derived from R713, R714, R715, R732. -/
def Obligations.PowerInvariant : Prop :=
  ∀ (s u : State), s.PowerInv → step s = .next u → u.PowerInv

/-- State.reset meets the invariant that every step keeps. Derived from R713, R714, R715. -/
def Obligations.ResetMeetsPowerInvariant : Prop := State.reset.PowerInv

/-- On a powered module, COMMIT after a complete start raises each type's fused SVN to the accepted image's (a fused SVN has 8 bits) wherever that is
higher and changes no other register or memory; before a complete start it leaves the fuses and sets SVN_BAD. For every state, a step that answers a
next state leaves each of the five fused SVNs at least what it was, and changes none before a start has completed. States R749. -/
def Obligations.FusedVersionsNeverFall : Prop :=
  (∀ s : State, s.pwr.on = true →
    (s.startDone = true → ∃ u, exec .svnCommit s = .next u ∧ u.regs = s.regs ∧ u.mem = s.mem ∧
      ∀ k < 5, (nth (0, []) s.start.images k).1 < 256 →
        fld u.svnFuse.toNat (8 * k + 7) (8 * k) = max (fld s.svnFuse.toNat (8 * k + 7) (8 * k)) (nth (0, []) s.start.images k).1) ∧
    (s.startDone = false → ∃ u, exec .svnCommit s = .next u ∧ u.start = s.start ∧ u.sticky .mod E.MOD_SVN_BAD)) ∧
  ∀ (s u : State), step s = .next u →
    (∀ k < 5, fld s.svnFuse.toNat (8 * k + 7) (8 * k) ≤ fld u.svnFuse.toNat (8 * k + 7) (8 * k)) ∧
    (s.startDone = false → u.svnFuse = s.svnFuse)
end

