-- ==== Sys2Proof/Laws/SMap.lean ====
section
/-! SUPPORT. Laws of the sparse maps and byte memories: what a read gives after a write, and that every operation keeps the
canonical form. -/

namespace Sys2Proof.Machine

variable {α : Type}

/-! Reads after writes. -/

theorem SMap.get_append_of_not_mem (d : Nat → α) (l m : List (Nat × α)) (k : Nat) (h : ∀ e ∈ l, e.1 ≠ k) :
    SMap.get d (l ++ m) k = SMap.get d m k := by
  induction l with
  | nil => rfl
  | cons e r ih =>
    have h1 : e.1 ≠ k := h e (by simp)
    have h2 : ∀ e ∈ r, e.1 ≠ k := fun x hx => h x (by simp [hx])
    simp [SMap.get, h1, ih h2]

theorem SMap.get_of_not_mem (d : Nat → α) (l : List (Nat × α)) (k : Nat) (h : ∀ e ∈ l, e.1 ≠ k) : SMap.get d l k = d k := by
  induction l with
  | nil => rfl
  | cons e r ih =>
    have h1 : e.1 ≠ k := h e (by simp)
    simp [SMap.get, h1, ih (fun x hx => h x (by simp [hx]))]

/-- A filter by keys leaves the reads of the keys that pass. -/
theorem SMap.get_filter_of_pass (d : Nat → α) (l : List (Nat × α)) (p : Nat → Bool) (k : Nat) (h : p k = true) :
    SMap.get d (l.filter (fun e => p e.1)) k = SMap.get d l k := by
  induction l with
  | nil => rfl
  | cons e r ih =>
    by_cases hk : e.1 = k
    · subst hk; simp [List.filter, h, SMap.get]
    · by_cases hp : p e.1 = true
      · simp [List.filter, hp, SMap.get, hk, ih]
      · simp [List.filter, hp, SMap.get, hk, ih]

theorem SMap.get_erase_same (d : Nat → α) (m : List (Nat × α)) (k : Nat) : SMap.get d (SMap.erase m k) k = d k :=
  SMap.get_of_not_mem d _ k (fun e he => by simp [SMap.erase] at he; exact he.2)

theorem SMap.get_erase_ne (d : Nat → α) (m : List (Nat × α)) (k j : Nat) (h : j ≠ k) :
    SMap.get d (SMap.erase m k) j = SMap.get d m j :=
  SMap.get_filter_of_pass d m (fun x => !(x == k)) j (by simp [h])

theorem SMap.get_put (d : Nat → α) (m : List (Nat × α)) (k j : Nat) (v : α) :
    SMap.get d (SMap.put m k v) j = if j = k then v else SMap.get d m j := by
  induction m with
  | nil =>
    by_cases h : j = k
    · simp [SMap.put, SMap.get, h]
    · have : ¬ k = j := fun x => h x.symm
      simp [SMap.put, SMap.get, h, this]
  | cons e r ih =>
    simp only [SMap.put]
    split
    · rename_i h1
      by_cases h : j = k
      · simp [SMap.get, h]
      · have : ¬ k = j := fun x => h x.symm
        simp [SMap.get, h, this, h1]
    · split
      · by_cases h : j = k
        · simp [SMap.get, h]
        · have : ¬ k = j := fun x => h x.symm
          simp [SMap.get, h, this]
      · rename_i h1 _
        by_cases h : j = k
        · subst h; simp [SMap.get, h1, ih]
        · simp [SMap.get, h, ih]

/-- A read after a write: the value at that key, every other key as before. -/
theorem SMap.get_set [DecidableEq α] (d : Nat → α) (m : List (Nat × α)) (k j : Nat) (v : α) :
    SMap.get d (SMap.set d m k v) j = if j = k then v else SMap.get d m j := by
  unfold SMap.set
  split
  · rename_i hv
    by_cases h : j = k
    · subst h; simp [SMap.get_erase_same, hv]
    · simp [SMap.get_erase_ne, h]
  · exact SMap.get_put d m k j v

@[simp] theorem SMap.get_set_same [DecidableEq α] (d : Nat → α) (m : List (Nat × α)) (k : Nat) (v : α) :
    SMap.get d (SMap.set d m k v) k = v := by simp [SMap.get_set]

theorem SMap.get_set_ne [DecidableEq α] (d : Nat → α) (m : List (Nat × α)) (k j : Nat) (v : α) (h : j ≠ k) :
    SMap.get d (SMap.set d m k v) j = SMap.get d m j := by simp [SMap.get_set, h]

/-! The canonical form. -/

/-- The lower bound that SMap.above starts from. -/
def SMap.Above (lo : Option Nat) (k : Nat) : Prop := match lo with | none => True | some l => l < k

theorem SMap.above_cons (lo : Option Nat) (e : Nat × α) (r : List (Nat × α)) :
    SMap.above lo (e :: r) = true ↔ SMap.Above lo e.1 ∧ SMap.above (some e.1) r = true := by
  cases lo <;> simp [SMap.above, SMap.Above]

theorem SMap.above_mono {lo : Option Nat} {l : Nat} {m : List (Nat × α)} (h : SMap.above (some l) m = true)
    (hl : SMap.Above lo l) : SMap.above lo m = true := by
  cases m with
  | nil => rfl
  | cons e r =>
    rw [SMap.above_cons] at h ⊢
    refine ⟨?_, h.2⟩
    cases lo with
    | none => trivial
    | some l' => exact Nat.lt_trans hl h.1

theorem SMap.above_filter {lo : Option Nat} {m : List (Nat × α)} (p : Nat × α → Bool) (h : SMap.above lo m = true) :
    SMap.above lo (m.filter p) = true := by
  induction m generalizing lo with
  | nil => rfl
  | cons e r ih =>
    rw [SMap.above_cons] at h
    simp only [List.filter]
    split
    · rw [SMap.above_cons]; exact ⟨h.1, ih h.2⟩
    · exact ih (SMap.above_mono h.2 h.1)

theorem SMap.above_put {lo : Option Nat} {m : List (Nat × α)} {k : Nat} {v : α} (h : SMap.above lo m = true)
    (hk : SMap.Above lo k) : SMap.above lo (SMap.put m k v) = true := by
  induction m generalizing lo with
  | nil => simp only [SMap.put]; rw [SMap.above_cons]; exact ⟨hk, rfl⟩
  | cons e r ih =>
    rw [SMap.above_cons] at h
    simp only [SMap.put]
    split
    · rename_i h1; rw [SMap.above_cons]; exact ⟨hk, h1 ▸ h.2⟩
    · split
      · rename_i h2; rw [SMap.above_cons]; refine ⟨hk, ?_⟩; rw [SMap.above_cons]; exact ⟨h2, h.2⟩
      · rename_i h1 h2
        rw [SMap.above_cons]
        exact ⟨h.1, ih h.2 (show e.1 < k by omega)⟩

theorem SMap.mem_put {m : List (Nat × α)} {k : Nat} {v : α} {e : Nat × α} (h : e ∈ SMap.put m k v) : e = (k, v) ∨ e ∈ m := by
  induction m with
  | nil => simpa [SMap.put] using h
  | cons x r ih =>
    simp only [SMap.put] at h
    split at h
    · rcases List.mem_cons.mp h with h | h
      · exact .inl h
      · exact .inr (by simp [h])
    · split at h
      · rcases List.mem_cons.mp h with h | h
        · exact .inl h
        · exact .inr h
      · rcases List.mem_cons.mp h with h | h
        · exact .inr (by simp [h])
        · rcases ih h with h | h
          · exact .inl h
          · exact .inr (by simp [h])

/-- A write keeps the canonical form. -/
theorem SMap.wf_set [DecidableEq α] (d : Nat → α) (m : List (Nat × α)) (k : Nat) (v : α) (h : SMap.wf d m = true) :
    SMap.wf d (SMap.set d m k v) = true := by
  simp only [SMap.wf, Bool.and_eq_true, List.all_eq_true, decide_eq_true_eq] at h ⊢
  unfold SMap.set
  split
  · exact ⟨SMap.above_filter _ h.1, fun e he => h.2 e (List.mem_filter.mp he).1⟩
  · rename_i hv
    refine ⟨SMap.above_put h.1 trivial, fun e he => ?_⟩
    rcases SMap.mem_put he with rfl | he
    · exact hv
    · exact h.2 e he

theorem SMap.wf_setAll [DecidableEq α] (d : Nat → α) (es : List (Nat × α)) (m : List (Nat × α)) (h : SMap.wf d m = true) :
    SMap.wf d (SMap.setAll d m es) = true := by
  unfold SMap.setAll
  induction es generalizing m with
  | nil => exact h
  | cons e r ih => exact ih _ (SMap.wf_set d m e.1 e.2 h)

/-! Byte memories. -/

theorem Mem.mem_cellsOf {a : Nat} {bs : List Byte} {e : Host.Cell} (h : e ∈ Mem.cellsOf a bs) :
    a ≤ e.1 ∧ e.1 < a + bs.length ∧ e.2 ≠ 0#8 := by
  induction bs generalizing a with
  | nil => simp [Mem.cellsOf] at h
  | cons b r ih =>
    simp only [Mem.cellsOf] at h
    split at h
    · have := ih h; simp only [List.length_cons]; exact ⟨by omega, by omega, this.2.2⟩
    · rename_i hb
      rcases List.mem_cons.mp h with rfl | h
      · simp only [List.length_cons]; exact ⟨Nat.le_refl _, by omega, hb⟩
      · have := ih h; simp only [List.length_cons]; exact ⟨by omega, by omega, this.2.2⟩

theorem Mem.get_cellsOf (a : Nat) (bs : List Byte) (m : List Host.Cell) (i : Nat) (h : i < bs.length)
    (hm : ∀ e ∈ m, a + bs.length ≤ e.1) : Mem.get (Mem.cellsOf a bs ++ m) (a + i) = bs[i] := by
  induction bs generalizing a i with
  | nil => simp at h
  | cons b r ih =>
    cases i with
    | zero =>
      simp only [Mem.cellsOf]
      split
      · rename_i hb
        subst hb
        unfold Mem.get
        rw [SMap.get_of_not_mem]
        · rfl
        · intro e he
          rcases List.mem_append.mp he with he | he
          · have := (Mem.mem_cellsOf he).1; omega
          · have := hm e he; simp at this; omega
      · simp [Mem.get, SMap.get]
    | succ j =>
      have hj : j < r.length := by simpa using h
      have key := ih (a + 1) j hj (fun e he => by have := hm e he; simp at this; omega)
      have e1 : a + (j + 1) = a + 1 + j := by omega
      simp only [Mem.cellsOf]
      split
      · rw [e1]; simpa using key
      · unfold Mem.get at key ⊢
        rw [e1]
        have : ¬ a = a + 1 + j := by omega
        simpa [SMap.get, this] using key

/-- A read after a write: the byte stored. -/
theorem Mem.get_write_in (m : List Host.Cell) (a : Nat) (bs : List Byte) (i : Nat) (h : i < bs.length) :
    Mem.get (Mem.write m a bs) (a + i) = bs[i] := by
  unfold Mem.write
  rw [List.append_assoc]
  have := Mem.get_cellsOf a bs (m.filter (fun c => decide (a + bs.length ≤ c.1))) i h
    (fun e he => by simpa using (List.mem_filter.mp he).2)
  unfold Mem.get at this ⊢
  rw [SMap.get_append_of_not_mem]
  · exact this
  · intro e he
    have : e.1 < a := by simpa using (List.mem_filter.mp he).2
    omega

/-- A byte outside the bytes stored reads as before. -/
theorem Mem.get_write_out (m : List Host.Cell) (a : Nat) (bs : List Byte) (b : Nat) (h : b < a ∨ a + bs.length ≤ b) :
    Mem.get (Mem.write m a bs) b = Mem.get m b := by
  unfold Mem.write Mem.get
  rcases h with h | h
  · rw [List.append_assoc]
    have hp : SMap.get zeroByte (m.filter (fun c => decide (c.1 < a))) b = SMap.get zeroByte m b :=
      SMap.get_filter_of_pass zeroByte m (fun x => decide (x < a)) b (by simp [h])
    rw [← hp]
    generalize hl : m.filter (fun c => decide (c.1 < a)) = l
    have hr : ∀ e ∈ Mem.cellsOf a bs ++ m.filter (fun c => decide (a + bs.length ≤ c.1)), e.1 ≠ b := by
      intro e he
      rcases List.mem_append.mp he with he | he
      · have := (Mem.mem_cellsOf he).1; omega
      · have : a + bs.length ≤ e.1 := by simpa using (List.mem_filter.mp he).2
        omega
    clear hl hp
    induction l with
    | nil => simpa [SMap.get] using SMap.get_of_not_mem zeroByte _ b hr
    | cons x r ih =>
      simp only [List.cons_append, SMap.get]
      split
      · rfl
      · exact ih
  · rw [SMap.get_append_of_not_mem]
    · exact SMap.get_filter_of_pass zeroByte m (fun x => decide (a + bs.length ≤ x)) b (by simp [h])
    · intro e he
      rcases List.mem_append.mp he with he | he
      · have : e.1 < a := by simpa using (List.mem_filter.mp he).2
        omega
      · have := (Mem.mem_cellsOf he).2.1; omega

theorem SMap.above_append {lo : Option Nat} {l m : List (Nat × α)} (h1 : SMap.above lo l = true) (h2 : SMap.above lo m = true)
    (h : ∀ e ∈ l, ∀ f ∈ m, e.1 < f.1) : SMap.above lo (l ++ m) = true := by
  induction l generalizing lo with
  | nil => exact h2
  | cons e r ih =>
    rw [SMap.above_cons] at h1
    rw [List.cons_append, SMap.above_cons]
    refine ⟨h1.1, ih h1.2 ?_ (fun x hx f hf => h x (by simp [hx]) f hf)⟩
    cases m with
    | nil => rfl
    | cons f q =>
      rw [SMap.above_cons] at h2 ⊢
      exact ⟨h e (by simp) f (by simp), h2.2⟩

theorem Mem.above_cellsOf (a : Nat) (bs : List Byte) (lo : Option Nat) (h : SMap.Above lo a) :
    SMap.above lo (Mem.cellsOf a bs) = true := by
  induction bs generalizing a lo with
  | nil => rfl
  | cons b r ih =>
    have up : SMap.Above lo (a + 1) := by
      cases lo with
      | none => trivial
      | some l => exact Nat.lt_succ_of_lt h
    simp only [Mem.cellsOf]
    split
    · exact ih (a + 1) lo up
    · rw [SMap.above_cons]; exact ⟨h, ih (a + 1) (some a) (Nat.lt_succ_self a)⟩

/-- A store keeps the canonical form of a memory. -/
theorem Memory.wf_write (m : List Host.Cell) (a : Nat) (bs : List Byte) (h : Memory.wf m = true) :
    Memory.wf (Mem.write m a bs) = true := by
  simp only [Memory.wf, SMap.wf, Bool.and_eq_true, List.all_eq_true, decide_eq_true_eq] at h ⊢
  unfold Mem.write
  constructor
  · refine SMap.above_append (SMap.above_append (SMap.above_filter _ h.1) (Mem.above_cellsOf a bs none trivial) ?_)
      (SMap.above_filter _ h.1) ?_
    · intro e he f hf
      have h1 : e.1 < a := by simpa using (List.mem_filter.mp he).2
      have := (Mem.mem_cellsOf hf).1
      omega
    · intro e he f hf
      have hf : a + bs.length ≤ f.1 := by simpa using (List.mem_filter.mp hf).2
      rcases List.mem_append.mp he with he | he
      · have h1 : e.1 < a := by simpa using (List.mem_filter.mp he).2
        omega
      · have := (Mem.mem_cellsOf he).2.1; omega
  · intro e he
    rcases List.mem_append.mp he with he | he
    · rcases List.mem_append.mp he with he | he
      · exact h.2 e (List.mem_filter.mp he).1
      · exact (Mem.mem_cellsOf he).2.2
    · exact h.2 e (List.mem_filter.mp he).1

/-- The memories of State.reset have the canonical form. -/
theorem State.reset_memory : Memory.wf State.reset.mem = true ∧ Memory.wf State.reset.tsram = true := by decide

/-- Stores of every memory keep the form. -/
theorem State.hbmWrite_wf (s : State) (a : Nat) (bs : List Byte) (h : Memory.wf s.mem = true) : Memory.wf (s.hbmWrite a bs).mem = true :=
  Memory.wf_write s.mem a bs h

theorem State.tsramWrite_wf (s : State) (t o : Nat) (bs : List Byte) (h : Memory.wf s.tsram = true) :
    Memory.wf (s.tsramWrite t o bs).tsram = true :=
  Memory.wf_write s.tsram _ bs h

end Sys2Proof.Machine
end

