-- ==== Sys2Proof/Laws/State.lean ====
section
/-! SUPPORT. Laws of the state: which fields each named update leaves as they are, what a register, a core, a tile or a thread reads as after
a write, and how the wrappers of exec answer. -/

namespace Sys2Proof.Machine

/-- What wr leaves as it is. -/
@[simp] theorem State.wr_keeps (s : State) (p : Page) (off v : Nat) :
    (s.wr p off v).pending = s.pending ∧ (s.wr p off v).freeCtr = s.freeCtr ∧ (s.wr p off v).latches = s.latches ∧
    (s.wr p off v).lastResp = s.lastResp ∧ (s.wr p off v).tables = s.tables ∧ (s.wr p off v).mem = s.mem ∧
    (s.wr p off v).memErr = s.memErr ∧ (s.wr p off v).tsram = s.tsram ∧ (s.wr p off v).tsramUe = s.tsramUe ∧
    (s.wr p off v).cores = s.cores ∧ (s.wr p off v).coxes = s.coxes ∧ (s.wr p off v).featherOpen = s.featherOpen ∧
    (s.wr p off v).featherHist = s.featherHist ∧ (s.wr p off v).seeds = s.seeds ∧ (s.wr p off v).reports = s.reports ∧
    (s.wr p off v).fabTime = s.fabTime ∧ (s.wr p off v).steps = s.steps ∧ (s.wr p off v).ump = s.ump ∧ (s.wr p off v).flt = s.flt ∧
    (s.wr p off v).earlyFail = s.earlyFail ∧ (s.wr p off v).loanReqs = s.loanReqs ∧ (s.wr p off v).nextTag = s.nextTag ∧
    (s.wr p off v).rings = s.rings ∧ (s.wr p off v).irqs = s.irqs ∧ (s.wr p off v).linkDown = s.linkDown ∧ (s.wr p off v).d2d = s.d2d ∧
    (s.wr p off v).lastDevice = s.lastDevice ∧ (s.wr p off v).lastRead = s.lastRead ∧ (s.wr p off v).inject = s.inject ∧
    (s.wr p off v).catches = s.catches ∧ (s.wr p off v).tdescs = s.tdescs ∧ (s.wr p off v).hrd = s.hrd ∧
    (s.wr p off v).remoteReads = s.remoteReads ∧ (s.wr p off v).children = s.children ∧ (s.wr p off v).bars = s.bars ∧
    (s.wr p off v).arrived = s.arrived ∧ (s.wr p off v).fins = s.fins ∧ (s.wr p off v).chain = s.chain ∧
    (s.wr p off v).ports = s.ports ∧ (s.wr p off v).syncRun = s.syncRun ∧ (s.wr p off v).tsyncEdges = s.tsyncEdges ∧
    (s.wr p off v).pwr = s.pwr ∧ (s.wr p off v).start = s.start ∧ (s.wr p off v).tap = s.tap ∧ (s.wr p off v).mgmt = s.mgmt ∧
    (s.wr p off v).fabSize = s.fabSize ∧ (s.wr p off v).remotes = s.remotes :=
  ⟨rfl, rfl, rfl, rfl, rfl, rfl, rfl, rfl, rfl, rfl, rfl, rfl, rfl, rfl, rfl, rfl, rfl, rfl, rfl, rfl, rfl, rfl, rfl, rfl, rfl, rfl, rfl, rfl, rfl, rfl, rfl, rfl, rfl, rfl, rfl, rfl, rfl, rfl, rfl, rfl, rfl, rfl, rfl, rfl, rfl, rfl, rfl⟩

/-- What wf leaves as it is. -/
@[simp] theorem State.wf_keeps (s : State) (p : Page) (off hi lo v : Nat) :
    (s.wf p off hi lo v).pending = s.pending ∧ (s.wf p off hi lo v).freeCtr = s.freeCtr ∧ (s.wf p off hi lo v).latches = s.latches ∧
    (s.wf p off hi lo v).lastResp = s.lastResp ∧ (s.wf p off hi lo v).tables = s.tables ∧ (s.wf p off hi lo v).mem = s.mem ∧
    (s.wf p off hi lo v).memErr = s.memErr ∧ (s.wf p off hi lo v).tsram = s.tsram ∧ (s.wf p off hi lo v).tsramUe = s.tsramUe ∧
    (s.wf p off hi lo v).cores = s.cores ∧ (s.wf p off hi lo v).coxes = s.coxes ∧ (s.wf p off hi lo v).featherOpen = s.featherOpen ∧
    (s.wf p off hi lo v).featherHist = s.featherHist ∧ (s.wf p off hi lo v).seeds = s.seeds ∧
    (s.wf p off hi lo v).reports = s.reports ∧ (s.wf p off hi lo v).fabTime = s.fabTime ∧ (s.wf p off hi lo v).steps = s.steps ∧
    (s.wf p off hi lo v).ump = s.ump ∧ (s.wf p off hi lo v).flt = s.flt ∧ (s.wf p off hi lo v).earlyFail = s.earlyFail ∧
    (s.wf p off hi lo v).loanReqs = s.loanReqs ∧ (s.wf p off hi lo v).nextTag = s.nextTag ∧ (s.wf p off hi lo v).rings = s.rings ∧
    (s.wf p off hi lo v).irqs = s.irqs ∧ (s.wf p off hi lo v).linkDown = s.linkDown ∧ (s.wf p off hi lo v).d2d = s.d2d ∧
    (s.wf p off hi lo v).lastDevice = s.lastDevice ∧ (s.wf p off hi lo v).lastRead = s.lastRead ∧
    (s.wf p off hi lo v).inject = s.inject ∧ (s.wf p off hi lo v).catches = s.catches ∧ (s.wf p off hi lo v).tdescs = s.tdescs ∧
    (s.wf p off hi lo v).hrd = s.hrd ∧ (s.wf p off hi lo v).remoteReads = s.remoteReads ∧ (s.wf p off hi lo v).children = s.children ∧
    (s.wf p off hi lo v).bars = s.bars ∧ (s.wf p off hi lo v).arrived = s.arrived ∧ (s.wf p off hi lo v).fins = s.fins ∧
    (s.wf p off hi lo v).chain = s.chain ∧ (s.wf p off hi lo v).ports = s.ports ∧ (s.wf p off hi lo v).syncRun = s.syncRun ∧
    (s.wf p off hi lo v).tsyncEdges = s.tsyncEdges ∧ (s.wf p off hi lo v).pwr = s.pwr ∧ (s.wf p off hi lo v).start = s.start ∧
    (s.wf p off hi lo v).tap = s.tap ∧ (s.wf p off hi lo v).mgmt = s.mgmt ∧
    (s.wf p off hi lo v).fabSize = s.fabSize ∧ (s.wf p off hi lo v).remotes = s.remotes :=
  ⟨rfl, rfl, rfl, rfl, rfl, rfl, rfl, rfl, rfl, rfl, rfl, rfl, rfl, rfl, rfl, rfl, rfl, rfl, rfl, rfl, rfl, rfl, rfl, rfl, rfl, rfl, rfl, rfl, rfl, rfl, rfl, rfl, rfl, rfl, rfl, rfl, rfl, rfl, rfl, rfl, rfl, rfl, rfl, rfl, rfl, rfl, rfl⟩

/-- What wb leaves as it is. -/
@[simp] theorem State.wb_keeps (s : State) (p : Page) (off n : Nat) (b : Bool) :
    (s.wb p off n b).pending = s.pending ∧ (s.wb p off n b).freeCtr = s.freeCtr ∧ (s.wb p off n b).latches = s.latches ∧
    (s.wb p off n b).lastResp = s.lastResp ∧ (s.wb p off n b).tables = s.tables ∧ (s.wb p off n b).mem = s.mem ∧
    (s.wb p off n b).memErr = s.memErr ∧ (s.wb p off n b).tsram = s.tsram ∧ (s.wb p off n b).tsramUe = s.tsramUe ∧
    (s.wb p off n b).cores = s.cores ∧ (s.wb p off n b).coxes = s.coxes ∧ (s.wb p off n b).featherOpen = s.featherOpen ∧
    (s.wb p off n b).featherHist = s.featherHist ∧ (s.wb p off n b).seeds = s.seeds ∧ (s.wb p off n b).reports = s.reports ∧
    (s.wb p off n b).fabTime = s.fabTime ∧ (s.wb p off n b).steps = s.steps ∧ (s.wb p off n b).ump = s.ump ∧
    (s.wb p off n b).flt = s.flt ∧ (s.wb p off n b).earlyFail = s.earlyFail ∧ (s.wb p off n b).loanReqs = s.loanReqs ∧
    (s.wb p off n b).nextTag = s.nextTag ∧ (s.wb p off n b).rings = s.rings ∧ (s.wb p off n b).irqs = s.irqs ∧
    (s.wb p off n b).linkDown = s.linkDown ∧ (s.wb p off n b).d2d = s.d2d ∧ (s.wb p off n b).lastDevice = s.lastDevice ∧
    (s.wb p off n b).lastRead = s.lastRead ∧ (s.wb p off n b).inject = s.inject ∧ (s.wb p off n b).catches = s.catches ∧
    (s.wb p off n b).tdescs = s.tdescs ∧ (s.wb p off n b).hrd = s.hrd ∧ (s.wb p off n b).remoteReads = s.remoteReads ∧
    (s.wb p off n b).children = s.children ∧ (s.wb p off n b).bars = s.bars ∧ (s.wb p off n b).arrived = s.arrived ∧
    (s.wb p off n b).fins = s.fins ∧ (s.wb p off n b).chain = s.chain ∧ (s.wb p off n b).ports = s.ports ∧
    (s.wb p off n b).syncRun = s.syncRun ∧ (s.wb p off n b).tsyncEdges = s.tsyncEdges ∧ (s.wb p off n b).pwr = s.pwr ∧
    (s.wb p off n b).start = s.start ∧ (s.wb p off n b).tap = s.tap ∧ (s.wb p off n b).mgmt = s.mgmt ∧
    (s.wb p off n b).fabSize = s.fabSize ∧ (s.wb p off n b).remotes = s.remotes :=
  ⟨rfl, rfl, rfl, rfl, rfl, rfl, rfl, rfl, rfl, rfl, rfl, rfl, rfl, rfl, rfl, rfl, rfl, rfl, rfl, rfl, rfl, rfl, rfl, rfl, rfl, rfl, rfl, rfl, rfl, rfl, rfl, rfl, rfl, rfl, rfl, rfl, rfl, rfl, rfl, rfl, rfl, rfl, rfl, rfl, rfl, rfl, rfl⟩

/-- What fresh leaves as it is. -/
@[simp] theorem State.fresh_keeps (s : State) :
    (s.fresh.2).pending = s.pending ∧ (s.fresh.2).regs = s.regs ∧ (s.fresh.2).latches = s.latches ∧ (s.fresh.2).lastResp = s.lastResp ∧
    (s.fresh.2).tables = s.tables ∧ (s.fresh.2).mem = s.mem ∧ (s.fresh.2).memErr = s.memErr ∧ (s.fresh.2).tsram = s.tsram ∧
    (s.fresh.2).tsramUe = s.tsramUe ∧ (s.fresh.2).cores = s.cores ∧ (s.fresh.2).coxes = s.coxes ∧
    (s.fresh.2).featherOpen = s.featherOpen ∧ (s.fresh.2).featherHist = s.featherHist ∧ (s.fresh.2).seeds = s.seeds ∧
    (s.fresh.2).reports = s.reports ∧ (s.fresh.2).fabTime = s.fabTime ∧ (s.fresh.2).steps = s.steps ∧ (s.fresh.2).ump = s.ump ∧
    (s.fresh.2).flt = s.flt ∧ (s.fresh.2).earlyFail = s.earlyFail ∧ (s.fresh.2).loanReqs = s.loanReqs ∧
    (s.fresh.2).nextTag = s.nextTag ∧ (s.fresh.2).rings = s.rings ∧ (s.fresh.2).irqs = s.irqs ∧ (s.fresh.2).linkDown = s.linkDown ∧
    (s.fresh.2).d2d = s.d2d ∧ (s.fresh.2).lastDevice = s.lastDevice ∧ (s.fresh.2).lastRead = s.lastRead ∧
    (s.fresh.2).inject = s.inject ∧ (s.fresh.2).catches = s.catches ∧ (s.fresh.2).tdescs = s.tdescs ∧ (s.fresh.2).hrd = s.hrd ∧
    (s.fresh.2).remoteReads = s.remoteReads ∧ (s.fresh.2).children = s.children ∧ (s.fresh.2).bars = s.bars ∧
    (s.fresh.2).arrived = s.arrived ∧ (s.fresh.2).fins = s.fins ∧ (s.fresh.2).chain = s.chain ∧ (s.fresh.2).ports = s.ports ∧
    (s.fresh.2).syncRun = s.syncRun ∧ (s.fresh.2).tsyncEdges = s.tsyncEdges ∧ (s.fresh.2).pwr = s.pwr ∧ (s.fresh.2).start = s.start ∧
    (s.fresh.2).tap = s.tap ∧ (s.fresh.2).mgmt = s.mgmt ∧ (s.fresh.2).fabSize = s.fabSize ∧ (s.fresh.2).remotes = s.remotes :=
  ⟨rfl, rfl, rfl, rfl, rfl, rfl, rfl, rfl, rfl, rfl, rfl, rfl, rfl, rfl, rfl, rfl, rfl, rfl, rfl, rfl, rfl, rfl, rfl, rfl, rfl, rfl, rfl, rfl, rfl, rfl, rfl, rfl, rfl, rfl, rfl, rfl, rfl, rfl, rfl, rfl, rfl, rfl, rfl, rfl, rfl, rfl, rfl⟩

/-- What hbmWrite leaves as it is. -/
@[simp] theorem State.hbmWrite_keeps (s : State) (a : Nat) (bs : List Byte) :
    (s.hbmWrite a bs).pending = s.pending ∧ (s.hbmWrite a bs).freeCtr = s.freeCtr ∧ (s.hbmWrite a bs).regs = s.regs ∧
    (s.hbmWrite a bs).latches = s.latches ∧ (s.hbmWrite a bs).lastResp = s.lastResp ∧ (s.hbmWrite a bs).tables = s.tables ∧
    (s.hbmWrite a bs).tsram = s.tsram ∧ (s.hbmWrite a bs).tsramUe = s.tsramUe ∧ (s.hbmWrite a bs).cores = s.cores ∧
    (s.hbmWrite a bs).coxes = s.coxes ∧ (s.hbmWrite a bs).featherOpen = s.featherOpen ∧ (s.hbmWrite a bs).featherHist = s.featherHist ∧
    (s.hbmWrite a bs).seeds = s.seeds ∧ (s.hbmWrite a bs).reports = s.reports ∧ (s.hbmWrite a bs).fabTime = s.fabTime ∧
    (s.hbmWrite a bs).steps = s.steps ∧ (s.hbmWrite a bs).ump = s.ump ∧ (s.hbmWrite a bs).flt = s.flt ∧
    (s.hbmWrite a bs).earlyFail = s.earlyFail ∧ (s.hbmWrite a bs).loanReqs = s.loanReqs ∧ (s.hbmWrite a bs).nextTag = s.nextTag ∧
    (s.hbmWrite a bs).rings = s.rings ∧ (s.hbmWrite a bs).irqs = s.irqs ∧ (s.hbmWrite a bs).linkDown = s.linkDown ∧
    (s.hbmWrite a bs).d2d = s.d2d ∧ (s.hbmWrite a bs).lastDevice = s.lastDevice ∧ (s.hbmWrite a bs).lastRead = s.lastRead ∧
    (s.hbmWrite a bs).inject = s.inject ∧ (s.hbmWrite a bs).catches = s.catches ∧ (s.hbmWrite a bs).tdescs = s.tdescs ∧
    (s.hbmWrite a bs).hrd = s.hrd ∧ (s.hbmWrite a bs).remoteReads = s.remoteReads ∧ (s.hbmWrite a bs).children = s.children ∧
    (s.hbmWrite a bs).bars = s.bars ∧ (s.hbmWrite a bs).arrived = s.arrived ∧ (s.hbmWrite a bs).fins = s.fins ∧
    (s.hbmWrite a bs).chain = s.chain ∧ (s.hbmWrite a bs).ports = s.ports ∧ (s.hbmWrite a bs).syncRun = s.syncRun ∧
    (s.hbmWrite a bs).tsyncEdges = s.tsyncEdges ∧ (s.hbmWrite a bs).pwr = s.pwr ∧ (s.hbmWrite a bs).start = s.start ∧
    (s.hbmWrite a bs).tap = s.tap ∧ (s.hbmWrite a bs).mgmt = s.mgmt ∧
    (s.hbmWrite a bs).fabSize = s.fabSize ∧ (s.hbmWrite a bs).remotes = s.remotes :=
  ⟨rfl, rfl, rfl, rfl, rfl, rfl, rfl, rfl, rfl, rfl, rfl, rfl, rfl, rfl, rfl, rfl, rfl, rfl, rfl, rfl, rfl, rfl, rfl, rfl, rfl, rfl, rfl, rfl, rfl, rfl, rfl, rfl, rfl, rfl, rfl, rfl, rfl, rfl, rfl, rfl, rfl, rfl, rfl, rfl, rfl, rfl⟩

/-- What tsramWrite leaves as it is. -/
@[simp] theorem State.tsramWrite_keeps (s : State) (tile off : Nat) (bs : List Byte) :
    (s.tsramWrite tile off bs).pending = s.pending ∧ (s.tsramWrite tile off bs).freeCtr = s.freeCtr ∧
    (s.tsramWrite tile off bs).regs = s.regs ∧ (s.tsramWrite tile off bs).latches = s.latches ∧
    (s.tsramWrite tile off bs).lastResp = s.lastResp ∧ (s.tsramWrite tile off bs).tables = s.tables ∧
    (s.tsramWrite tile off bs).mem = s.mem ∧ (s.tsramWrite tile off bs).memErr = s.memErr ∧ (s.tsramWrite tile off bs).cores = s.cores ∧
    (s.tsramWrite tile off bs).coxes = s.coxes ∧ (s.tsramWrite tile off bs).featherOpen = s.featherOpen ∧
    (s.tsramWrite tile off bs).featherHist = s.featherHist ∧ (s.tsramWrite tile off bs).seeds = s.seeds ∧
    (s.tsramWrite tile off bs).reports = s.reports ∧ (s.tsramWrite tile off bs).fabTime = s.fabTime ∧
    (s.tsramWrite tile off bs).steps = s.steps ∧ (s.tsramWrite tile off bs).ump = s.ump ∧ (s.tsramWrite tile off bs).flt = s.flt ∧
    (s.tsramWrite tile off bs).earlyFail = s.earlyFail ∧ (s.tsramWrite tile off bs).loanReqs = s.loanReqs ∧
    (s.tsramWrite tile off bs).nextTag = s.nextTag ∧ (s.tsramWrite tile off bs).rings = s.rings ∧
    (s.tsramWrite tile off bs).irqs = s.irqs ∧ (s.tsramWrite tile off bs).linkDown = s.linkDown ∧
    (s.tsramWrite tile off bs).d2d = s.d2d ∧ (s.tsramWrite tile off bs).lastDevice = s.lastDevice ∧
    (s.tsramWrite tile off bs).lastRead = s.lastRead ∧ (s.tsramWrite tile off bs).inject = s.inject ∧
    (s.tsramWrite tile off bs).catches = s.catches ∧ (s.tsramWrite tile off bs).tdescs = s.tdescs ∧
    (s.tsramWrite tile off bs).hrd = s.hrd ∧ (s.tsramWrite tile off bs).remoteReads = s.remoteReads ∧
    (s.tsramWrite tile off bs).children = s.children ∧ (s.tsramWrite tile off bs).bars = s.bars ∧
    (s.tsramWrite tile off bs).arrived = s.arrived ∧ (s.tsramWrite tile off bs).fins = s.fins ∧
    (s.tsramWrite tile off bs).chain = s.chain ∧ (s.tsramWrite tile off bs).ports = s.ports ∧
    (s.tsramWrite tile off bs).syncRun = s.syncRun ∧ (s.tsramWrite tile off bs).tsyncEdges = s.tsyncEdges ∧
    (s.tsramWrite tile off bs).pwr = s.pwr ∧ (s.tsramWrite tile off bs).start = s.start ∧ (s.tsramWrite tile off bs).tap = s.tap ∧
    (s.tsramWrite tile off bs).mgmt = s.mgmt ∧ (s.tsramWrite tile off bs).fabSize = s.fabSize ∧ (s.tsramWrite tile off bs).remotes = s.remotes :=
  ⟨rfl, rfl, rfl, rfl, rfl, rfl, rfl, rfl, rfl, rfl, rfl, rfl, rfl, rfl, rfl, rfl, rfl, rfl, rfl, rfl, rfl, rfl, rfl, rfl, rfl, rfl, rfl, rfl, rfl, rfl, rfl, rfl, rfl, rfl, rfl, rfl, rfl, rfl, rfl, rfl, rfl, rfl, rfl, rfl, rfl, rfl⟩

/-- What setCox leaves as it is. -/
@[simp] theorem State.setCox_keeps (s : State) (t : TileId) (x : Cox) :
    (s.setCox t x).pending = s.pending ∧ (s.setCox t x).freeCtr = s.freeCtr ∧ (s.setCox t x).regs = s.regs ∧
    (s.setCox t x).latches = s.latches ∧ (s.setCox t x).lastResp = s.lastResp ∧ (s.setCox t x).tables = s.tables ∧
    (s.setCox t x).mem = s.mem ∧ (s.setCox t x).memErr = s.memErr ∧ (s.setCox t x).tsram = s.tsram ∧ (s.setCox t x).tsramUe = s.tsramUe ∧
    (s.setCox t x).cores = s.cores ∧ (s.setCox t x).featherOpen = s.featherOpen ∧ (s.setCox t x).featherHist = s.featherHist ∧
    (s.setCox t x).seeds = s.seeds ∧ (s.setCox t x).reports = s.reports ∧ (s.setCox t x).fabTime = s.fabTime ∧
    (s.setCox t x).steps = s.steps ∧ (s.setCox t x).ump = s.ump ∧ (s.setCox t x).flt = s.flt ∧ (s.setCox t x).earlyFail = s.earlyFail ∧
    (s.setCox t x).loanReqs = s.loanReqs ∧ (s.setCox t x).nextTag = s.nextTag ∧ (s.setCox t x).rings = s.rings ∧
    (s.setCox t x).irqs = s.irqs ∧ (s.setCox t x).linkDown = s.linkDown ∧ (s.setCox t x).d2d = s.d2d ∧
    (s.setCox t x).lastDevice = s.lastDevice ∧ (s.setCox t x).lastRead = s.lastRead ∧ (s.setCox t x).inject = s.inject ∧
    (s.setCox t x).catches = s.catches ∧ (s.setCox t x).tdescs = s.tdescs ∧ (s.setCox t x).hrd = s.hrd ∧
    (s.setCox t x).remoteReads = s.remoteReads ∧ (s.setCox t x).children = s.children ∧ (s.setCox t x).bars = s.bars ∧
    (s.setCox t x).arrived = s.arrived ∧ (s.setCox t x).fins = s.fins ∧ (s.setCox t x).chain = s.chain ∧
    (s.setCox t x).ports = s.ports ∧ (s.setCox t x).syncRun = s.syncRun ∧ (s.setCox t x).tsyncEdges = s.tsyncEdges ∧
    (s.setCox t x).pwr = s.pwr ∧ (s.setCox t x).start = s.start ∧ (s.setCox t x).tap = s.tap ∧ (s.setCox t x).mgmt = s.mgmt ∧
    (s.setCox t x).fabSize = s.fabSize ∧ (s.setCox t x).remotes = s.remotes :=
  ⟨rfl, rfl, rfl, rfl, rfl, rfl, rfl, rfl, rfl, rfl, rfl, rfl, rfl, rfl, rfl, rfl, rfl, rfl, rfl, rfl, rfl, rfl, rfl, rfl, rfl, rfl, rfl, rfl, rfl, rfl, rfl, rfl, rfl, rfl, rfl, rfl, rfl, rfl, rfl, rfl, rfl, rfl, rfl, rfl, rfl, rfl, rfl⟩

/-- What setCore leaves as it is. -/
@[simp] theorem State.setCore_keeps (s : State) (c : CoreId) (x : Core) :
    (s.setCore c x).pending = s.pending ∧ (s.setCore c x).freeCtr = s.freeCtr ∧ (s.setCore c x).regs = s.regs ∧
    (s.setCore c x).latches = s.latches ∧ (s.setCore c x).lastResp = s.lastResp ∧ (s.setCore c x).tables = s.tables ∧
    (s.setCore c x).mem = s.mem ∧ (s.setCore c x).memErr = s.memErr ∧ (s.setCore c x).tsram = s.tsram ∧
    (s.setCore c x).tsramUe = s.tsramUe ∧ (s.setCore c x).coxes = s.coxes ∧ (s.setCore c x).featherOpen = s.featherOpen ∧
    (s.setCore c x).featherHist = s.featherHist ∧ (s.setCore c x).seeds = s.seeds ∧ (s.setCore c x).reports = s.reports ∧
    (s.setCore c x).fabTime = s.fabTime ∧ (s.setCore c x).steps = s.steps ∧ (s.setCore c x).ump = s.ump ∧ (s.setCore c x).flt = s.flt ∧
    (s.setCore c x).earlyFail = s.earlyFail ∧ (s.setCore c x).loanReqs = s.loanReqs ∧ (s.setCore c x).nextTag = s.nextTag ∧
    (s.setCore c x).rings = s.rings ∧ (s.setCore c x).irqs = s.irqs ∧ (s.setCore c x).linkDown = s.linkDown ∧
    (s.setCore c x).d2d = s.d2d ∧ (s.setCore c x).lastDevice = s.lastDevice ∧ (s.setCore c x).lastRead = s.lastRead ∧
    (s.setCore c x).inject = s.inject ∧ (s.setCore c x).catches = s.catches ∧ (s.setCore c x).tdescs = s.tdescs ∧
    (s.setCore c x).hrd = s.hrd ∧ (s.setCore c x).remoteReads = s.remoteReads ∧ (s.setCore c x).children = s.children ∧
    (s.setCore c x).bars = s.bars ∧ (s.setCore c x).arrived = s.arrived ∧ (s.setCore c x).fins = s.fins ∧
    (s.setCore c x).chain = s.chain ∧ (s.setCore c x).ports = s.ports ∧ (s.setCore c x).syncRun = s.syncRun ∧
    (s.setCore c x).tsyncEdges = s.tsyncEdges ∧ (s.setCore c x).pwr = s.pwr ∧ (s.setCore c x).start = s.start ∧
    (s.setCore c x).tap = s.tap ∧ (s.setCore c x).mgmt = s.mgmt ∧ (s.setCore c x).fabSize = s.fabSize ∧ (s.setCore c x).remotes = s.remotes :=
  ⟨rfl, rfl, rfl, rfl, rfl, rfl, rfl, rfl, rfl, rfl, rfl, rfl, rfl, rfl, rfl, rfl, rfl, rfl, rfl, rfl, rfl, rfl, rfl, rfl, rfl, rfl, rfl, rfl, rfl, rfl, rfl, rfl, rfl, rfl, rfl, rfl, rfl, rfl, rfl, rfl, rfl, rfl, rfl, rfl, rfl, rfl, rfl⟩

/-- What setThread leaves as it is. -/
@[simp] theorem State.setThread_keeps (s : State) (c : CoreId) (t : Nat) (th : Thread) :
    (s.setThread c t th).pending = s.pending ∧ (s.setThread c t th).freeCtr = s.freeCtr ∧ (s.setThread c t th).regs = s.regs ∧
    (s.setThread c t th).latches = s.latches ∧ (s.setThread c t th).lastResp = s.lastResp ∧ (s.setThread c t th).tables = s.tables ∧
    (s.setThread c t th).mem = s.mem ∧ (s.setThread c t th).memErr = s.memErr ∧ (s.setThread c t th).tsram = s.tsram ∧
    (s.setThread c t th).tsramUe = s.tsramUe ∧ (s.setThread c t th).coxes = s.coxes ∧
    (s.setThread c t th).featherOpen = s.featherOpen ∧ (s.setThread c t th).featherHist = s.featherHist ∧
    (s.setThread c t th).seeds = s.seeds ∧ (s.setThread c t th).reports = s.reports ∧ (s.setThread c t th).fabTime = s.fabTime ∧
    (s.setThread c t th).steps = s.steps ∧ (s.setThread c t th).ump = s.ump ∧ (s.setThread c t th).flt = s.flt ∧
    (s.setThread c t th).earlyFail = s.earlyFail ∧ (s.setThread c t th).loanReqs = s.loanReqs ∧
    (s.setThread c t th).nextTag = s.nextTag ∧ (s.setThread c t th).rings = s.rings ∧ (s.setThread c t th).irqs = s.irqs ∧
    (s.setThread c t th).linkDown = s.linkDown ∧ (s.setThread c t th).d2d = s.d2d ∧ (s.setThread c t th).lastDevice = s.lastDevice ∧
    (s.setThread c t th).lastRead = s.lastRead ∧ (s.setThread c t th).inject = s.inject ∧ (s.setThread c t th).catches = s.catches ∧
    (s.setThread c t th).tdescs = s.tdescs ∧ (s.setThread c t th).hrd = s.hrd ∧ (s.setThread c t th).remoteReads = s.remoteReads ∧
    (s.setThread c t th).children = s.children ∧ (s.setThread c t th).bars = s.bars ∧ (s.setThread c t th).arrived = s.arrived ∧
    (s.setThread c t th).fins = s.fins ∧ (s.setThread c t th).chain = s.chain ∧ (s.setThread c t th).ports = s.ports ∧
    (s.setThread c t th).syncRun = s.syncRun ∧ (s.setThread c t th).tsyncEdges = s.tsyncEdges ∧ (s.setThread c t th).pwr = s.pwr ∧
    (s.setThread c t th).start = s.start ∧ (s.setThread c t th).tap = s.tap ∧ (s.setThread c t th).mgmt = s.mgmt ∧
    (s.setThread c t th).fabSize = s.fabSize ∧ (s.setThread c t th).remotes = s.remotes :=
  ⟨rfl, rfl, rfl, rfl, rfl, rfl, rfl, rfl, rfl, rfl, rfl, rfl, rfl, rfl, rfl, rfl, rfl, rfl, rfl, rfl, rfl, rfl, rfl, rfl, rfl, rfl, rfl, rfl, rfl, rfl, rfl, rfl, rfl, rfl, rfl, rfl, rfl, rfl, rfl, rfl, rfl, rfl, rfl, rfl, rfl, rfl, rfl⟩

/-- What modTrain leaves as it is. -/
@[simp] theorem State.modTrain_keeps (s : State) (t : TileId) (uid : Nat) (f : Train → Train) :
    (s.modTrain t uid f).pending = s.pending ∧ (s.modTrain t uid f).freeCtr = s.freeCtr ∧ (s.modTrain t uid f).regs = s.regs ∧
    (s.modTrain t uid f).latches = s.latches ∧ (s.modTrain t uid f).lastResp = s.lastResp ∧ (s.modTrain t uid f).tables = s.tables ∧
    (s.modTrain t uid f).mem = s.mem ∧ (s.modTrain t uid f).memErr = s.memErr ∧ (s.modTrain t uid f).tsram = s.tsram ∧
    (s.modTrain t uid f).tsramUe = s.tsramUe ∧ (s.modTrain t uid f).cores = s.cores ∧
    (s.modTrain t uid f).featherOpen = s.featherOpen ∧ (s.modTrain t uid f).featherHist = s.featherHist ∧
    (s.modTrain t uid f).seeds = s.seeds ∧ (s.modTrain t uid f).reports = s.reports ∧ (s.modTrain t uid f).fabTime = s.fabTime ∧
    (s.modTrain t uid f).steps = s.steps ∧ (s.modTrain t uid f).ump = s.ump ∧ (s.modTrain t uid f).flt = s.flt ∧
    (s.modTrain t uid f).earlyFail = s.earlyFail ∧ (s.modTrain t uid f).loanReqs = s.loanReqs ∧
    (s.modTrain t uid f).nextTag = s.nextTag ∧ (s.modTrain t uid f).rings = s.rings ∧ (s.modTrain t uid f).irqs = s.irqs ∧
    (s.modTrain t uid f).linkDown = s.linkDown ∧ (s.modTrain t uid f).d2d = s.d2d ∧ (s.modTrain t uid f).lastDevice = s.lastDevice ∧
    (s.modTrain t uid f).lastRead = s.lastRead ∧ (s.modTrain t uid f).inject = s.inject ∧ (s.modTrain t uid f).catches = s.catches ∧
    (s.modTrain t uid f).tdescs = s.tdescs ∧ (s.modTrain t uid f).hrd = s.hrd ∧ (s.modTrain t uid f).remoteReads = s.remoteReads ∧
    (s.modTrain t uid f).children = s.children ∧ (s.modTrain t uid f).bars = s.bars ∧ (s.modTrain t uid f).arrived = s.arrived ∧
    (s.modTrain t uid f).fins = s.fins ∧ (s.modTrain t uid f).chain = s.chain ∧ (s.modTrain t uid f).ports = s.ports ∧
    (s.modTrain t uid f).syncRun = s.syncRun ∧ (s.modTrain t uid f).tsyncEdges = s.tsyncEdges ∧ (s.modTrain t uid f).pwr = s.pwr ∧
    (s.modTrain t uid f).start = s.start ∧ (s.modTrain t uid f).tap = s.tap ∧ (s.modTrain t uid f).mgmt = s.mgmt ∧
    (s.modTrain t uid f).fabSize = s.fabSize ∧ (s.modTrain t uid f).remotes = s.remotes :=
  ⟨rfl, rfl, rfl, rfl, rfl, rfl, rfl, rfl, rfl, rfl, rfl, rfl, rfl, rfl, rfl, rfl, rfl, rfl, rfl, rfl, rfl, rfl, rfl, rfl, rfl, rfl, rfl, rfl, rfl, rfl, rfl, rfl, rfl, rfl, rfl, rfl, rfl, rfl, rfl, rfl, rfl, rfl, rfl, rfl, rfl, rfl, rfl⟩

/-- What modStep leaves as it is. -/
@[simp] theorem State.modStep_keeps (s : State) (n : Nat) (f : StepSt → StepSt) :
    (s.modStep n f).pending = s.pending ∧ (s.modStep n f).freeCtr = s.freeCtr ∧ (s.modStep n f).regs = s.regs ∧
    (s.modStep n f).latches = s.latches ∧ (s.modStep n f).lastResp = s.lastResp ∧ (s.modStep n f).tables = s.tables ∧
    (s.modStep n f).mem = s.mem ∧ (s.modStep n f).memErr = s.memErr ∧ (s.modStep n f).tsram = s.tsram ∧
    (s.modStep n f).tsramUe = s.tsramUe ∧ (s.modStep n f).cores = s.cores ∧ (s.modStep n f).coxes = s.coxes ∧
    (s.modStep n f).featherOpen = s.featherOpen ∧ (s.modStep n f).featherHist = s.featherHist ∧ (s.modStep n f).seeds = s.seeds ∧
    (s.modStep n f).reports = s.reports ∧ (s.modStep n f).fabTime = s.fabTime ∧ (s.modStep n f).ump = s.ump ∧
    (s.modStep n f).flt = s.flt ∧ (s.modStep n f).earlyFail = s.earlyFail ∧ (s.modStep n f).loanReqs = s.loanReqs ∧
    (s.modStep n f).nextTag = s.nextTag ∧ (s.modStep n f).rings = s.rings ∧ (s.modStep n f).irqs = s.irqs ∧
    (s.modStep n f).linkDown = s.linkDown ∧ (s.modStep n f).d2d = s.d2d ∧ (s.modStep n f).lastDevice = s.lastDevice ∧
    (s.modStep n f).lastRead = s.lastRead ∧ (s.modStep n f).inject = s.inject ∧ (s.modStep n f).catches = s.catches ∧
    (s.modStep n f).tdescs = s.tdescs ∧ (s.modStep n f).hrd = s.hrd ∧ (s.modStep n f).remoteReads = s.remoteReads ∧
    (s.modStep n f).children = s.children ∧ (s.modStep n f).bars = s.bars ∧ (s.modStep n f).arrived = s.arrived ∧
    (s.modStep n f).fins = s.fins ∧ (s.modStep n f).chain = s.chain ∧ (s.modStep n f).ports = s.ports ∧
    (s.modStep n f).syncRun = s.syncRun ∧ (s.modStep n f).tsyncEdges = s.tsyncEdges ∧ (s.modStep n f).pwr = s.pwr ∧
    (s.modStep n f).start = s.start ∧ (s.modStep n f).tap = s.tap ∧ (s.modStep n f).mgmt = s.mgmt ∧
    (s.modStep n f).fabSize = s.fabSize ∧ (s.modStep n f).remotes = s.remotes :=
  ⟨rfl, rfl, rfl, rfl, rfl, rfl, rfl, rfl, rfl, rfl, rfl, rfl, rfl, rfl, rfl, rfl, rfl, rfl, rfl, rfl, rfl, rfl, rfl, rfl, rfl, rfl, rfl, rfl, rfl, rfl, rfl, rfl, rfl, rfl, rfl, rfl, rfl, rfl, rfl, rfl, rfl, rfl, rfl, rfl, rfl, rfl, rfl⟩

/-- What addOut leaves as it is. -/
@[simp] theorem State.addOut_keeps (s : State) (n l : Nat) (v : W64) :
    (s.addOut n l v).pending = s.pending ∧ (s.addOut n l v).freeCtr = s.freeCtr ∧ (s.addOut n l v).regs = s.regs ∧
    (s.addOut n l v).latches = s.latches ∧ (s.addOut n l v).lastResp = s.lastResp ∧ (s.addOut n l v).tables = s.tables ∧
    (s.addOut n l v).mem = s.mem ∧ (s.addOut n l v).memErr = s.memErr ∧ (s.addOut n l v).tsram = s.tsram ∧
    (s.addOut n l v).tsramUe = s.tsramUe ∧ (s.addOut n l v).cores = s.cores ∧ (s.addOut n l v).coxes = s.coxes ∧
    (s.addOut n l v).featherOpen = s.featherOpen ∧ (s.addOut n l v).featherHist = s.featherHist ∧ (s.addOut n l v).seeds = s.seeds ∧
    (s.addOut n l v).reports = s.reports ∧ (s.addOut n l v).fabTime = s.fabTime ∧ (s.addOut n l v).ump = s.ump ∧
    (s.addOut n l v).flt = s.flt ∧ (s.addOut n l v).earlyFail = s.earlyFail ∧ (s.addOut n l v).loanReqs = s.loanReqs ∧
    (s.addOut n l v).nextTag = s.nextTag ∧ (s.addOut n l v).rings = s.rings ∧ (s.addOut n l v).irqs = s.irqs ∧
    (s.addOut n l v).linkDown = s.linkDown ∧ (s.addOut n l v).d2d = s.d2d ∧ (s.addOut n l v).lastDevice = s.lastDevice ∧
    (s.addOut n l v).lastRead = s.lastRead ∧ (s.addOut n l v).inject = s.inject ∧ (s.addOut n l v).catches = s.catches ∧
    (s.addOut n l v).tdescs = s.tdescs ∧ (s.addOut n l v).hrd = s.hrd ∧ (s.addOut n l v).remoteReads = s.remoteReads ∧
    (s.addOut n l v).children = s.children ∧ (s.addOut n l v).bars = s.bars ∧ (s.addOut n l v).arrived = s.arrived ∧
    (s.addOut n l v).fins = s.fins ∧ (s.addOut n l v).chain = s.chain ∧ (s.addOut n l v).ports = s.ports ∧
    (s.addOut n l v).syncRun = s.syncRun ∧ (s.addOut n l v).tsyncEdges = s.tsyncEdges ∧ (s.addOut n l v).pwr = s.pwr ∧
    (s.addOut n l v).start = s.start ∧ (s.addOut n l v).tap = s.tap ∧ (s.addOut n l v).mgmt = s.mgmt ∧
    (s.addOut n l v).fabSize = s.fabSize ∧ (s.addOut n l v).remotes = s.remotes :=
  ⟨rfl, rfl, rfl, rfl, rfl, rfl, rfl, rfl, rfl, rfl, rfl, rfl, rfl, rfl, rfl, rfl, rfl, rfl, rfl, rfl, rfl, rfl, rfl, rfl, rfl, rfl, rfl, rfl, rfl, rfl, rfl, rfl, rfl, rfl, rfl, rfl, rfl, rfl, rfl, rfl, rfl, rfl, rfl, rfl, rfl, rfl, rfl⟩

/-- What addIn leaves as it is. -/
@[simp] theorem State.addIn_keeps (s : State) (n : Nat) (v : W64) :
    (s.addIn n v).pending = s.pending ∧ (s.addIn n v).freeCtr = s.freeCtr ∧ (s.addIn n v).regs = s.regs ∧
    (s.addIn n v).latches = s.latches ∧ (s.addIn n v).lastResp = s.lastResp ∧ (s.addIn n v).tables = s.tables ∧
    (s.addIn n v).mem = s.mem ∧ (s.addIn n v).memErr = s.memErr ∧ (s.addIn n v).tsram = s.tsram ∧ (s.addIn n v).tsramUe = s.tsramUe ∧
    (s.addIn n v).cores = s.cores ∧ (s.addIn n v).coxes = s.coxes ∧ (s.addIn n v).featherOpen = s.featherOpen ∧
    (s.addIn n v).featherHist = s.featherHist ∧ (s.addIn n v).seeds = s.seeds ∧ (s.addIn n v).reports = s.reports ∧
    (s.addIn n v).fabTime = s.fabTime ∧ (s.addIn n v).ump = s.ump ∧ (s.addIn n v).flt = s.flt ∧ (s.addIn n v).earlyFail = s.earlyFail ∧
    (s.addIn n v).loanReqs = s.loanReqs ∧ (s.addIn n v).nextTag = s.nextTag ∧ (s.addIn n v).rings = s.rings ∧
    (s.addIn n v).irqs = s.irqs ∧ (s.addIn n v).linkDown = s.linkDown ∧ (s.addIn n v).d2d = s.d2d ∧
    (s.addIn n v).lastDevice = s.lastDevice ∧ (s.addIn n v).lastRead = s.lastRead ∧ (s.addIn n v).inject = s.inject ∧
    (s.addIn n v).catches = s.catches ∧ (s.addIn n v).tdescs = s.tdescs ∧ (s.addIn n v).hrd = s.hrd ∧
    (s.addIn n v).remoteReads = s.remoteReads ∧ (s.addIn n v).children = s.children ∧ (s.addIn n v).bars = s.bars ∧
    (s.addIn n v).arrived = s.arrived ∧ (s.addIn n v).fins = s.fins ∧ (s.addIn n v).chain = s.chain ∧ (s.addIn n v).ports = s.ports ∧
    (s.addIn n v).syncRun = s.syncRun ∧ (s.addIn n v).tsyncEdges = s.tsyncEdges ∧ (s.addIn n v).pwr = s.pwr ∧
    (s.addIn n v).start = s.start ∧ (s.addIn n v).tap = s.tap ∧ (s.addIn n v).mgmt = s.mgmt ∧
    (s.addIn n v).fabSize = s.fabSize ∧ (s.addIn n v).remotes = s.remotes :=
  ⟨rfl, rfl, rfl, rfl, rfl, rfl, rfl, rfl, rfl, rfl, rfl, rfl, rfl, rfl, rfl, rfl, rfl, rfl, rfl, rfl, rfl, rfl, rfl, rfl, rfl, rfl, rfl, rfl, rfl, rfl, rfl, rfl, rfl, rfl, rfl, rfl, rfl, rfl, rfl, rfl, rfl, rfl, rfl, rfl, rfl, rfl, rfl⟩

/-- What send leaves as it is. -/
@[simp] theorem State.send_keeps (s : State) (dst tag : Nat) (b : MsgBody) :
    (s.send dst tag b).pending = s.pending ∧ (s.send dst tag b).freeCtr = s.freeCtr ∧ (s.send dst tag b).regs = s.regs ∧
    (s.send dst tag b).latches = s.latches ∧ (s.send dst tag b).lastResp = s.lastResp ∧ (s.send dst tag b).tables = s.tables ∧
    (s.send dst tag b).mem = s.mem ∧ (s.send dst tag b).memErr = s.memErr ∧ (s.send dst tag b).tsram = s.tsram ∧
    (s.send dst tag b).tsramUe = s.tsramUe ∧ (s.send dst tag b).cores = s.cores ∧ (s.send dst tag b).coxes = s.coxes ∧
    (s.send dst tag b).featherOpen = s.featherOpen ∧ (s.send dst tag b).featherHist = s.featherHist ∧
    (s.send dst tag b).seeds = s.seeds ∧ (s.send dst tag b).reports = s.reports ∧ (s.send dst tag b).fabTime = s.fabTime ∧
    (s.send dst tag b).steps = s.steps ∧ (s.send dst tag b).ump = s.ump ∧ (s.send dst tag b).flt = s.flt ∧
    (s.send dst tag b).earlyFail = s.earlyFail ∧ (s.send dst tag b).loanReqs = s.loanReqs ∧ (s.send dst tag b).nextTag = s.nextTag ∧
    (s.send dst tag b).rings = s.rings ∧ (s.send dst tag b).irqs = s.irqs ∧ (s.send dst tag b).linkDown = s.linkDown ∧
    (s.send dst tag b).d2d = s.d2d ∧ (s.send dst tag b).lastDevice = s.lastDevice ∧ (s.send dst tag b).lastRead = s.lastRead ∧
    (s.send dst tag b).catches = s.catches ∧ (s.send dst tag b).tdescs = s.tdescs ∧ (s.send dst tag b).hrd = s.hrd ∧
    (s.send dst tag b).remoteReads = s.remoteReads ∧ (s.send dst tag b).children = s.children ∧ (s.send dst tag b).bars = s.bars ∧
    (s.send dst tag b).arrived = s.arrived ∧ (s.send dst tag b).fins = s.fins ∧ (s.send dst tag b).chain = s.chain ∧
    (s.send dst tag b).ports = s.ports ∧ (s.send dst tag b).syncRun = s.syncRun ∧ (s.send dst tag b).tsyncEdges = s.tsyncEdges ∧
    (s.send dst tag b).pwr = s.pwr ∧ (s.send dst tag b).start = s.start ∧ (s.send dst tag b).tap = s.tap ∧
    (s.send dst tag b).mgmt = s.mgmt ∧ (s.send dst tag b).fabSize = s.fabSize ∧ (s.send dst tag b).remotes = s.remotes :=
  ⟨rfl, rfl, rfl, rfl, rfl, rfl, rfl, rfl, rfl, rfl, rfl, rfl, rfl, rfl, rfl, rfl, rfl, rfl, rfl, rfl, rfl, rfl, rfl, rfl, rfl, rfl, rfl, rfl, rfl, rfl, rfl, rfl, rfl, rfl, rfl, rfl, rfl, rfl, rfl, rfl, rfl, rfl, rfl, rfl, rfl, rfl, rfl⟩

/-- setErr changes nothing but regs. -/
theorem State.setErr_eq (s : State) (p : Page) (bitNo : Nat) (syn : W32) :
    ∃ r0, s.setErr p bitNo syn = { s with regs := r0 } := ⟨_, rfl⟩

/-- What setErr leaves as it is. -/
@[simp] theorem State.setErr_keeps (s : State) (p : Page) (bitNo : Nat) (syn : W32) :
    (s.setErr p bitNo syn).pending = s.pending ∧ (s.setErr p bitNo syn).freeCtr = s.freeCtr ∧
    (s.setErr p bitNo syn).latches = s.latches ∧ (s.setErr p bitNo syn).lastResp = s.lastResp ∧
    (s.setErr p bitNo syn).tables = s.tables ∧ (s.setErr p bitNo syn).mem = s.mem ∧ (s.setErr p bitNo syn).memErr = s.memErr ∧
    (s.setErr p bitNo syn).tsram = s.tsram ∧ (s.setErr p bitNo syn).tsramUe = s.tsramUe ∧ (s.setErr p bitNo syn).cores = s.cores ∧
    (s.setErr p bitNo syn).coxes = s.coxes ∧ (s.setErr p bitNo syn).featherOpen = s.featherOpen ∧
    (s.setErr p bitNo syn).featherHist = s.featherHist ∧ (s.setErr p bitNo syn).seeds = s.seeds ∧
    (s.setErr p bitNo syn).reports = s.reports ∧ (s.setErr p bitNo syn).fabTime = s.fabTime ∧ (s.setErr p bitNo syn).steps = s.steps ∧
    (s.setErr p bitNo syn).ump = s.ump ∧ (s.setErr p bitNo syn).flt = s.flt ∧ (s.setErr p bitNo syn).earlyFail = s.earlyFail ∧
    (s.setErr p bitNo syn).loanReqs = s.loanReqs ∧ (s.setErr p bitNo syn).nextTag = s.nextTag ∧
    (s.setErr p bitNo syn).rings = s.rings ∧ (s.setErr p bitNo syn).irqs = s.irqs ∧ (s.setErr p bitNo syn).linkDown = s.linkDown ∧
    (s.setErr p bitNo syn).d2d = s.d2d ∧ (s.setErr p bitNo syn).lastDevice = s.lastDevice ∧
    (s.setErr p bitNo syn).lastRead = s.lastRead ∧ (s.setErr p bitNo syn).inject = s.inject ∧
    (s.setErr p bitNo syn).catches = s.catches ∧ (s.setErr p bitNo syn).tdescs = s.tdescs ∧ (s.setErr p bitNo syn).hrd = s.hrd ∧
    (s.setErr p bitNo syn).remoteReads = s.remoteReads ∧ (s.setErr p bitNo syn).children = s.children ∧
    (s.setErr p bitNo syn).bars = s.bars ∧ (s.setErr p bitNo syn).arrived = s.arrived ∧ (s.setErr p bitNo syn).fins = s.fins ∧
    (s.setErr p bitNo syn).chain = s.chain ∧ (s.setErr p bitNo syn).ports = s.ports ∧ (s.setErr p bitNo syn).syncRun = s.syncRun ∧
    (s.setErr p bitNo syn).tsyncEdges = s.tsyncEdges ∧ (s.setErr p bitNo syn).pwr = s.pwr ∧ (s.setErr p bitNo syn).start = s.start ∧
    (s.setErr p bitNo syn).tap = s.tap ∧ (s.setErr p bitNo syn).mgmt = s.mgmt ∧
    (s.setErr p bitNo syn).fabSize = s.fabSize ∧ (s.setErr p bitNo syn).remotes = s.remotes := by
  obtain ⟨_, h⟩ := State.setErr_eq s p bitNo syn
  rw [h]; exact ⟨rfl, rfl, rfl, rfl, rfl, rfl, rfl, rfl, rfl, rfl, rfl, rfl, rfl, rfl, rfl, rfl, rfl, rfl, rfl, rfl, rfl, rfl, rfl, rfl, rfl, rfl, rfl, rfl, rfl, rfl, rfl, rfl, rfl, rfl, rfl, rfl, rfl, rfl, rfl, rfl, rfl, rfl, rfl, rfl, rfl, rfl, rfl⟩

/-- useInject changes nothing but regs. -/
theorem State.useInject_eq (s : State) (p : Page) :
    ∃ r0, s.useInject p = { s with regs := r0 } := ⟨_, rfl⟩

/-- What useInject leaves as it is. -/
@[simp] theorem State.useInject_keeps (s : State) (p : Page) :
    (s.useInject p).pending = s.pending ∧ (s.useInject p).freeCtr = s.freeCtr ∧ (s.useInject p).latches = s.latches ∧
    (s.useInject p).lastResp = s.lastResp ∧ (s.useInject p).tables = s.tables ∧ (s.useInject p).mem = s.mem ∧
    (s.useInject p).memErr = s.memErr ∧ (s.useInject p).tsram = s.tsram ∧ (s.useInject p).tsramUe = s.tsramUe ∧
    (s.useInject p).cores = s.cores ∧ (s.useInject p).coxes = s.coxes ∧ (s.useInject p).featherOpen = s.featherOpen ∧
    (s.useInject p).featherHist = s.featherHist ∧ (s.useInject p).seeds = s.seeds ∧ (s.useInject p).reports = s.reports ∧
    (s.useInject p).fabTime = s.fabTime ∧ (s.useInject p).steps = s.steps ∧ (s.useInject p).ump = s.ump ∧ (s.useInject p).flt = s.flt ∧
    (s.useInject p).earlyFail = s.earlyFail ∧ (s.useInject p).loanReqs = s.loanReqs ∧ (s.useInject p).nextTag = s.nextTag ∧
    (s.useInject p).rings = s.rings ∧ (s.useInject p).irqs = s.irqs ∧ (s.useInject p).linkDown = s.linkDown ∧
    (s.useInject p).d2d = s.d2d ∧ (s.useInject p).lastDevice = s.lastDevice ∧ (s.useInject p).lastRead = s.lastRead ∧
    (s.useInject p).inject = s.inject ∧ (s.useInject p).catches = s.catches ∧ (s.useInject p).tdescs = s.tdescs ∧
    (s.useInject p).hrd = s.hrd ∧ (s.useInject p).remoteReads = s.remoteReads ∧ (s.useInject p).children = s.children ∧
    (s.useInject p).bars = s.bars ∧ (s.useInject p).arrived = s.arrived ∧ (s.useInject p).fins = s.fins ∧
    (s.useInject p).chain = s.chain ∧ (s.useInject p).ports = s.ports ∧ (s.useInject p).syncRun = s.syncRun ∧
    (s.useInject p).tsyncEdges = s.tsyncEdges ∧ (s.useInject p).pwr = s.pwr ∧ (s.useInject p).start = s.start ∧
    (s.useInject p).tap = s.tap ∧ (s.useInject p).mgmt = s.mgmt ∧ (s.useInject p).fabSize = s.fabSize ∧ (s.useInject p).remotes = s.remotes := by
  obtain ⟨_, h⟩ := State.useInject_eq s p
  rw [h]; exact ⟨rfl, rfl, rfl, rfl, rfl, rfl, rfl, rfl, rfl, rfl, rfl, rfl, rfl, rfl, rfl, rfl, rfl, rfl, rfl, rfl, rfl, rfl, rfl, rfl, rfl, rfl, rfl, rfl, rfl, rfl, rfl, rfl, rfl, rfl, rfl, rfl, rfl, rfl, rfl, rfl, rfl, rfl, rfl, rfl, rfl, rfl, rfl⟩

/-- count changes nothing but regs. -/
theorem State.count_eq (s : State) (p : Page) (off n : Nat) :
    ∃ r0, s.count p off n = { s with regs := r0 } := by
  unfold State.count; split
  · exact ⟨s.regs, rfl⟩
  · exact ⟨_, rfl⟩

/-- What count leaves as it is. -/
@[simp] theorem State.count_keeps (s : State) (p : Page) (off n : Nat) :
    (s.count p off n).pending = s.pending ∧ (s.count p off n).freeCtr = s.freeCtr ∧ (s.count p off n).latches = s.latches ∧
    (s.count p off n).lastResp = s.lastResp ∧ (s.count p off n).tables = s.tables ∧ (s.count p off n).mem = s.mem ∧
    (s.count p off n).memErr = s.memErr ∧ (s.count p off n).tsram = s.tsram ∧ (s.count p off n).tsramUe = s.tsramUe ∧
    (s.count p off n).cores = s.cores ∧ (s.count p off n).coxes = s.coxes ∧ (s.count p off n).featherOpen = s.featherOpen ∧
    (s.count p off n).featherHist = s.featherHist ∧ (s.count p off n).seeds = s.seeds ∧ (s.count p off n).reports = s.reports ∧
    (s.count p off n).fabTime = s.fabTime ∧ (s.count p off n).steps = s.steps ∧ (s.count p off n).ump = s.ump ∧
    (s.count p off n).flt = s.flt ∧ (s.count p off n).earlyFail = s.earlyFail ∧ (s.count p off n).loanReqs = s.loanReqs ∧
    (s.count p off n).nextTag = s.nextTag ∧ (s.count p off n).rings = s.rings ∧ (s.count p off n).irqs = s.irqs ∧
    (s.count p off n).linkDown = s.linkDown ∧ (s.count p off n).d2d = s.d2d ∧ (s.count p off n).lastDevice = s.lastDevice ∧
    (s.count p off n).lastRead = s.lastRead ∧ (s.count p off n).inject = s.inject ∧ (s.count p off n).catches = s.catches ∧
    (s.count p off n).tdescs = s.tdescs ∧ (s.count p off n).hrd = s.hrd ∧ (s.count p off n).remoteReads = s.remoteReads ∧
    (s.count p off n).children = s.children ∧ (s.count p off n).bars = s.bars ∧ (s.count p off n).arrived = s.arrived ∧
    (s.count p off n).fins = s.fins ∧ (s.count p off n).chain = s.chain ∧ (s.count p off n).ports = s.ports ∧
    (s.count p off n).syncRun = s.syncRun ∧ (s.count p off n).tsyncEdges = s.tsyncEdges ∧ (s.count p off n).pwr = s.pwr ∧
    (s.count p off n).start = s.start ∧ (s.count p off n).tap = s.tap ∧ (s.count p off n).mgmt = s.mgmt ∧
    (s.count p off n).fabSize = s.fabSize ∧ (s.count p off n).remotes = s.remotes := by
  obtain ⟨_, h⟩ := State.count_eq s p off n
  rw [h]; exact ⟨rfl, rfl, rfl, rfl, rfl, rfl, rfl, rfl, rfl, rfl, rfl, rfl, rfl, rfl, rfl, rfl, rfl, rfl, rfl, rfl, rfl, rfl, rfl, rfl, rfl, rfl, rfl, rfl, rfl, rfl, rfl, rfl, rfl, rfl, rfl, rfl, rfl, rfl, rfl, rfl, rfl, rfl, rfl, rfl, rfl, rfl, rfl⟩

/-- report changes nothing but reports. -/
theorem State.report_eq (s : State) (p : Page) (bitNo : Nat) (syn : W32) (addr : W64) (inj : Bool) :
    ∃ r0, s.report p bitNo syn addr inj = { s with reports := r0 } := by
  unfold State.report; split
  · exact ⟨s.reports, rfl⟩
  · exact ⟨_, rfl⟩

/-- What report leaves as it is. -/
@[simp] theorem State.report_keeps (s : State) (p : Page) (bitNo : Nat) (syn : W32) (addr : W64) (inj : Bool) :
    (s.report p bitNo syn addr inj).pending = s.pending ∧ (s.report p bitNo syn addr inj).freeCtr = s.freeCtr ∧
    (s.report p bitNo syn addr inj).regs = s.regs ∧ (s.report p bitNo syn addr inj).latches = s.latches ∧
    (s.report p bitNo syn addr inj).lastResp = s.lastResp ∧ (s.report p bitNo syn addr inj).tables = s.tables ∧
    (s.report p bitNo syn addr inj).mem = s.mem ∧ (s.report p bitNo syn addr inj).memErr = s.memErr ∧
    (s.report p bitNo syn addr inj).tsram = s.tsram ∧ (s.report p bitNo syn addr inj).tsramUe = s.tsramUe ∧
    (s.report p bitNo syn addr inj).cores = s.cores ∧ (s.report p bitNo syn addr inj).coxes = s.coxes ∧
    (s.report p bitNo syn addr inj).featherOpen = s.featherOpen ∧ (s.report p bitNo syn addr inj).featherHist = s.featherHist ∧
    (s.report p bitNo syn addr inj).seeds = s.seeds ∧ (s.report p bitNo syn addr inj).fabTime = s.fabTime ∧
    (s.report p bitNo syn addr inj).steps = s.steps ∧ (s.report p bitNo syn addr inj).ump = s.ump ∧
    (s.report p bitNo syn addr inj).flt = s.flt ∧ (s.report p bitNo syn addr inj).earlyFail = s.earlyFail ∧
    (s.report p bitNo syn addr inj).loanReqs = s.loanReqs ∧ (s.report p bitNo syn addr inj).nextTag = s.nextTag ∧
    (s.report p bitNo syn addr inj).rings = s.rings ∧ (s.report p bitNo syn addr inj).irqs = s.irqs ∧
    (s.report p bitNo syn addr inj).linkDown = s.linkDown ∧ (s.report p bitNo syn addr inj).d2d = s.d2d ∧
    (s.report p bitNo syn addr inj).lastDevice = s.lastDevice ∧ (s.report p bitNo syn addr inj).lastRead = s.lastRead ∧
    (s.report p bitNo syn addr inj).inject = s.inject ∧ (s.report p bitNo syn addr inj).catches = s.catches ∧
    (s.report p bitNo syn addr inj).tdescs = s.tdescs ∧ (s.report p bitNo syn addr inj).hrd = s.hrd ∧
    (s.report p bitNo syn addr inj).remoteReads = s.remoteReads ∧ (s.report p bitNo syn addr inj).children = s.children ∧
    (s.report p bitNo syn addr inj).bars = s.bars ∧ (s.report p bitNo syn addr inj).arrived = s.arrived ∧
    (s.report p bitNo syn addr inj).fins = s.fins ∧ (s.report p bitNo syn addr inj).chain = s.chain ∧
    (s.report p bitNo syn addr inj).ports = s.ports ∧ (s.report p bitNo syn addr inj).syncRun = s.syncRun ∧
    (s.report p bitNo syn addr inj).tsyncEdges = s.tsyncEdges ∧ (s.report p bitNo syn addr inj).pwr = s.pwr ∧
    (s.report p bitNo syn addr inj).start = s.start ∧ (s.report p bitNo syn addr inj).tap = s.tap ∧
    (s.report p bitNo syn addr inj).mgmt = s.mgmt ∧
    (s.report p bitNo syn addr inj).fabSize = s.fabSize ∧ (s.report p bitNo syn addr inj).remotes = s.remotes := by
  obtain ⟨_, h⟩ := State.report_eq s p bitNo syn addr inj
  rw [h]; exact ⟨rfl, rfl, rfl, rfl, rfl, rfl, rfl, rfl, rfl, rfl, rfl, rfl, rfl, rfl, rfl, rfl, rfl, rfl, rfl, rfl, rfl, rfl, rfl, rfl, rfl, rfl, rfl, rfl, rfl, rfl, rfl, rfl, rfl, rfl, rfl, rfl, rfl, rfl, rfl, rfl, rfl, rfl, rfl, rfl, rfl, rfl, rfl⟩

/-- raiseWith changes nothing but regs, reports. -/
theorem State.raiseWith_eq (s : State) (p : Page) (bitNo : Nat) (syn : W32) (addr : W64) (inj : Bool) :
    ∃ r0 r1, s.raiseWith p bitNo syn addr inj = { s with regs := r0, reports := r1 } := by
  obtain ⟨r, h⟩ := State.setErr_eq s p bitNo syn
  obtain ⟨q, h'⟩ := State.report_eq (s.setErr p bitNo syn) p bitNo syn addr inj
  exact ⟨r, q, by rw [State.raiseWith, h', h]⟩

/-- What raiseWith leaves as it is. -/
@[simp] theorem State.raiseWith_keeps (s : State) (p : Page) (bitNo : Nat) (syn : W32) (addr : W64) (inj : Bool) :
    (s.raiseWith p bitNo syn addr inj).pending = s.pending ∧ (s.raiseWith p bitNo syn addr inj).freeCtr = s.freeCtr ∧
    (s.raiseWith p bitNo syn addr inj).latches = s.latches ∧ (s.raiseWith p bitNo syn addr inj).lastResp = s.lastResp ∧
    (s.raiseWith p bitNo syn addr inj).tables = s.tables ∧ (s.raiseWith p bitNo syn addr inj).mem = s.mem ∧
    (s.raiseWith p bitNo syn addr inj).memErr = s.memErr ∧ (s.raiseWith p bitNo syn addr inj).tsram = s.tsram ∧
    (s.raiseWith p bitNo syn addr inj).tsramUe = s.tsramUe ∧ (s.raiseWith p bitNo syn addr inj).cores = s.cores ∧
    (s.raiseWith p bitNo syn addr inj).coxes = s.coxes ∧ (s.raiseWith p bitNo syn addr inj).featherOpen = s.featherOpen ∧
    (s.raiseWith p bitNo syn addr inj).featherHist = s.featherHist ∧ (s.raiseWith p bitNo syn addr inj).seeds = s.seeds ∧
    (s.raiseWith p bitNo syn addr inj).fabTime = s.fabTime ∧ (s.raiseWith p bitNo syn addr inj).steps = s.steps ∧
    (s.raiseWith p bitNo syn addr inj).ump = s.ump ∧ (s.raiseWith p bitNo syn addr inj).flt = s.flt ∧
    (s.raiseWith p bitNo syn addr inj).earlyFail = s.earlyFail ∧ (s.raiseWith p bitNo syn addr inj).loanReqs = s.loanReqs ∧
    (s.raiseWith p bitNo syn addr inj).nextTag = s.nextTag ∧ (s.raiseWith p bitNo syn addr inj).rings = s.rings ∧
    (s.raiseWith p bitNo syn addr inj).irqs = s.irqs ∧ (s.raiseWith p bitNo syn addr inj).linkDown = s.linkDown ∧
    (s.raiseWith p bitNo syn addr inj).d2d = s.d2d ∧ (s.raiseWith p bitNo syn addr inj).lastDevice = s.lastDevice ∧
    (s.raiseWith p bitNo syn addr inj).lastRead = s.lastRead ∧ (s.raiseWith p bitNo syn addr inj).inject = s.inject ∧
    (s.raiseWith p bitNo syn addr inj).catches = s.catches ∧ (s.raiseWith p bitNo syn addr inj).tdescs = s.tdescs ∧
    (s.raiseWith p bitNo syn addr inj).hrd = s.hrd ∧ (s.raiseWith p bitNo syn addr inj).remoteReads = s.remoteReads ∧
    (s.raiseWith p bitNo syn addr inj).children = s.children ∧ (s.raiseWith p bitNo syn addr inj).bars = s.bars ∧
    (s.raiseWith p bitNo syn addr inj).arrived = s.arrived ∧ (s.raiseWith p bitNo syn addr inj).fins = s.fins ∧
    (s.raiseWith p bitNo syn addr inj).chain = s.chain ∧ (s.raiseWith p bitNo syn addr inj).ports = s.ports ∧
    (s.raiseWith p bitNo syn addr inj).syncRun = s.syncRun ∧ (s.raiseWith p bitNo syn addr inj).tsyncEdges = s.tsyncEdges ∧
    (s.raiseWith p bitNo syn addr inj).pwr = s.pwr ∧ (s.raiseWith p bitNo syn addr inj).start = s.start ∧
    (s.raiseWith p bitNo syn addr inj).tap = s.tap ∧ (s.raiseWith p bitNo syn addr inj).mgmt = s.mgmt ∧
    (s.raiseWith p bitNo syn addr inj).fabSize = s.fabSize ∧ (s.raiseWith p bitNo syn addr inj).remotes = s.remotes := by
  obtain ⟨_, _, h⟩ := State.raiseWith_eq s p bitNo syn addr inj
  rw [h]; exact ⟨rfl, rfl, rfl, rfl, rfl, rfl, rfl, rfl, rfl, rfl, rfl, rfl, rfl, rfl, rfl, rfl, rfl, rfl, rfl, rfl, rfl, rfl, rfl, rfl, rfl, rfl, rfl, rfl, rfl, rfl, rfl, rfl, rfl, rfl, rfl, rfl, rfl, rfl, rfl, rfl, rfl, rfl, rfl, rfl, rfl, rfl⟩

/-- raise changes nothing but regs, reports. -/
theorem State.raise_eq (s : State) (p : Page) (bitNo : Nat) (syn : W32) (addr : W64) :
    ∃ r0 r1, s.raise p bitNo syn addr = { s with regs := r0, reports := r1 } := by
  unfold State.raise; split
  · obtain ⟨r, h⟩ := State.useInject_eq s p
    obtain ⟨q, w, h'⟩ := State.raiseWith_eq (s.useInject p) p bitNo syn addr true
    exact ⟨q, w, by rw [h', h]⟩
  · exact State.raiseWith_eq s p bitNo syn addr false

/-- What raise leaves as it is. -/
@[simp] theorem State.raise_keeps (s : State) (p : Page) (bitNo : Nat) (syn : W32) (addr : W64) :
    (s.raise p bitNo syn addr).pending = s.pending ∧ (s.raise p bitNo syn addr).freeCtr = s.freeCtr ∧
    (s.raise p bitNo syn addr).latches = s.latches ∧ (s.raise p bitNo syn addr).lastResp = s.lastResp ∧
    (s.raise p bitNo syn addr).tables = s.tables ∧ (s.raise p bitNo syn addr).mem = s.mem ∧
    (s.raise p bitNo syn addr).memErr = s.memErr ∧ (s.raise p bitNo syn addr).tsram = s.tsram ∧
    (s.raise p bitNo syn addr).tsramUe = s.tsramUe ∧ (s.raise p bitNo syn addr).cores = s.cores ∧
    (s.raise p bitNo syn addr).coxes = s.coxes ∧ (s.raise p bitNo syn addr).featherOpen = s.featherOpen ∧
    (s.raise p bitNo syn addr).featherHist = s.featherHist ∧ (s.raise p bitNo syn addr).seeds = s.seeds ∧
    (s.raise p bitNo syn addr).fabTime = s.fabTime ∧ (s.raise p bitNo syn addr).steps = s.steps ∧
    (s.raise p bitNo syn addr).ump = s.ump ∧ (s.raise p bitNo syn addr).flt = s.flt ∧
    (s.raise p bitNo syn addr).earlyFail = s.earlyFail ∧ (s.raise p bitNo syn addr).loanReqs = s.loanReqs ∧
    (s.raise p bitNo syn addr).nextTag = s.nextTag ∧ (s.raise p bitNo syn addr).rings = s.rings ∧
    (s.raise p bitNo syn addr).irqs = s.irqs ∧ (s.raise p bitNo syn addr).linkDown = s.linkDown ∧
    (s.raise p bitNo syn addr).d2d = s.d2d ∧ (s.raise p bitNo syn addr).lastDevice = s.lastDevice ∧
    (s.raise p bitNo syn addr).lastRead = s.lastRead ∧ (s.raise p bitNo syn addr).inject = s.inject ∧
    (s.raise p bitNo syn addr).catches = s.catches ∧ (s.raise p bitNo syn addr).tdescs = s.tdescs ∧
    (s.raise p bitNo syn addr).hrd = s.hrd ∧ (s.raise p bitNo syn addr).remoteReads = s.remoteReads ∧
    (s.raise p bitNo syn addr).children = s.children ∧ (s.raise p bitNo syn addr).bars = s.bars ∧
    (s.raise p bitNo syn addr).arrived = s.arrived ∧ (s.raise p bitNo syn addr).fins = s.fins ∧
    (s.raise p bitNo syn addr).chain = s.chain ∧ (s.raise p bitNo syn addr).ports = s.ports ∧
    (s.raise p bitNo syn addr).syncRun = s.syncRun ∧ (s.raise p bitNo syn addr).tsyncEdges = s.tsyncEdges ∧
    (s.raise p bitNo syn addr).pwr = s.pwr ∧ (s.raise p bitNo syn addr).start = s.start ∧ (s.raise p bitNo syn addr).tap = s.tap ∧
    (s.raise p bitNo syn addr).mgmt = s.mgmt ∧ (s.raise p bitNo syn addr).fabSize = s.fabSize ∧ (s.raise p bitNo syn addr).remotes = s.remotes := by
  obtain ⟨_, _, h⟩ := State.raise_eq s p bitNo syn addr
  rw [h]; exact ⟨rfl, rfl, rfl, rfl, rfl, rfl, rfl, rfl, rfl, rfl, rfl, rfl, rfl, rfl, rfl, rfl, rfl, rfl, rfl, rfl, rfl, rfl, rfl, rfl, rfl, rfl, rfl, rfl, rfl, rfl, rfl, rfl, rfl, rfl, rfl, rfl, rfl, rfl, rfl, rfl, rfl, rfl, rfl, rfl, rfl, rfl⟩

/-- err changes nothing but regs, reports, freeCtr. -/
theorem State.err_eq (s : State) (p : Page) (bitNo : Nat) :
    ∃ r0 r1 r2, s.err p bitNo = { s with regs := r0, reports := r1, freeCtr := r2 } := by
  obtain ⟨q, w, h⟩ := State.raise_eq s.fresh.2 p bitNo (s.fresh.1.setWidth 32) 0
  exact ⟨q, w, s.freeCtr + 1, h⟩

/-- What err leaves as it is. -/
@[simp] theorem State.err_keeps (s : State) (p : Page) (bitNo : Nat) :
    (s.err p bitNo).pending = s.pending ∧ (s.err p bitNo).latches = s.latches ∧ (s.err p bitNo).lastResp = s.lastResp ∧
    (s.err p bitNo).tables = s.tables ∧ (s.err p bitNo).mem = s.mem ∧ (s.err p bitNo).memErr = s.memErr ∧
    (s.err p bitNo).tsram = s.tsram ∧ (s.err p bitNo).tsramUe = s.tsramUe ∧ (s.err p bitNo).cores = s.cores ∧
    (s.err p bitNo).coxes = s.coxes ∧ (s.err p bitNo).featherOpen = s.featherOpen ∧ (s.err p bitNo).featherHist = s.featherHist ∧
    (s.err p bitNo).seeds = s.seeds ∧ (s.err p bitNo).fabTime = s.fabTime ∧ (s.err p bitNo).steps = s.steps ∧
    (s.err p bitNo).ump = s.ump ∧ (s.err p bitNo).flt = s.flt ∧ (s.err p bitNo).earlyFail = s.earlyFail ∧
    (s.err p bitNo).loanReqs = s.loanReqs ∧ (s.err p bitNo).nextTag = s.nextTag ∧ (s.err p bitNo).rings = s.rings ∧
    (s.err p bitNo).irqs = s.irqs ∧ (s.err p bitNo).linkDown = s.linkDown ∧ (s.err p bitNo).d2d = s.d2d ∧
    (s.err p bitNo).lastDevice = s.lastDevice ∧ (s.err p bitNo).lastRead = s.lastRead ∧ (s.err p bitNo).inject = s.inject ∧
    (s.err p bitNo).catches = s.catches ∧ (s.err p bitNo).tdescs = s.tdescs ∧ (s.err p bitNo).hrd = s.hrd ∧
    (s.err p bitNo).remoteReads = s.remoteReads ∧ (s.err p bitNo).children = s.children ∧ (s.err p bitNo).bars = s.bars ∧
    (s.err p bitNo).arrived = s.arrived ∧ (s.err p bitNo).fins = s.fins ∧ (s.err p bitNo).chain = s.chain ∧
    (s.err p bitNo).ports = s.ports ∧ (s.err p bitNo).syncRun = s.syncRun ∧ (s.err p bitNo).tsyncEdges = s.tsyncEdges ∧
    (s.err p bitNo).pwr = s.pwr ∧ (s.err p bitNo).start = s.start ∧ (s.err p bitNo).tap = s.tap ∧ (s.err p bitNo).mgmt = s.mgmt ∧
    (s.err p bitNo).fabSize = s.fabSize ∧ (s.err p bitNo).remotes = s.remotes := by
  obtain ⟨_, _, _, h⟩ := State.err_eq s p bitNo
  rw [h]; exact ⟨rfl, rfl, rfl, rfl, rfl, rfl, rfl, rfl, rfl, rfl, rfl, rfl, rfl, rfl, rfl, rfl, rfl, rfl, rfl, rfl, rfl, rfl, rfl, rfl, rfl, rfl, rfl, rfl, rfl, rfl, rfl, rfl, rfl, rfl, rfl, rfl, rfl, rfl, rfl, rfl, rfl, rfl, rfl, rfl, rfl⟩

/-- errAt changes nothing but regs, reports, freeCtr. -/
theorem State.errAt_eq (s : State) (p : Page) (bitNo addr : Nat) :
    ∃ r0 r1 r2, s.errAt p bitNo addr = { s with regs := r0, reports := r1, freeCtr := r2 } := by
  obtain ⟨q, w, h⟩ := State.raise_eq s.fresh.2 p bitNo (s.fresh.1.setWidth 32) (BitVec.ofNat 64 addr)
  exact ⟨q, w, s.freeCtr + 1, h⟩

/-- What errAt leaves as it is. -/
@[simp] theorem State.errAt_keeps (s : State) (p : Page) (bitNo addr : Nat) :
    (s.errAt p bitNo addr).pending = s.pending ∧ (s.errAt p bitNo addr).latches = s.latches ∧
    (s.errAt p bitNo addr).lastResp = s.lastResp ∧ (s.errAt p bitNo addr).tables = s.tables ∧ (s.errAt p bitNo addr).mem = s.mem ∧
    (s.errAt p bitNo addr).memErr = s.memErr ∧ (s.errAt p bitNo addr).tsram = s.tsram ∧ (s.errAt p bitNo addr).tsramUe = s.tsramUe ∧
    (s.errAt p bitNo addr).cores = s.cores ∧ (s.errAt p bitNo addr).coxes = s.coxes ∧
    (s.errAt p bitNo addr).featherOpen = s.featherOpen ∧ (s.errAt p bitNo addr).featherHist = s.featherHist ∧
    (s.errAt p bitNo addr).seeds = s.seeds ∧ (s.errAt p bitNo addr).fabTime = s.fabTime ∧ (s.errAt p bitNo addr).steps = s.steps ∧
    (s.errAt p bitNo addr).ump = s.ump ∧ (s.errAt p bitNo addr).flt = s.flt ∧ (s.errAt p bitNo addr).earlyFail = s.earlyFail ∧
    (s.errAt p bitNo addr).loanReqs = s.loanReqs ∧ (s.errAt p bitNo addr).nextTag = s.nextTag ∧
    (s.errAt p bitNo addr).rings = s.rings ∧ (s.errAt p bitNo addr).irqs = s.irqs ∧ (s.errAt p bitNo addr).linkDown = s.linkDown ∧
    (s.errAt p bitNo addr).d2d = s.d2d ∧ (s.errAt p bitNo addr).lastDevice = s.lastDevice ∧
    (s.errAt p bitNo addr).lastRead = s.lastRead ∧ (s.errAt p bitNo addr).inject = s.inject ∧
    (s.errAt p bitNo addr).catches = s.catches ∧ (s.errAt p bitNo addr).tdescs = s.tdescs ∧ (s.errAt p bitNo addr).hrd = s.hrd ∧
    (s.errAt p bitNo addr).remoteReads = s.remoteReads ∧ (s.errAt p bitNo addr).children = s.children ∧
    (s.errAt p bitNo addr).bars = s.bars ∧ (s.errAt p bitNo addr).arrived = s.arrived ∧ (s.errAt p bitNo addr).fins = s.fins ∧
    (s.errAt p bitNo addr).chain = s.chain ∧ (s.errAt p bitNo addr).ports = s.ports ∧ (s.errAt p bitNo addr).syncRun = s.syncRun ∧
    (s.errAt p bitNo addr).tsyncEdges = s.tsyncEdges ∧ (s.errAt p bitNo addr).pwr = s.pwr ∧ (s.errAt p bitNo addr).start = s.start ∧
    (s.errAt p bitNo addr).tap = s.tap ∧ (s.errAt p bitNo addr).mgmt = s.mgmt ∧
    (s.errAt p bitNo addr).fabSize = s.fabSize ∧ (s.errAt p bitNo addr).remotes = s.remotes := by
  obtain ⟨_, _, _, h⟩ := State.errAt_eq s p bitNo addr
  rw [h]; exact ⟨rfl, rfl, rfl, rfl, rfl, rfl, rfl, rfl, rfl, rfl, rfl, rfl, rfl, rfl, rfl, rfl, rfl, rfl, rfl, rfl, rfl, rfl, rfl, rfl, rfl, rfl, rfl, rfl, rfl, rfl, rfl, rfl, rfl, rfl, rfl, rfl, rfl, rfl, rfl, rfl, rfl, rfl, rfl, rfl, rfl⟩

/-- ctlAccess changes nothing but regs, reports, freeCtr. -/
theorem State.ctlAccess_eq (s : State) (p : Page) :
    ∃ r0 r1 r2, s.ctlAccess p = { s with regs := r0, reports := r1, freeCtr := r2 } := State.err_eq s p E.CTL_ACCESS

/-- What ctlAccess leaves as it is. -/
@[simp] theorem State.ctlAccess_keeps (s : State) (p : Page) :
    (s.ctlAccess p).pending = s.pending ∧ (s.ctlAccess p).latches = s.latches ∧ (s.ctlAccess p).lastResp = s.lastResp ∧
    (s.ctlAccess p).tables = s.tables ∧ (s.ctlAccess p).mem = s.mem ∧ (s.ctlAccess p).memErr = s.memErr ∧
    (s.ctlAccess p).tsram = s.tsram ∧ (s.ctlAccess p).tsramUe = s.tsramUe ∧ (s.ctlAccess p).cores = s.cores ∧
    (s.ctlAccess p).coxes = s.coxes ∧ (s.ctlAccess p).featherOpen = s.featherOpen ∧ (s.ctlAccess p).featherHist = s.featherHist ∧
    (s.ctlAccess p).seeds = s.seeds ∧ (s.ctlAccess p).fabTime = s.fabTime ∧ (s.ctlAccess p).steps = s.steps ∧
    (s.ctlAccess p).ump = s.ump ∧ (s.ctlAccess p).flt = s.flt ∧ (s.ctlAccess p).earlyFail = s.earlyFail ∧
    (s.ctlAccess p).loanReqs = s.loanReqs ∧ (s.ctlAccess p).nextTag = s.nextTag ∧ (s.ctlAccess p).rings = s.rings ∧
    (s.ctlAccess p).irqs = s.irqs ∧ (s.ctlAccess p).linkDown = s.linkDown ∧ (s.ctlAccess p).d2d = s.d2d ∧
    (s.ctlAccess p).lastDevice = s.lastDevice ∧ (s.ctlAccess p).lastRead = s.lastRead ∧ (s.ctlAccess p).inject = s.inject ∧
    (s.ctlAccess p).catches = s.catches ∧ (s.ctlAccess p).tdescs = s.tdescs ∧ (s.ctlAccess p).hrd = s.hrd ∧
    (s.ctlAccess p).remoteReads = s.remoteReads ∧ (s.ctlAccess p).children = s.children ∧ (s.ctlAccess p).bars = s.bars ∧
    (s.ctlAccess p).arrived = s.arrived ∧ (s.ctlAccess p).fins = s.fins ∧ (s.ctlAccess p).chain = s.chain ∧
    (s.ctlAccess p).ports = s.ports ∧ (s.ctlAccess p).syncRun = s.syncRun ∧ (s.ctlAccess p).tsyncEdges = s.tsyncEdges ∧
    (s.ctlAccess p).pwr = s.pwr ∧ (s.ctlAccess p).start = s.start ∧ (s.ctlAccess p).tap = s.tap ∧ (s.ctlAccess p).mgmt = s.mgmt ∧
    (s.ctlAccess p).fabSize = s.fabSize ∧ (s.ctlAccess p).remotes = s.remotes := by
  obtain ⟨_, _, _, h⟩ := State.ctlAccess_eq s p
  rw [h]; exact ⟨rfl, rfl, rfl, rfl, rfl, rfl, rfl, rfl, rfl, rfl, rfl, rfl, rfl, rfl, rfl, rfl, rfl, rfl, rfl, rfl, rfl, rfl, rfl, rfl, rfl, rfl, rfl, rfl, rfl, rfl, rfl, rfl, rfl, rfl, rfl, rfl, rfl, rfl, rfl, rfl, rfl, rfl, rfl, rfl, rfl⟩

/-- failStep changes nothing but steps, inject, earlyFail. -/
theorem State.failStep_eq (s : State) (n : Nat) :
    ∃ r0 r1 r2, s.failStep n = { s with steps := r0, inject := r1, earlyFail := r2 } := by
  unfold State.failStep; split
  · split
    · exact ⟨s.steps, s.inject, _, rfl⟩
    · exact ⟨s.steps, s.inject, s.earlyFail, rfl⟩
  · split
    · exact ⟨s.steps, s.inject, s.earlyFail, rfl⟩
    · exact ⟨_, _, s.earlyFail, rfl⟩

/-- What failStep leaves as it is. -/
@[simp] theorem State.failStep_keeps (s : State) (n : Nat) :
    (s.failStep n).pending = s.pending ∧ (s.failStep n).freeCtr = s.freeCtr ∧ (s.failStep n).regs = s.regs ∧
    (s.failStep n).latches = s.latches ∧ (s.failStep n).lastResp = s.lastResp ∧ (s.failStep n).tables = s.tables ∧
    (s.failStep n).mem = s.mem ∧ (s.failStep n).memErr = s.memErr ∧ (s.failStep n).tsram = s.tsram ∧ (s.failStep n).tsramUe = s.tsramUe ∧
    (s.failStep n).cores = s.cores ∧ (s.failStep n).coxes = s.coxes ∧ (s.failStep n).featherOpen = s.featherOpen ∧
    (s.failStep n).featherHist = s.featherHist ∧ (s.failStep n).seeds = s.seeds ∧ (s.failStep n).reports = s.reports ∧
    (s.failStep n).fabTime = s.fabTime ∧ (s.failStep n).ump = s.ump ∧ (s.failStep n).flt = s.flt ∧
    (s.failStep n).loanReqs = s.loanReqs ∧ (s.failStep n).nextTag = s.nextTag ∧ (s.failStep n).rings = s.rings ∧
    (s.failStep n).irqs = s.irqs ∧ (s.failStep n).linkDown = s.linkDown ∧ (s.failStep n).d2d = s.d2d ∧
    (s.failStep n).lastDevice = s.lastDevice ∧ (s.failStep n).lastRead = s.lastRead ∧ (s.failStep n).catches = s.catches ∧
    (s.failStep n).tdescs = s.tdescs ∧ (s.failStep n).hrd = s.hrd ∧ (s.failStep n).remoteReads = s.remoteReads ∧
    (s.failStep n).children = s.children ∧ (s.failStep n).bars = s.bars ∧ (s.failStep n).arrived = s.arrived ∧
    (s.failStep n).fins = s.fins ∧ (s.failStep n).chain = s.chain ∧ (s.failStep n).ports = s.ports ∧
    (s.failStep n).syncRun = s.syncRun ∧ (s.failStep n).tsyncEdges = s.tsyncEdges ∧ (s.failStep n).pwr = s.pwr ∧
    (s.failStep n).start = s.start ∧ (s.failStep n).tap = s.tap ∧ (s.failStep n).mgmt = s.mgmt ∧
    (s.failStep n).fabSize = s.fabSize ∧ (s.failStep n).remotes = s.remotes := by
  obtain ⟨_, _, _, h⟩ := State.failStep_eq s n
  rw [h]; exact ⟨rfl, rfl, rfl, rfl, rfl, rfl, rfl, rfl, rfl, rfl, rfl, rfl, rfl, rfl, rfl, rfl, rfl, rfl, rfl, rfl, rfl, rfl, rfl, rfl, rfl, rfl, rfl, rfl, rfl, rfl, rfl, rfl, rfl, rfl, rfl, rfl, rfl, rfl, rfl, rfl, rfl, rfl, rfl, rfl, rfl⟩

/-- suspect changes nothing but regs, steps. -/
theorem State.suspect_eq (s : State) :
    ∃ r0 r1, s.suspect = { s with regs := r0, steps := r1 } := by
  unfold State.suspect; split
  · exact ⟨s.regs, s.steps, rfl⟩
  · split
    · exact ⟨s.regs, s.steps, rfl⟩
    · obtain ⟨r, h⟩ := State.count_eq (s.modStep s.openStep (fun x => { x with word := x.word ||| 2#32 })) .rel R.REL_SUSPECT_STEPS 1
      exact ⟨r, _, h⟩

/-- What suspect leaves as it is. -/
@[simp] theorem State.suspect_keeps (s : State) :
    (s.suspect).pending = s.pending ∧ (s.suspect).freeCtr = s.freeCtr ∧ (s.suspect).latches = s.latches ∧
    (s.suspect).lastResp = s.lastResp ∧ (s.suspect).tables = s.tables ∧ (s.suspect).mem = s.mem ∧ (s.suspect).memErr = s.memErr ∧
    (s.suspect).tsram = s.tsram ∧ (s.suspect).tsramUe = s.tsramUe ∧ (s.suspect).cores = s.cores ∧ (s.suspect).coxes = s.coxes ∧
    (s.suspect).featherOpen = s.featherOpen ∧ (s.suspect).featherHist = s.featherHist ∧ (s.suspect).seeds = s.seeds ∧
    (s.suspect).reports = s.reports ∧ (s.suspect).fabTime = s.fabTime ∧ (s.suspect).ump = s.ump ∧ (s.suspect).flt = s.flt ∧
    (s.suspect).earlyFail = s.earlyFail ∧ (s.suspect).loanReqs = s.loanReqs ∧ (s.suspect).nextTag = s.nextTag ∧
    (s.suspect).rings = s.rings ∧ (s.suspect).irqs = s.irqs ∧ (s.suspect).linkDown = s.linkDown ∧ (s.suspect).d2d = s.d2d ∧
    (s.suspect).lastDevice = s.lastDevice ∧ (s.suspect).lastRead = s.lastRead ∧ (s.suspect).inject = s.inject ∧
    (s.suspect).catches = s.catches ∧ (s.suspect).tdescs = s.tdescs ∧ (s.suspect).hrd = s.hrd ∧
    (s.suspect).remoteReads = s.remoteReads ∧ (s.suspect).children = s.children ∧ (s.suspect).bars = s.bars ∧
    (s.suspect).arrived = s.arrived ∧ (s.suspect).fins = s.fins ∧ (s.suspect).chain = s.chain ∧ (s.suspect).ports = s.ports ∧
    (s.suspect).syncRun = s.syncRun ∧ (s.suspect).tsyncEdges = s.tsyncEdges ∧ (s.suspect).pwr = s.pwr ∧ (s.suspect).start = s.start ∧
    (s.suspect).tap = s.tap ∧ (s.suspect).mgmt = s.mgmt ∧ (s.suspect).fabSize = s.fabSize ∧ (s.suspect).remotes = s.remotes := by
  obtain ⟨_, _, h⟩ := State.suspect_eq s 
  rw [h]; exact ⟨rfl, rfl, rfl, rfl, rfl, rfl, rfl, rfl, rfl, rfl, rfl, rfl, rfl, rfl, rfl, rfl, rfl, rfl, rfl, rfl, rfl, rfl, rfl, rfl, rfl, rfl, rfl, rfl, rfl, rfl, rfl, rfl, rfl, rfl, rfl, rfl, rfl, rfl, rfl, rfl, rfl, rfl, rfl, rfl, rfl, rfl⟩

/-- tileCe changes nothing but regs, steps. -/
theorem State.tileCe_eq (s : State) (t : Nat) :
    ∃ r0 r1, s.tileCe t = { s with regs := r0, steps := r1 } := by
  unfold State.tileCe; split
  · exact ⟨s.regs, s.steps, rfl⟩
  · rename_i x _
    dsimp only []
    split
    · obtain ⟨r, q, h⟩ := State.suspect_eq (s.modStep s.openStep (fun y => { y with ce := SMap.set (fun _ => 0) y.ce t (SMap.get (fun _ => 0) x.ce t + 1) }))
      exact ⟨r, q, h⟩
    · exact ⟨s.regs, _, rfl⟩

/-- What tileCe leaves as it is. -/
@[simp] theorem State.tileCe_keeps (s : State) (t : Nat) :
    (s.tileCe t).pending = s.pending ∧ (s.tileCe t).freeCtr = s.freeCtr ∧ (s.tileCe t).latches = s.latches ∧
    (s.tileCe t).lastResp = s.lastResp ∧ (s.tileCe t).tables = s.tables ∧ (s.tileCe t).mem = s.mem ∧ (s.tileCe t).memErr = s.memErr ∧
    (s.tileCe t).tsram = s.tsram ∧ (s.tileCe t).tsramUe = s.tsramUe ∧ (s.tileCe t).cores = s.cores ∧ (s.tileCe t).coxes = s.coxes ∧
    (s.tileCe t).featherOpen = s.featherOpen ∧ (s.tileCe t).featherHist = s.featherHist ∧ (s.tileCe t).seeds = s.seeds ∧
    (s.tileCe t).reports = s.reports ∧ (s.tileCe t).fabTime = s.fabTime ∧ (s.tileCe t).ump = s.ump ∧ (s.tileCe t).flt = s.flt ∧
    (s.tileCe t).earlyFail = s.earlyFail ∧ (s.tileCe t).loanReqs = s.loanReqs ∧ (s.tileCe t).nextTag = s.nextTag ∧
    (s.tileCe t).rings = s.rings ∧ (s.tileCe t).irqs = s.irqs ∧ (s.tileCe t).linkDown = s.linkDown ∧ (s.tileCe t).d2d = s.d2d ∧
    (s.tileCe t).lastDevice = s.lastDevice ∧ (s.tileCe t).lastRead = s.lastRead ∧ (s.tileCe t).inject = s.inject ∧
    (s.tileCe t).catches = s.catches ∧ (s.tileCe t).tdescs = s.tdescs ∧ (s.tileCe t).hrd = s.hrd ∧
    (s.tileCe t).remoteReads = s.remoteReads ∧ (s.tileCe t).children = s.children ∧ (s.tileCe t).bars = s.bars ∧
    (s.tileCe t).arrived = s.arrived ∧ (s.tileCe t).fins = s.fins ∧ (s.tileCe t).chain = s.chain ∧ (s.tileCe t).ports = s.ports ∧
    (s.tileCe t).syncRun = s.syncRun ∧ (s.tileCe t).tsyncEdges = s.tsyncEdges ∧ (s.tileCe t).pwr = s.pwr ∧
    (s.tileCe t).start = s.start ∧ (s.tileCe t).tap = s.tap ∧ (s.tileCe t).mgmt = s.mgmt ∧
    (s.tileCe t).fabSize = s.fabSize ∧ (s.tileCe t).remotes = s.remotes := by
  obtain ⟨_, _, h⟩ := State.tileCe_eq s t
  rw [h]; exact ⟨rfl, rfl, rfl, rfl, rfl, rfl, rfl, rfl, rfl, rfl, rfl, rfl, rfl, rfl, rfl, rfl, rfl, rfl, rfl, rfl, rfl, rfl, rfl, rfl, rfl, rfl, rfl, rfl, rfl, rfl, rfl, rfl, rfl, rfl, rfl, rfl, rfl, rfl, rfl, rfl, rfl, rfl, rfl, rfl, rfl, rfl⟩

/-- countEvs changes nothing but regs. -/
theorem State.countEvs_eq (s : State) (p : Page) (off : Nat) (e : Evs) :
    ∃ r0, s.countEvs p off e = { s with regs := r0 } := by
  have one (s : State) (n o : Nat) : ∃ r, (if n = 0 then s else s.count p o n) = { s with regs := r } := by
    split
    · exact ⟨s.regs, rfl⟩
    · exact State.count_eq s p o n
  obtain ⟨r, h⟩ := one s e.ovf off
  obtain ⟨r1, h1⟩ := one { s with regs := r } e.sat (off + 8)
  obtain ⟨r2, h2⟩ := one { s with regs := r1 } e.nan (off + 16)
  exact ⟨r2, by unfold State.countEvs; dsimp only []; rw [h, h1, h2]⟩

/-- What countEvs leaves as it is. -/
@[simp] theorem State.countEvs_keeps (s : State) (p : Page) (off : Nat) (e : Evs) :
    (s.countEvs p off e).pending = s.pending ∧ (s.countEvs p off e).freeCtr = s.freeCtr ∧ (s.countEvs p off e).latches = s.latches ∧
    (s.countEvs p off e).lastResp = s.lastResp ∧ (s.countEvs p off e).tables = s.tables ∧ (s.countEvs p off e).mem = s.mem ∧
    (s.countEvs p off e).memErr = s.memErr ∧ (s.countEvs p off e).tsram = s.tsram ∧ (s.countEvs p off e).tsramUe = s.tsramUe ∧
    (s.countEvs p off e).cores = s.cores ∧ (s.countEvs p off e).coxes = s.coxes ∧ (s.countEvs p off e).featherOpen = s.featherOpen ∧
    (s.countEvs p off e).featherHist = s.featherHist ∧ (s.countEvs p off e).seeds = s.seeds ∧
    (s.countEvs p off e).reports = s.reports ∧ (s.countEvs p off e).fabTime = s.fabTime ∧ (s.countEvs p off e).steps = s.steps ∧
    (s.countEvs p off e).ump = s.ump ∧ (s.countEvs p off e).flt = s.flt ∧ (s.countEvs p off e).earlyFail = s.earlyFail ∧
    (s.countEvs p off e).loanReqs = s.loanReqs ∧ (s.countEvs p off e).nextTag = s.nextTag ∧ (s.countEvs p off e).rings = s.rings ∧
    (s.countEvs p off e).irqs = s.irqs ∧ (s.countEvs p off e).linkDown = s.linkDown ∧ (s.countEvs p off e).d2d = s.d2d ∧
    (s.countEvs p off e).lastDevice = s.lastDevice ∧ (s.countEvs p off e).lastRead = s.lastRead ∧
    (s.countEvs p off e).inject = s.inject ∧ (s.countEvs p off e).catches = s.catches ∧ (s.countEvs p off e).tdescs = s.tdescs ∧
    (s.countEvs p off e).hrd = s.hrd ∧ (s.countEvs p off e).remoteReads = s.remoteReads ∧ (s.countEvs p off e).children = s.children ∧
    (s.countEvs p off e).bars = s.bars ∧ (s.countEvs p off e).arrived = s.arrived ∧ (s.countEvs p off e).fins = s.fins ∧
    (s.countEvs p off e).chain = s.chain ∧ (s.countEvs p off e).ports = s.ports ∧ (s.countEvs p off e).syncRun = s.syncRun ∧
    (s.countEvs p off e).tsyncEdges = s.tsyncEdges ∧ (s.countEvs p off e).pwr = s.pwr ∧ (s.countEvs p off e).start = s.start ∧
    (s.countEvs p off e).tap = s.tap ∧ (s.countEvs p off e).mgmt = s.mgmt ∧
    (s.countEvs p off e).fabSize = s.fabSize ∧ (s.countEvs p off e).remotes = s.remotes := by
  obtain ⟨_, h⟩ := State.countEvs_eq s p off e
  rw [h]; exact ⟨rfl, rfl, rfl, rfl, rfl, rfl, rfl, rfl, rfl, rfl, rfl, rfl, rfl, rfl, rfl, rfl, rfl, rfl, rfl, rfl, rfl, rfl, rfl, rfl, rfl, rfl, rfl, rfl, rfl, rfl, rfl, rfl, rfl, rfl, rfl, rfl, rfl, rfl, rfl, rfl, rfl, rfl, rfl, rfl, rfl, rfl, rfl⟩

/-- addEvs changes nothing but regs, coxes. -/
theorem State.addEvs_eq (s : State) (t : TileId) (it : Item) (st : Stream) (e : Evs) :
    ∃ r0 r1, s.addEvs t it st e = { s with regs := r0, coxes := r1 } := by
  unfold State.addEvs; split
  · exact ⟨s.regs, s.coxes, rfl⟩
  · obtain ⟨r, h⟩ := State.countEvs_eq (s.modTrain t it.train (fun tr => tr.modStage it.stage (fun g => g.addEvs st e))) .mod R.MOD_NUM_OVERFLOW e
    exact ⟨r, _, h⟩

/-- What addEvs leaves as it is. -/
@[simp] theorem State.addEvs_keeps (s : State) (t : TileId) (it : Item) (st : Stream) (e : Evs) :
    (s.addEvs t it st e).pending = s.pending ∧ (s.addEvs t it st e).freeCtr = s.freeCtr ∧ (s.addEvs t it st e).latches = s.latches ∧
    (s.addEvs t it st e).lastResp = s.lastResp ∧ (s.addEvs t it st e).tables = s.tables ∧ (s.addEvs t it st e).mem = s.mem ∧
    (s.addEvs t it st e).memErr = s.memErr ∧ (s.addEvs t it st e).tsram = s.tsram ∧ (s.addEvs t it st e).tsramUe = s.tsramUe ∧
    (s.addEvs t it st e).cores = s.cores ∧ (s.addEvs t it st e).featherOpen = s.featherOpen ∧
    (s.addEvs t it st e).featherHist = s.featherHist ∧ (s.addEvs t it st e).seeds = s.seeds ∧
    (s.addEvs t it st e).reports = s.reports ∧ (s.addEvs t it st e).fabTime = s.fabTime ∧ (s.addEvs t it st e).steps = s.steps ∧
    (s.addEvs t it st e).ump = s.ump ∧ (s.addEvs t it st e).flt = s.flt ∧ (s.addEvs t it st e).earlyFail = s.earlyFail ∧
    (s.addEvs t it st e).loanReqs = s.loanReqs ∧ (s.addEvs t it st e).nextTag = s.nextTag ∧ (s.addEvs t it st e).rings = s.rings ∧
    (s.addEvs t it st e).irqs = s.irqs ∧ (s.addEvs t it st e).linkDown = s.linkDown ∧ (s.addEvs t it st e).d2d = s.d2d ∧
    (s.addEvs t it st e).lastDevice = s.lastDevice ∧ (s.addEvs t it st e).lastRead = s.lastRead ∧
    (s.addEvs t it st e).inject = s.inject ∧ (s.addEvs t it st e).catches = s.catches ∧ (s.addEvs t it st e).tdescs = s.tdescs ∧
    (s.addEvs t it st e).hrd = s.hrd ∧ (s.addEvs t it st e).remoteReads = s.remoteReads ∧ (s.addEvs t it st e).children = s.children ∧
    (s.addEvs t it st e).bars = s.bars ∧ (s.addEvs t it st e).arrived = s.arrived ∧ (s.addEvs t it st e).fins = s.fins ∧
    (s.addEvs t it st e).chain = s.chain ∧ (s.addEvs t it st e).ports = s.ports ∧ (s.addEvs t it st e).syncRun = s.syncRun ∧
    (s.addEvs t it st e).tsyncEdges = s.tsyncEdges ∧ (s.addEvs t it st e).pwr = s.pwr ∧ (s.addEvs t it st e).start = s.start ∧
    (s.addEvs t it st e).tap = s.tap ∧ (s.addEvs t it st e).mgmt = s.mgmt ∧
    (s.addEvs t it st e).fabSize = s.fabSize ∧ (s.addEvs t it st e).remotes = s.remotes := by
  obtain ⟨_, _, h⟩ := State.addEvs_eq s t it st e
  rw [h]; exact ⟨rfl, rfl, rfl, rfl, rfl, rfl, rfl, rfl, rfl, rfl, rfl, rfl, rfl, rfl, rfl, rfl, rfl, rfl, rfl, rfl, rfl, rfl, rfl, rfl, rfl, rfl, rfl, rfl, rfl, rfl, rfl, rfl, rfl, rfl, rfl, rfl, rfl, rfl, rfl, rfl, rfl, rfl, rfl, rfl, rfl, rfl⟩

/-- What kept takes from the state before a command. -/
@[simp] theorem State.kept_from (s r : State) :
    (s.kept r).pending = s.pending ∧ (s.kept r).pwr = s.pwr ∧ (s.kept r).start = s.start ∧ (s.kept r).tap = s.tap ∧ (s.kept r).mgmt = s.mgmt :=
  ⟨rfl, rfl, rfl, rfl, rfl⟩

/-- What kept takes from the state after it. -/
@[simp] theorem State.kept_to (s r : State) :
    (s.kept r).freeCtr = r.freeCtr ∧ (s.kept r).regs = r.regs ∧ (s.kept r).latches = r.latches ∧ (s.kept r).lastResp = r.lastResp ∧
    (s.kept r).tables = r.tables ∧ (s.kept r).mem = r.mem ∧ (s.kept r).memErr = r.memErr ∧ (s.kept r).tsram = r.tsram ∧
    (s.kept r).tsramUe = r.tsramUe ∧ (s.kept r).cores = r.cores ∧ (s.kept r).coxes = r.coxes ∧ (s.kept r).featherOpen = r.featherOpen ∧
    (s.kept r).featherHist = r.featherHist ∧ (s.kept r).seeds = r.seeds ∧ (s.kept r).reports = r.reports ∧
    (s.kept r).fabTime = r.fabTime ∧ (s.kept r).steps = r.steps ∧ (s.kept r).ump = r.ump ∧ (s.kept r).flt = r.flt ∧
    (s.kept r).earlyFail = r.earlyFail ∧ (s.kept r).loanReqs = r.loanReqs ∧ (s.kept r).nextTag = r.nextTag ∧
    (s.kept r).rings = r.rings ∧ (s.kept r).irqs = r.irqs ∧ (s.kept r).linkDown = r.linkDown ∧ (s.kept r).d2d = r.d2d ∧
    (s.kept r).lastDevice = r.lastDevice ∧ (s.kept r).lastRead = r.lastRead ∧ (s.kept r).inject = r.inject ∧
    (s.kept r).catches = r.catches ∧ (s.kept r).tdescs = r.tdescs ∧ (s.kept r).hrd = r.hrd ∧ (s.kept r).remoteReads = r.remoteReads ∧
    (s.kept r).children = r.children ∧ (s.kept r).bars = r.bars ∧ (s.kept r).arrived = r.arrived ∧ (s.kept r).fins = r.fins ∧
    (s.kept r).chain = r.chain ∧ (s.kept r).ports = r.ports ∧ (s.kept r).syncRun = r.syncRun ∧ (s.kept r).tsyncEdges = r.tsyncEdges ∧
    (s.kept r).remotes = r.remotes :=
  ⟨rfl, rfl, rfl, rfl, rfl, rfl, rfl, rfl, rfl, rfl, rfl, rfl, rfl, rfl, rfl, rfl, rfl, rfl, rfl, rfl, rfl, rfl, rfl, rfl, rfl, rfl, rfl, rfl, rfl, rfl, rfl, rfl, rfl, rfl, rfl, rfl, rfl, rfl, rfl, rfl, rfl, rfl⟩

/-- A result that leaves the queue, the rails, the start sequencer, the TAP and the target alone is the command's own. -/
theorem State.kept_eq (s r : State) (h : r.pending = s.pending ∧ r.pwr = s.pwr ∧ r.start = s.start ∧ r.tap = s.tap ∧ r.mgmt = s.mgmt) :
    s.kept r = r := by
  obtain ⟨h1, h2, h3, h4, h5⟩ := h
  unfold State.kept
  rw [← h1, ← h2, ← h3, ← h4, ← h5]

/-- A powered module goes on in the command's state. -/
theorem State.live_on (s r : State) (h : s.pwr.on = true) : s.live r = .next (s.kept r) := by simp [State.live, h]

/-- R711: one without power does nothing. -/
theorem State.live_off (s r : State) (h : s.pwr.on = false) : s.live r = .next s := by simp [State.live, h]

theorem State.liveAll_on (s r : State) (h : s.pwr.on = true) : s.liveAll r = .next { r with pending := s.pending } := by
  simp [State.liveAll, h]

theorem State.liveAll_off (s r : State) (h : s.pwr.on = false) : s.liveAll r = .next s := by simp [State.liveAll, h]

/-- A register after a write. -/
theorem State.rd_wr (s : State) (p q : Page) (off off' v : Nat) :
    (s.wr p off v).rd q off' = if q.addr + off' = p.addr + off then v % 2 ^ 64 else s.rd q off' := by
  simp only [State.rd, State.wr, SMap.get_set]
  split <;> simp

@[simp] theorem State.rd_wr_same (s : State) (p : Page) (off v : Nat) : (s.wr p off v).rd p off = v % 2 ^ 64 := by simp [State.rd_wr]

/-- The registers of two pages are different. -/
theorem Page.addr_eq (p q : Page) (off off' : Nat) (h : off < 0x10000) (h' : off' < 0x10000)
    (he : p.addr + off = q.addr + off') : p = q ∧ off = off' := by
  have page (r : Page) (o : Nat) (ho : o < 0x10000) : Page.ofNumber ((r.addr + o) / 0x10000) = some r ∧ (r.addr + o) % 0x10000 = o := by
    refine ⟨?_, by cases r <;> simp only [Page.addr] <;> omega⟩
    have num (b n : Nat) : (b * 0x10000 + n * 0x10000 + o) / 0x10000 = b + n := by omega
    cases r with
    | cox t => simp only [Page.addr]; rw [show 0x0100000 = 0x10 * 0x10000 from rfl, num 0x10 t.val]; revert t; decide
    | core t => simp only [Page.addr]; rw [show 0x1000000 = 0x100 * 0x10000 from rfl, num 0x100 t.val]; revert t; decide
    | base t => simp only [Page.addr]; rw [show 0x2000000 = 0x200 * 0x10000 from rfl, num 0x200 t.val]; revert t; decide
    | port t => simp only [Page.addr]; rw [show 0x3000000 = 0x300 * 0x10000 from rfl, num 0x300 t.val]; revert t; decide
    | copy t => simp only [Page.addr]; rw [show 0x4000000 = 0x400 * 0x10000 from rfl, num 0x400 t.val]; revert t; decide
    | gather t => simp only [Page.addr]; rw [show 0x5000000 = 0x500 * 0x10000 from rfl, num 0x500 t.val]; revert t; decide
    | fin t => simp only [Page.addr]; rw [show 0x6000000 = 0x600 * 0x10000 from rfl, num 0x600 t.val]; revert t; decide
    | mod => simp only [Page.addr]; rw [show (0x0000000 + o) / 0x10000 = 0 by omega]; decide
    | pwr => simp only [Page.addr]; rw [show (0x0010000 + o) / 0x10000 = 1 by omega]; decide
    | clk => simp only [Page.addr]; rw [show (0x0020000 + o) / 0x10000 = 2 by omega]; decide
    | flt => simp only [Page.addr]; rw [show (0x0030000 + o) / 0x10000 = 3 by omega]; decide
    | rel => simp only [Page.addr]; rw [show (0x0040000 + o) / 0x10000 = 4 by omega]; decide
    | hrd => simp only [Page.addr]; rw [show (0x0050000 + o) / 0x10000 = 5 by omega]; decide
    | router => simp only [Page.addr]; rw [show (0x3060000 + o) / 0x10000 = 0x306 by omega]; decide
    | hostif => simp only [Page.addr]; rw [show (0x7000000 + o) / 0x10000 = 0x700 by omega]; decide
  have h1 := page p off h
  have h2 := page q off' h'
  rw [he] at h1
  exact ⟨by simpa using h1.1.symm.trans h2.1, h1.2.symm.trans h2.2⟩

@[simp] theorem State.core_setCore (s : State) (c : CoreId) (x : Core) : (s.setCore c x).core c = x := by
  simp [State.core, State.setCore]

theorem State.core_setCore_ne (s : State) (c d : CoreId) (x : Core) (h : d ≠ c) : (s.setCore c x).core d = s.core d := by
  simp only [State.core, State.setCore]
  exact SMap.get_set_ne _ _ _ _ _ (fun e => h (Fin.ext e))

@[simp] theorem State.cox_setCox (s : State) (t : TileId) (x : Cox) : (s.setCox t x).cox t = x := by
  simp [State.cox, State.setCox]

theorem State.cox_setCox_ne (s : State) (t u : TileId) (x : Cox) (h : u ≠ t) : (s.setCox t x).cox u = s.cox u := by
  simp only [State.cox, State.setCox]
  exact SMap.get_set_ne _ _ _ _ _ (fun e => h (Fin.ext e))

@[simp] theorem Core.thread_setThread (x : Core) (t : Nat) (th : Thread) : (x.setThread t th).thread t = th := by
  simp [Core.thread, Core.setThread]

theorem Core.thread_setThread_ne (x : Core) (t u : Nat) (th : Thread) (h : u ≠ t) : (x.setThread t th).thread u = x.thread u := by
  simp only [Core.thread, Core.setThread]
  exact SMap.get_set_ne _ _ _ _ _ h

@[simp] theorem State.thread_setThread (s : State) (c : CoreId) (t : Nat) (th : Thread) : (s.setThread c t th).thread c t = th := by
  simp [State.thread, State.setThread]

end Sys2Proof.Machine
end

