-- ==== Sys2Proof/Laws/Issue.lean ====
section
/-! SUPPORT. What the issue of an instruction does: the lemmas that every claim about a thread's instruction rests on. -/

namespace Sys2Proof.Machine

/-- An instruction that takes effect. -/
theorem issue_run {c : CoreId} {t : ThreadId} {legal : Bool} {body : State → Thread → Item → Issued} {s s' : State} {it : Item}
    {th' : Thread} {k : Int} (h : CanGo s c t it) (hl : legal = true) (hb : body s (s.thread c t.val) it = .run s' th' k) :
    issue c t legal body s = s'.issued s c t th' k := by
  have hi := h.item; have ht := h.train; have hc := h.line
  unfold issue
  simp only [hi, ht, hc, hl, hb, Bool.not_true, Bool.false_eq_true, if_false]
  rfl

/-- An instruction that faults. -/
theorem issue_fault {c : CoreId} {t : ThreadId} {legal : Bool} {body : State → Thread → Item → Issued} {s s' : State} {it : Item}
    {b : Nat} (h : CanGo s c t it) (hl : legal = true) (hb : body s (s.thread c t.val) it = .fault s' b) :
    issue c t legal body s = (s'.threadFault c t b).keepScratch s c := by
  have hi := h.item; have ht := h.train; have hc := h.line
  unfold issue
  simp only [hi, ht, hc, hl, hb, Bool.not_true, Bool.false_eq_true, if_false]

/-- An illegal word. -/
theorem issue_illegal {c : CoreId} {t : ThreadId} {body : State → Thread → Item → Issued} {s : State} {it : Item}
    (h : CanGo s c t it) : issue c t false body s = s.threadFault c t E.CORE_ILLEGAL_OP := by
  have hi := h.item; have ht := h.train; have hc := h.line
  unfold issue
  simp only [hi, ht, hc, Bool.not_true, Bool.not_false, Bool.false_eq_true, if_false, if_true]

/-- What keepScratch changes: error marks of one core's scratch. -/
theorem State.keepScratch_eq (s s0 : State) (c : CoreId) : ∃ r, s.keepScratch s0 c = { s with cores := r } := by
  unfold State.keepScratch; split
  · exact ⟨_, rfl⟩
  · exact ⟨s.cores, rfl⟩

theorem State.keepScratch_core (s s0 : State) (c d : CoreId) :
    ∃ u, (s.keepScratch s0 c).core d = { s.core d with scratchUe := u } := by
  unfold State.keepScratch; split
  · by_cases h : d = c
    · subst h; exact ⟨_, by rw [State.core_setCore]⟩
    · exact ⟨(s.core d).scratchUe, by rw [State.core_setCore_ne _ _ _ _ h]⟩
  · exact ⟨(s.core d).scratchUe, rfl⟩

@[simp] theorem State.keepScratch_thread (s s0 : State) (c d : CoreId) (t : Nat) : (s.keepScratch s0 c).thread d t = s.thread d t := by
  obtain ⟨u, h⟩ := State.keepScratch_core s s0 c d
  simp only [State.thread, h]; rfl

@[simp] theorem State.count_core (s : State) (p : Page) (off n : Nat) (c : CoreId) : (s.count p off n).core c = s.core c := by
  simp only [State.core, (State.count_keeps s p off n)]

@[simp] theorem State.count_thread (s : State) (p : Page) (off n : Nat) (c : CoreId) (t : Nat) :
    (s.count p off n).thread c t = s.thread c t := by simp only [State.thread, State.count_core]

/-- The thread after its instruction. -/
@[simp] theorem State.issued_thread (s s0 : State) (c : CoreId) (t : ThreadId) (th : Thread) (k : Int) :
    (s.issued s0 c t th k).thread c t.val = { th with pc := th.pc + BitVec.ofInt 64 (8 * k) } := by
  simp [State.issued]

/-- An instruction's issue changes the cores and CORE_VEC_ISSUE. -/
theorem State.issued_eq (s s0 : State) (c : CoreId) (t : ThreadId) (th : Thread) (k : Int) :
    ∃ r q, s.issued s0 c t th k = { s with cores := r, regs := q } := by
  obtain ⟨r, hr⟩ := State.keepScratch_eq ((s.setThread c t.val { th with pc := th.pc + BitVec.ofInt 64 (8 * k) }).count (.core c) R.CORE_VEC_ISSUE 1) s0 c
  obtain ⟨q, hq⟩ := State.count_eq (s.setThread c t.val { th with pc := th.pc + BitVec.ofInt 64 (8 * k) }) (.core c) R.CORE_VEC_ISSUE 1
  exact ⟨r, q, by rw [State.issued, hr, hq]; rfl⟩

theorem State.kept_issued (s s' : State) (c : CoreId) (t : ThreadId) (th : Thread) (k : Int)
    (h : s'.pending = s.pending ∧ s'.pwr = s.pwr ∧ s'.start = s.start ∧ s'.tap = s.tap ∧ s'.mgmt = s.mgmt) :
    s.kept (s'.issued s c t th k) = s'.issued s c t th k := by
  obtain ⟨r, q, e⟩ := State.issued_eq s' s c t th k
  apply State.kept_eq
  rw [e]
  exact h

/-- The answer to an instruction that takes effect. -/
theorem live_issue_run {c : CoreId} {t : ThreadId} {legal : Bool} {body : State → Thread → Item → Issued} {s s' : State} {it : Item}
    {th' : Thread} {k : Int} (h : CanGo s c t it) (hl : legal = true) (hb : body s (s.thread c t.val) it = .run s' th' k)
    (hs : s'.pending = s.pending ∧ s'.pwr = s.pwr ∧ s'.start = s.start ∧ s'.tap = s.tap ∧ s'.mgmt = s.mgmt) :
    s.live (issue c t legal body s) = .next (s'.issued s c t th' k) := by
  rw [issue_run h hl hb, State.live_on _ _ h.on, State.kept_issued _ _ _ _ _ _ hs]

end Sys2Proof.Machine
end

