-- ==== Sys2Proof/Laws/Errors.lean ====
section
/-! SUPPORT. What a recorded error leaves in the shared registers of its page (R51 to R53) and what it does not touch; bits and fields of
registers after a write. -/

namespace Sys2Proof.Machine

/-! Fields. -/

/-- A field write as a sum of the three parts of the word. -/
theorem setFld_eq (v hi lo x : Nat) :
    setFld v hi lo x = 2 ^ lo * (2 ^ (hi - lo + 1) * (v / 2 ^ lo / 2 ^ (hi - lo + 1)) + x % 2 ^ (hi - lo + 1)) + v % 2 ^ lo := by
  unfold setFld fld
  rw [Nat.shiftRight_eq_div_pow]
  have a := Nat.div_add_mod v (2 ^ lo)
  have b := Nat.div_add_mod (v / 2 ^ lo) (2 ^ (hi - lo + 1))
  generalize x % 2 ^ (hi - lo + 1) = y
  generalize hq : v / 2 ^ lo / 2 ^ (hi - lo + 1) = q at *
  generalize hm : v / 2 ^ lo % 2 ^ (hi - lo + 1) = mid at *
  generalize v / 2 ^ lo = V at *
  generalize v % 2 ^ lo = low at *
  generalize 2 ^ (hi - lo + 1) = B at *
  generalize 2 ^ lo = A at *
  subst b
  rw [Nat.mul_add] at a ⊢
  rw [Nat.mul_comm mid A, Nat.mul_comm y A]
  omega

/-- The bits of a word after a field write. -/
theorem testBit_setFld (v hi lo x i : Nat) (h : lo ≤ hi) :
    (setFld v hi lo x).testBit i = if lo ≤ i ∧ i ≤ hi then x.testBit (i - lo) else v.testBit i := by
  have low : v % 2 ^ lo < 2 ^ lo := Nat.mod_lt _ (Nat.two_pow_pos _)
  have mid : x % 2 ^ (hi - lo + 1) < 2 ^ (hi - lo + 1) := Nat.mod_lt _ (Nat.two_pow_pos _)
  rw [setFld_eq, Nat.testBit_two_pow_mul_add _ low]
  by_cases h1 : i < lo
  · rw [if_pos h1, if_neg (by omega), Nat.testBit_mod_two_pow]
    simp [h1]
  · rw [if_neg h1, Nat.testBit_two_pow_mul_add _ mid]
    by_cases h2 : i ≤ hi
    · rw [if_pos (by omega), if_pos (by omega), Nat.testBit_mod_two_pow]
      simp [show i - lo < hi - lo + 1 by omega]
    · rw [if_neg (by omega), if_neg (by omega), Nat.testBit_div_two_pow, Nat.testBit_div_two_pow]
      congr 1
      omega

/-- A field read is its bits. -/
theorem testBit_fld (v hi lo i : Nat) : (fld v hi lo).testBit i = (decide (i < hi - lo + 1) && v.testBit (lo + i)) := by
  unfold fld
  rw [Nat.testBit_mod_two_pow, Nat.testBit_shiftRight]

/-- A field that was written reads as the value written. -/
theorem fld_setFld_same (v hi lo x : Nat) (h : lo ≤ hi) : fld (setFld v hi lo x) hi lo = x % 2 ^ (hi - lo + 1) := by
  apply Nat.eq_of_testBit_eq
  intro i
  rw [testBit_fld, testBit_setFld _ _ _ _ _ h, Nat.testBit_mod_two_pow]
  by_cases hi' : i < hi - lo + 1
  · rw [if_pos (by omega)]; simp
  · simp [hi']

/-- A field apart from the one written reads as before. -/
theorem fld_setFld_other (v hi lo hi' lo' x : Nat) (h : lo ≤ hi) (h' : lo' ≤ hi') (hd : hi' < lo ∨ hi < lo') :
    fld (setFld v hi lo x) hi' lo' = fld v hi' lo' := by
  apply Nat.eq_of_testBit_eq
  intro i
  rw [testBit_fld, testBit_fld, testBit_setFld _ _ _ _ _ h]
  by_cases hi2 : i < hi' - lo' + 1
  · rw [if_neg (by omega)]
  · simp [hi2]

/-- A word of 64 bits stays one. -/
theorem setFld_lt (v hi lo x : Nat) (hv : v < 2 ^ 64) (h : hi < 64) (hl : lo ≤ hi) : setFld v hi lo x < 2 ^ 64 := by
  apply Nat.lt_pow_two_of_testBit
  intro i hi'
  rw [testBit_setFld _ _ _ _ _ hl, if_neg (by omega)]
  exact Nat.testBit_lt_two_pow (Nat.lt_of_lt_of_le hv (Nat.pow_le_pow_right (by omega) hi'))

/-! Registers. -/

theorem State.rd_lt (s : State) (p : Page) (off : Nat) : s.rd p off < 2 ^ 64 := (SMap.get regDefault s.regs (p.addr + off)).isLt

/-- A register after a field write. -/
theorem State.rd_wf (s : State) (p q : Page) (off off' hi lo v : Nat) (h : hi < 64) (hl : lo ≤ hi) :
    (s.wf p off hi lo v).rd q off' = if q.addr + off' = p.addr + off then setFld (s.rd p off) hi lo v else s.rd q off' := by
  unfold State.wf
  rw [State.rd_wr]
  split
  · exact Nat.mod_eq_of_lt (setFld_lt _ _ _ _ (State.rd_lt s p off) h hl)
  · rfl

/-- A bit of a register after a bit write. -/
theorem State.rb_wb (s : State) (p q : Page) (off off' n m : Nat) (b : Bool) (h : n < 64) :
    (s.wb p off n b).rb q off' m = if q.addr + off' = p.addr + off ∧ m = n then b else s.rb q off' m := by
  unfold State.wb State.rb
  rw [State.rd_wf _ _ _ _ _ _ _ _ h (Nat.le_refl n)]
  by_cases h1 : q.addr + off' = p.addr + off
  · rw [if_pos h1, testBit_setFld _ _ _ _ _ (Nat.le_refl n)]
    by_cases h2 : m = n
    · subst h2
      rw [if_pos ⟨Nat.le_refl _, Nat.le_refl _⟩, if_pos ⟨h1, rfl⟩]
      cases b <;> simp [b2n]
    · rw [if_neg (by omega), if_neg (by simp [h2])]
      have : (s.rd p off) = s.rd q off' := by simp only [State.rd, h1]
      rw [this]
  · rw [if_neg h1, if_neg (by simp [h1])]

/-- Registers of two different offsets of one page. -/
theorem Page.off_ne (p : Page) {a b : Nat} (h : a ≠ b) : p.addr + a ≠ p.addr + b := by omega

/-- The cores, trains and threads do not depend on the registers. -/
@[simp] theorem State.core_err (s : State) (p : Page) (b : Nat) (c : CoreId) : (s.err p b).core c = s.core c := by
  simp only [State.core, State.err_keeps s p b]

@[simp] theorem State.cox_err (s : State) (p : Page) (b : Nat) (t : TileId) : (s.err p b).cox t = s.cox t := by
  simp only [State.cox, State.err_keeps s p b]

/-! The registers of an error. -/

/-- A recorded error writes nothing but the three shared error registers of its page. -/
theorem State.rd_raise (s : State) (p q : Page) (bitNo : Nat) (syn : W32) (addr : W64) (off : Nat)
    (h1 : q.addr + off ≠ p.addr + R.SH_ERR_STICKY) (h2 : q.addr + off ≠ p.addr + R.SH_FIRST_ERR)
    (h3 : q.addr + off ≠ p.addr + R.SH_ERR_INJECT) : (s.raise p bitNo syn addr).rd q off = s.rd q off := by
  have rep (s : State) (inj : Bool) : (s.report p bitNo syn addr inj).rd q off = s.rd q off := by
    simp only [State.rd, State.report_keeps]
  have wr (s : State) (o v : Nat) (h : q.addr + off ≠ p.addr + o) : (s.wr p o v).rd q off = s.rd q off := by
    rw [State.rd_wr, if_neg h]
  have rw' (s : State) (inj : Bool) : (s.raiseWith p bitNo syn addr inj).rd q off = s.rd q off := by
    unfold State.raiseWith State.setErr State.wb State.wf
    rw [rep, wr _ _ _ h2, wr _ _ _ h1]
  unfold State.raise
  split
  · rw [rw']
    unfold State.useInject State.wb State.wf
    rw [wr _ _ _ h3, wr _ _ _ h3]
  · exact rw' s false

theorem State.rd_err (s : State) (p q : Page) (bitNo off : Nat)
    (h1 : q.addr + off ≠ p.addr + R.SH_ERR_STICKY) (h2 : q.addr + off ≠ p.addr + R.SH_FIRST_ERR)
    (h3 : q.addr + off ≠ p.addr + R.SH_ERR_INJECT) : (s.err p bitNo).rd q off = s.rd q off := by
  have := State.rd_raise s.fresh.2 p q bitNo (s.fresh.1.setWidth 32) 0 off h1 h2 h3
  exact this

/-- Its bit of ERR_STICKY is set, and the others of that register stay. -/
theorem State.sticky_raiseWith (s : State) (p : Page) (bitNo m : Nat) (syn : W32) (addr : W64) (inj : Bool) (h : bitNo < 64) :
    (s.raiseWith p bitNo syn addr inj).rb p R.SH_ERR_STICKY m = if m = bitNo then true else s.rb p R.SH_ERR_STICKY m := by
  have rep (s : State) : (s.report p bitNo syn addr inj).rb p R.SH_ERR_STICKY m = s.rb p R.SH_ERR_STICKY m := by
    simp only [State.rb, State.rd, State.report_keeps]
  have wr (s : State) (v : Nat) : (s.wr p R.SH_FIRST_ERR v).rb p R.SH_ERR_STICKY m = s.rb p R.SH_ERR_STICKY m := by
    unfold State.rb
    rw [State.rd_wr, if_neg (Page.off_ne p (by decide))]
  unfold State.raiseWith State.setErr
  rw [rep, wr, State.rb_wb _ _ _ _ _ _ _ _ h]
  simp

theorem State.sticky_raise (s : State) (p : Page) (bitNo m : Nat) (syn : W32) (addr : W64) (h : bitNo < 64) :
    (s.raise p bitNo syn addr).rb p R.SH_ERR_STICKY m = if m = bitNo then true else s.rb p R.SH_ERR_STICKY m := by
  unfold State.raise
  split
  · rw [State.sticky_raiseWith _ _ _ _ _ _ _ h]
    have e : (s.useInject p).rb p R.SH_ERR_STICKY m = s.rb p R.SH_ERR_STICKY m := by
      unfold State.useInject State.wb State.wf State.rb
      rw [State.rd_wr, if_neg (Page.off_ne p (by decide)), State.rd_wr, if_neg (Page.off_ne p (by decide))]
    rw [e]
  · exact State.sticky_raiseWith _ _ _ _ _ _ _ h

theorem State.sticky_err (s : State) (p : Page) (bitNo m : Nat) (h : bitNo < 64) :
    (s.err p bitNo).rb p R.SH_ERR_STICKY m = if m = bitNo then true else s.rb p R.SH_ERR_STICKY m := by
  have := State.sticky_raise s.fresh.2 p bitNo m (s.fresh.1.setWidth 32) 0 h
  exact this

/-- An error of another page leaves ERR_STICKY of this page. -/
theorem State.sticky_err_other (s : State) (p q : Page) (bitNo m : Nat) (h : q ≠ p) :
    (s.err p bitNo).rb q R.SH_ERR_STICKY m = s.rb q R.SH_ERR_STICKY m := by
  have ne (o : Nat) (ho : o < 0x10000) : q.addr + R.SH_ERR_STICKY ≠ p.addr + o := fun e =>
    h (Page.addr_eq q p _ _ (by decide) ho e).1
  unfold State.rb
  rw [State.rd_err _ _ _ _ _ (ne _ (by decide)) (ne _ (by decide)) (ne _ (by decide))]

end Sys2Proof.Machine
end

