-- ==== Sys2Proof/Laws/Lanes.lean ====
section
/-! SUPPORT. What the frame of a lane-wise instruction leaves in each lane (R139). -/

namespace Sys2Proof.Machine

@[simp] theorem nth_nil {α : Type} (d : α) (n : Nat) : nth d ([] : List α) n = d := by cases n <;> rfl

theorem nth_map {α β : Type} (d : α) (e : β) (g : α → β) (l : List α) (n : Nat) (h : n < l.length) :
    nth e (l.map g) n = g (nth d l n) := by
  induction l generalizing n with
  | nil => simp at h
  | cons a r ih =>
    cases n with
    | zero => rfl
    | succ n => exact ih n (by simpa using h)

theorem nth_range (n l : Nat) (h : l < n) : nth 0 (List.range n) l = l := by
  have : ∀ (xs : List Nat) (l : Nat) (h : l < xs.length), nth 0 xs l = xs[l] := by
    intro xs
    induction xs with
    | nil => intro l h; simp at h
    | cons a r ih =>
      intro l h
      cases l with
      | zero => rfl
      | succ l => exact ih l (by simpa using h)
  rw [this _ _ (by simpa using h)]
  simp

/-- Element l of a list built over the 64 lanes. -/
@[simp] theorem nth_lanes {β : Type} (e : β) (g : Nat → β) (l : Nat) (h : l < 64) : nth e ((List.range 64).map g) l = g l := by
  rw [nth_map 0 e g (List.range 64) l (by simpa using h), nth_range 64 l h]

/-- One lane: its draw, its result, its generator. -/
def laneDraw (draws : Bool) (th : Thread) (l : Nat) : W32 := if draws then (genDraw (nth 0 th.vgen l)).2 else 0

/-- What lane l of the destination takes. -/
def laneOut (f : VFields) (th : Thread) (draws : Bool) (old av bv cv : List W32) (op : Lane → W32 × Ev) (l : Nat) : W32 :=
  if active f th l then (op { l := l, a := nth 0 av l, b := nth 0 bv l, c := nth 0 cv l, draw := laneDraw draws th l }).1
  else if f.pz then 0 else nth 0 old l

/-- What the generator of lane l becomes. -/
def laneGen (f : VFields) (th : Thread) (draws : Bool) (l : Nat) : Gen :=
  if active f th l ∧ draws = true then (genDraw (nth 0 th.vgen l)).1 else nth 0 th.vgen l

theorem lanes_lists (f : VFields) (th : Thread) (draws : Bool) (old av bv cv : List W32) (op : Lane → W32 × Ev) :
    (lanes f th draws old av bv cv op).out = (List.range 64).map (laneOut f th draws old av bv cv op) ∧
    (lanes f th draws old av bv cv op).gens = (List.range 64).map (laneGen f th draws) := by
  unfold lanes
  simp only []
  generalize List.range 64 = ls
  suffices h : ∀ (acc : LaneAcc),
      (ls.foldl (fun (acc : LaneAcc) l =>
        let g := nth 0 th.vgen l
        if active f th l then
          let (g', w) := if draws then genDraw g else (g, 0)
          let (x, ev) := op { l := l, a := nth 0 av l, b := nth 0 bv l, c := nth 0 cv l, draw := w }
          { out := x :: acc.out, gens := g' :: acc.gens, evs := acc.evs.add ev }
        else { acc with out := (if f.pz then 0 else nth 0 old l) :: acc.out, gens := g :: acc.gens }) acc).out
        = (ls.map (laneOut f th draws old av bv cv op)).reverse ++ acc.out ∧
      (ls.foldl (fun (acc : LaneAcc) l =>
        let g := nth 0 th.vgen l
        if active f th l then
          let (g', w) := if draws then genDraw g else (g, 0)
          let (x, ev) := op { l := l, a := nth 0 av l, b := nth 0 bv l, c := nth 0 cv l, draw := w }
          { out := x :: acc.out, gens := g' :: acc.gens, evs := acc.evs.add ev }
        else { acc with out := (if f.pz then 0 else nth 0 old l) :: acc.out, gens := g :: acc.gens }) acc).gens
        = (ls.map (laneGen f th draws)).reverse ++ acc.gens by
    obtain ⟨h1, h2⟩ := h { out := [], gens := [], evs := {} }
    rw [h1, h2]; simp
  induction ls with
  | nil => intro acc; simp
  | cons l r ih =>
    intro acc
    simp only [List.foldl_cons, List.map_cons, List.reverse_cons, List.append_assoc]
    by_cases ha : active f th l = true
    · cases draws
      · simp only [ha, if_true, Bool.false_eq_true, if_false]
        obtain ⟨h1, h2⟩ := ih { out := (op { l := l, a := nth 0 av l, b := nth 0 bv l, c := nth 0 cv l, draw := 0 }).1 :: acc.out,
                                gens := nth 0 th.vgen l :: acc.gens,
                                evs := acc.evs.add (op { l := l, a := nth 0 av l, b := nth 0 bv l, c := nth 0 cv l, draw := 0 }).2 }
        constructor
        · simpa [laneOut, laneDraw, ha] using h1
        · simpa [laneGen, ha] using h2
      · simp only [ha, if_true]
        obtain ⟨h1, h2⟩ := ih { out := (op { l := l, a := nth 0 av l, b := nth 0 bv l, c := nth 0 cv l, draw := (genDraw (nth 0 th.vgen l)).2 }).1 :: acc.out,
                                gens := (genDraw (nth 0 th.vgen l)).1 :: acc.gens,
                                evs := acc.evs.add (op { l := l, a := nth 0 av l, b := nth 0 bv l, c := nth 0 cv l, draw := (genDraw (nth 0 th.vgen l)).2 }).2 }
        constructor
        · simpa [laneOut, laneDraw, ha] using h1
        · simpa [laneGen, ha] using h2
    · simp only [ha, Bool.false_eq_true, if_false]
      obtain ⟨h1, h2⟩ := ih { acc with out := (if f.pz then 0 else nth 0 old l) :: acc.out, gens := nth 0 th.vgen l :: acc.gens }
      constructor
      · simpa [laneOut, ha] using h1
      · simpa [laneGen, ha] using h2

/-- Lane l of the result of a lane-wise instruction. -/
theorem lanes_out (f : VFields) (th : Thread) (draws : Bool) (old av bv cv : List W32) (op : Lane → W32 × Ev) (l : Nat) (h : l < 64) :
    nth 0 (lanes f th draws old av bv cv op).out l = laneOut f th draws old av bv cv op l := by
  rw [(lanes_lists f th draws old av bv cv op).1, nth_lanes _ _ _ h]

/-- The generator of lane l after it. -/
theorem lanes_gens (f : VFields) (th : Thread) (draws : Bool) (old av bv cv : List W32) (op : Lane → W32 × Ev) (l : Nat) (h : l < 64) :
    nth 0 (lanes f th draws old av bv cv op).gens l = laneGen f th draws l := by
  rw [(lanes_lists f th draws old av bv cv op).2, nth_lanes _ _ _ h]

/-! Thread registers. -/

@[simp] theorem Thread.sget_zero (th : Thread) : th.sget 0 = 0 := rfl

theorem Thread.sget_sset (th : Thread) (n m : Nat) (v : W64) :
    (th.sset n v).sget m = if m = 0 then 0 else if m = n then v else th.sget m := by
  unfold Thread.sget Thread.sset
  by_cases hm : m = 0
  · simp [hm]
  · by_cases hn : n = 0
    · subst hn; simp [hm]
    · simp [hm, hn, SMap.get_set]

theorem Thread.vget_vset (th : Thread) (n m : Nat) (v : List W32) : (th.vset n v).vget m = if m = n then v else th.vget m := by
  simp [Thread.vget, Thread.vset, SMap.get_set]

theorem Thread.mget_mset (th : Thread) (n m : Nat) (v : W64) : (th.mset n v).mget m = if m = n then v else th.mget m := by
  simp [Thread.mget, Thread.mset, SMap.get_set]

/-- A read of scratch passes the ECC, which leaves queue, rails, start sequencer, TAP and target alone. -/
theorem State.scratchEcc_fixed (s : State) (c : CoreId) (ecc : Ecc) (a n : Nat) :
    (s.scratchEcc c ecc a n).pending = s.pending ∧ (s.scratchEcc c ecc a n).pwr = s.pwr ∧ (s.scratchEcc c ecc a n).start = s.start ∧
    (s.scratchEcc c ecc a n).tap = s.tap ∧ (s.scratchEcc c ecc a n).mgmt = s.mgmt := by
  unfold State.scratchEcc
  split
  · exact ⟨rfl, rfl, rfl, rfl, rfl⟩
  · simp
  · simp

theorem State.operand_fixed {s s' : State} {c : CoreId} {f : VFields} {th : Thread} {mem : Bool} {r off : Nat} {v : List W32}
    (h : s.operand c f th mem r off = .ok s' v) :
    s'.pending = s.pending ∧ s'.pwr = s.pwr ∧ s'.start = s.start ∧ s'.tap = s.tap ∧ s'.mgmt = s.mgmt := by
  unfold State.operand at h
  split at h
  · simp only [State.readScr] at h
    split at h
    · cases h
    · rename_i s1 bad heq
      split at heq
      · injection heq with heq
        injection heq with h1 h2
        subst h1
        split at h
        · cases h
        · injection h with h3 h4
          subst h3
          exact State.scratchEcc_fixed s c _ _ _
      · cases heq
  · injection h with h1 h2
    subst h1
    exact ⟨rfl, rfl, rfl, rfl, rfl⟩

/-- The answer to an instruction that changes its thread's registers. -/
theorem live_issue_regs {c : CoreId} {t : ThreadId} {legal : Bool} {g : Thread → Thread} {s : State} {it : Item} (h : CanGo s c t it)
    (hl : legal = true) : s.live (issue c t legal (regs g) s) = .next (s.issued s c t (g (s.thread c t.val)) 1) :=
  live_issue_run h hl rfl ⟨rfl, rfl, rfl, rfl, rfl⟩

/-- The program counter is none of the registers. -/
@[simp] theorem Thread.vget_pc (th : Thread) (p : W64) (n : Nat) : ({ th with pc := p } : Thread).vget n = th.vget n := rfl
@[simp] theorem Thread.mget_pc (th : Thread) (p : W64) (n : Nat) : ({ th with pc := p } : Thread).mget n = th.mget n := rfl
@[simp] theorem Thread.sget_pc (th : Thread) (p : W64) (n : Nat) : ({ th with pc := p } : Thread).sget n = th.sget n := rfl

end Sys2Proof.Machine
end

