-- ==== Sys2Proof/Laws/Memory.lean ====
section
/-! SUPPORT. The memories keep their canonical form: a core's scratch under a write, tile SRAM under a rotation. With State.hbmWrite_wf and
State.tsramWrite_wf these are all the operations that write a memory. -/

namespace Sys2Proof.Machine

/-- A filter keeps the canonical form. -/
theorem SMap.wf_filter {α : Type} [DecidableEq α] (d : Nat → α) (m : List (Nat × α)) (p : Nat × α → Bool) (h : SMap.wf d m = true) :
    SMap.wf d (m.filter p) = true := by
  simp only [SMap.wf, Bool.and_eq_true, List.all_eq_true, decide_eq_true_eq] at h ⊢
  exact ⟨SMap.above_filter p h.1, fun e he => h.2 e (List.mem_filter.mp he).1⟩

/-- A fold of steps that keep the canonical form keeps it. -/
theorem SMap.wf_foldl {α β : Type} [DecidableEq α] (d : Nat → α) (f : List (Nat × α) → β → List (Nat × α))
    (hf : ∀ m x, SMap.wf d m = true → SMap.wf d (f m x) = true) (l : List β) (m : List (Nat × α)) (h : SMap.wf d m = true) :
    SMap.wf d (l.foldl f m) = true := by
  induction l generalizing m with
  | nil => exact h
  | cons x r ih => exact ih _ (hf m x h)

/-- Tile SRAM after a rotation (R631). -/
theorem Memory.wf_moveTiles (m : List Host.Cell) (n : Nat) (src : Nat → Nat) (h : Memory.wf m = true) :
    Memory.wf (moveTiles m n src) = true := by
  unfold moveTiles Memory.wf
  refine SMap.wf_foldl _ _ (fun acc q ha => ?_) _ _ (SMap.wf_filter _ _ _ h)
  split
  · exact ha
  · exact SMap.wf_foldl _ _ (fun acc c hc => SMap.wf_set _ _ _ _ hc) _ _ ha

/-- A core's scratch after a store. -/
theorem Core.scrWrite_wf (x : Core) (a : Nat) (bs : List Byte) (h : Memory.wf x.scratch = true) : Memory.wf (x.scrWrite a bs).scratch = true :=
  Memory.wf_write x.scratch a bs h

end Sys2Proof.Machine
end

