-- ==== Sys2Proof/Tests/Slice0.lean ====
section
/-! SUPPORT. The model's own tests: refused operands, results the spec gives, and a state that meets the hypotheses of each statement. -/

namespace Sys2Proof.Tests

open Sys2Proof Sys2Proof.Machine

set_option maxRecDepth 30000

/-! Operands that no command of the spec has. -/

/-- A message with a body. -/
def msg (b : MsgBody) : Msg := { dst := 0, src := 0x010, hops := 0, tag := 7, body := b }

theorem test_wf_bypass : Instr.wf (.bypass 0x20) = false := by decide
theorem test_wf_registerWrite : Instr.wf (.registerWrite .mod 0x14 .word 0) = false := by decide
theorem test_wf_registerWrite_high : Instr.wf (.registerWrite .mod 0x10 .hi 0) = false := by decide
theorem test_wf_counterLowRead : Instr.wf (.counterLowRead .mod 0x104) = false := by decide
theorem test_wf_body : Instr.wf (.remoteRegisterAccess (msg (.regResp true 0))) = false ∧ Instr.wf (.remoteRegisterResponse (msg (.abort 0 true))) = false ∧
    Instr.wf (.apertureAccess (msg (.abort 0 true)) none) = false ∧ Instr.wf (.apertureResponse (msg (.abort 0 true))) = false ∧
    Instr.wf (.remoteGatherRequest (msg (.abort 0 true))) = false ∧ Instr.wf (.remoteGatherResponse (msg (.abort 0 true))) = false ∧
    Instr.wf (.loanRead 0 (msg (.abort 0 true))) = false ∧ Instr.wf (.loanWrite 0 (msg (.abort 0 true))) = false ∧
    Instr.wf (.loanResponse (msg (.abort 0 true))) = false ∧ Instr.wf (.treeRegistration (msg (.abort 0 true))) = false ∧
    Instr.wf (.barrierUp (msg (.abort 0 true))) = false ∧ Instr.wf (.relControlToken (msg (.registration 1))) = false ∧
    Instr.wf (.crewDigest (msg (.abort 0 true))) = false := by decide

/-- A chain packet of a kind. -/
def packet (kind : BitVec 4) : ChainPkt :=
  { kind := kind, leg := 1, step := 1, stream := 0, pseq := 0, info := 0, src := 0, dst := 0, csum := 0, body := [] }

theorem test_wf_chain : Instr.wf (.sparseSum (msg (.chain (packet 2)))) = false ∧ Instr.wf (.sparseFinal (msg (.chain (packet 1)))) = false ∧
    Instr.wf (.sparseEnd (msg (.chain (packet 1)))) = false ∧ Instr.wf (.denseSum (msg (.chain (packet 4)))) = false ∧
    Instr.wf (.denseFinal (msg (.chain (packet 3)))) = false ∧ Instr.wf (.topkSum (msg (.chain (packet 6)))) = false ∧
    Instr.wf (.topkFinal (msg (.chain (packet 5)))) = false := by decide
theorem test_wf_line : Instr.wf (.apertureAccess (msg (.aptReq true 0 .w64 0)) (some (8, []))) = false ∧
    Instr.wf (.copyData 0 (some (0, []))) = false := by decide
theorem test_wf_memory : Instr.wf (.hbmRead 0 0 ⟨0, false⟩ none) = false ∧ Instr.wf (.hbmWrite 0 ⟨[], false⟩ none) = false ∧
    Instr.wf (.deviceRead 0 0 0 none) = false ∧ Instr.wf (.deviceWrite 0 0 []) = false ∧
    Instr.wf (.atomic 0 .add .i32 0 0 (some (1, []))) = false := by decide
theorem test_wf_board : Instr.wf (.heatLate 0 0) = false ∧ Instr.wf (.heatLate 4 0) = false ∧ Instr.wf (.powerOn [(2 ^ 32, 0)]) = false ∧
    Instr.wf (.modReset (some [(2 ^ 32, 0)])) = false ∧ Instr.wf (.sensorRead [] 0 0) = false ∧ Instr.wf (.startStepTimeout 0 1 0) = false ∧
    Instr.wf (.startStepTimeout 1 9 0) = false := by decide

/-! A thread that may issue. -/

/-- A word with every field 0. -/
def f0 : VFields := { vd := 0, va := 0, vb := 0, vc := 0, fmt := 0, rnd := 0, imm := 0, ecc := .ok }

/-- An engine-0 stage of one item. -/
def stage0 : StageRec :=
  { mstate := false, engine := 0, inRings := [0xFF, 0xFF, 0xFF, 0xFF], outRings := [0xFF, 0xFF, 0xFF, 0xFF], threads := 1, units := 1, prog := 0,
    param := 0, items := 1, after := 0 }
/-- The stage while its item runs on core 0. -/
def run0 : StageRun :=
  { desc := stage0, started := true, done := false, cores := [0], threadEn := [0xFF], nextItem := 1, doneItems := 0, matrix := {}, vector := {},
    load := {}, store := [], carry := none }
/-- A train of one such stage in step 1. -/
def train0 : Train :=
  { uid := 0, ring := 0, slot := 0, step := 1, noStep := false, trainId := 0, compl := 0x1000, user := 0, timeoutUs := 0, stages := [run0], rings := [],
    launched := true, start := 0, job := 0, lockstep := false, coresUsed := 1, irq := false, failed := none }
/-- Its item. -/
def it0 : Item := ⟨0, 0, 0⟩

/-- The module with its geometry in place: HBM to its top, a host region of 32 GiB. -/
def base0 : State := (State.reset.wr .mod R.MOD_HBM_TOP 0x012000000000).wf .mod R.MOD_HOST_CFG 4 0 1

/-- A module on which thread 0 of core 0, as th, runs the item of a train, core 0 otherwise as x. -/
def going (x : Core) (th : Thread) (tr : Train) : State :=
  { base0 with
    cores := [(0, { x with icache := [0], threads := [(0, { th with item := some it0 })] })], coxes := [(0, { Cox.init with trains := [tr], nextUid := 1 })] }

/-- The module of the tests of instructions. -/
def go0 : State := going Core.init Thread.init train0

theorem canGo (x : Core) (th : Thread) (h : th.pc = 0 := by decide) : CanGo (going x th train0) 0 0 it0 :=
  ⟨rfl, rfl, rfl, by show ([0] : List Nat).contains (lineOf th.pc) = true; rw [h]; decide⟩

/-! Instructions: results that R147 gives. -/

theorem test_sadd : ∃ u, exec (.sadd 0 0 { f0 with vd := 5, imm := 7 }) go0 = .next u ∧ (u.thread 0 0).sget 5 = 7 ∧ (u.thread 0 0).pc = 8 :=
  ⟨_, rfl, by decide, by decide⟩
theorem test_ssub_negative_immediate : ∃ u, exec (.ssub 0 0 { f0 with vd := 5, imm := -1 }) go0 = .next u ∧ (u.thread 0 0).sget 5 = 1 :=
  ⟨_, rfl, by decide⟩
theorem test_sadd_zero_register : ∃ u, exec (.sadd 0 0 { f0 with imm := 7 }) go0 = .next u ∧ (u.thread 0 0).sget 0 = 0 := ⟨_, rfl, by decide⟩
theorem test_slt : ∃ u, exec (.slt 0 0 { f0 with vd := 5, va := 1, imm := 1 }) (going Core.init { Thread.init with sreg := [(1, -1)] } train0) = .next u ∧
    (u.thread 0 0).sget 5 = 1 := ⟨_, rfl, by decide⟩
theorem test_sltu : ∃ u, exec (.sltu 0 0 { f0 with vd := 5, va := 1, imm := 1 }) (going Core.init { Thread.init with sreg := [(1, -1)] } train0) = .next u ∧
    (u.thread 0 0).sget 5 = 0 := ⟨_, rfl, by decide⟩
theorem test_ssra : ∃ u, exec (.ssra 0 0 { f0 with vd := 5, va := 1, imm := 65 }) (going Core.init { Thread.init with sreg := [(1, -4)] } train0) = .next u ∧
    (u.thread 0 0).sget 5 = -2 := ⟨_, rfl, by decide⟩
theorem test_sshi : ∃ u, exec (.sshi 0 0 { f0 with vd := 5, va := 1, imm := 3 }) (going Core.init { Thread.init with sreg := [(1, 2)] } train0) = .next u ∧
    (u.thread 0 0).sget 5 = 0x80000003 := ⟨_, rfl, by decide⟩
theorem test_bra_back : ∃ u, exec (.bra 0 0 { f0 with imm := -2 }) (going Core.init { Thread.init with pc := 0x38 } train0) = .next u ∧
    (u.thread 0 0).pc = 0x28 := ⟨_, rfl, by decide⟩
theorem test_brz_taken : ∃ u, exec (.brz 0 0 { f0 with imm := 4 }) go0 = .next u ∧ (u.thread 0 0).pc = 32 := ⟨_, rfl, by decide⟩
theorem test_mpop : ∃ u, exec (.mpop 0 0 { f0 with vd := 5, va := 1 }) (going Core.init { Thread.init with mreg := [(1, 0xF1)] } train0) = .next u ∧
    (u.thread 0 0).sget 5 = 5 := ⟨_, rfl, by decide⟩
/-- Two thirds of the largest FP32 numbers: 1.0 + 1.0 = 2.0; 1.0 / 0 is not finite; -0 and 0 add to +0 (R141). -/
theorem test_fAdd : (fAdd 0 0 0x3F800000 0x3F800000).1 = 0x40000000 ∧ (fAdd 0 0 0x80000000 0).1 = 0 := by decide
theorem test_fMul : (fMul 0 0 0x40400000 0xC0000000).1 = 0xC0C00000 := by decide
theorem test_fDiv : (fDiv 0 0 0x40400000 0x40000000).1 = 0x3FC00000 := by decide
theorem test_fSqrt : (fSqrt 0 0 0x41100000).1 = 0x40400000 := by decide

/-! States that meet the hypotheses of the statements about instructions. -/

theorem witness_ScalarResults : CanGo go0 0 0 it0 ∧ f0.vb = 0 ∧ f0.vc = 0 ∧ f0.fmt = 0 ∧ f0.rnd = 0 := ⟨canGo _ _, rfl, rfl, rfl, rfl⟩

theorem witness_ControlResults :
    let th := { Thread.init with cq := [5], outst := (List.range 11).map (fun n => (n, true)) }
    CanGo (going Core.init th train0) 0 0 it0 ∧ (({ f0 with imm := 31 } : VFields).imm.toNat < 32 ∧
      ((going Core.init th train0).thread 0 0).outst.length ≤ ({ f0 with imm := 31 } : VFields).imm.toNat) ∧
      ((going Core.init th train0).thread 0 0).cq = 5 :: [] := ⟨canGo _ _, by decide, rfl⟩

theorem witness_MaskAndLaneMoves :
    let f : VFields := { f0 with vd := 7, va := 7, vb := 7 }
    CanGo go0 0 0 it0 ∧ (f.vd.toNat < 8 ∧ f.va.toNat < 8 ∧ f.vb.toNat < 8) ∧ (∃ g : VFields, g.p = true ∧ g.imm.toNat % 2 ^ 26 = 0) :=
  ⟨canGo _ _, by decide, { f0 with imm := 0x20000000 }, by decide⟩

theorem witness_LaneResults : CanGo go0 0 0 it0 ∧ (∀ r ∈ floatRows ++ intRows, r.form.legal { f0 with imm := if r.form.pred then 0x20000000 else 0 } = true) ∧
    go0.operand 0 f0 (go0.thread 0 0) f0.am f0.va.toNat f0.aoff = .ok go0 ((go0.thread 0 0).vget 0) ∧
    go0.operand 0 f0 (go0.thread 0 0) f0.bm f0.vb.toNat f0.boff = .ok go0 ((go0.thread 0 0).vget 0) := ⟨canGo _ _, by decide, rfl, rfl⟩

theorem witness_CompareResults : CanGo go0 0 0 it0 ∧ ({ formFF 0 with vd := .msk, sub := 7 } : OpForm).legal { f0 with vd := 7, imm := 5 } = true ∧
    ({ formII 5 with vd := .msk } : OpForm).legal { f0 with vd := 7, imm := 5 } = true ∧
    go0.operand 0 f0 (go0.thread 0 0) f0.am f0.va.toNat f0.aoff = .ok go0 ((go0.thread 0 0).vget 0) := ⟨canGo _ _, by decide, by decide, rfl⟩

theorem witness_OperandForms :
    (scratchBytes < scratchBytes / 64 * 64 + 64 * fmtBytes 0) ∧ (scratchBytes - 256) / 64 * 64 + 64 * fmtBytes 0 ≤ scratchBytes ∧
    go0.injArmed (.core 0) E.CORE_SCRATCH_UE = false ∧ go0.injArmed (.core 0) E.CORE_SCRATCH_CE = false ∧ (go0.core 0).scratchBad 0 256 = false ∧
    ((going { Core.init with scratchUe := [3] } Thread.init train0).core 0).scratchBad 0 256 = true := by decide

theorem witness_RandomResults : CanGo go0 0 0 it0 ∧ ({ f0 with va := 28 } : VFields).va.toNat ≤ 28 ∧ ({ f0 with vd := 28 } : VFields).vd.toNat ≤ 28 :=
  ⟨canGo _ _, by decide, by decide⟩

theorem witness_ReductionResults : CanGo go0 0 0 it0 ∧ ({ layout := .t, vd := .vec, va := .vec, rnd := 1 } : OpForm).legal f0 = true ∧
    fld f0.imm.toNat 6 0 = 0 ∧ ({ layout := .t, vd := .vec, va := .sca, vb := .vec } : OpForm).legal { f0 with vd := 30, imm := 64 } = true ∧
    fld ({ f0 with imm := 64 } : VFields).imm.toNat 6 0 = 64 := ⟨canGo _ _, by decide, by decide, by decide, by decide⟩

theorem witness_Scratch : CanGo go0 0 0 it0 ∧ cleanScratch go0 0 f0 ∧ readable go0 0 0 8 ∧ readable go0 0 0 (64 * fmtBytes 0) ∧
    ({ layout := .l, vd := .vec, va := .sca, vb := .vec, fmt := .mem, rnd := 2 } : OpForm).legal f0 = true ∧
    ({ layout := .l, vd := .vec, va := .sca, vb := .vec, fmt := .mem } : OpForm).legal f0 = true ∧
    ({ layout := .l, vd := .vec, va := .sca, fmt := .mem, rnd := 2 } : OpForm).legal f0 = true ∧
    (∀ l < 64, readable go0 0 (laneAddr (go0.thread 0 0) f0 l) (fmtBytes 0)) :=
  ⟨canGo _ _, ⟨rfl, by decide, by decide⟩, ⟨by decide, by decide⟩, ⟨by decide, by decide⟩, by decide, by decide, by decide,
    fun l hl => by revert l; unfold readable; decide⟩

/-- Opcode 0x20 is VADD (R147); its fields stand at the places that R136 gives. -/
theorem test_decodeVector : decodeVector 0 0 .ok 0x2008864682000005 =
    some (.vadd 0 0 { vd := 1, va := 2, vb := 3, vc := 4, fmt := 6, rnd := 2, imm := 0x2000005, ecc := .ok }) := by decide

theorem witness_IllegalWordFaults : CanGo go0 0 0 it0 ∧ decodeVector 0 0 .ok 0xFF00000000000000 = none ∧ (go0.thread 0 0).outst = [] ∧
    ((going Core.init { Thread.init with outst := [(0, true)] } train0).thread 0 0).outst ≠ [] := ⟨canGo _ _, by decide, by decide, by decide⟩

/-! Asynchronous work. -/

/-- The module with bytes in HBM. -/
def withHbm (s : State) (a : Nat) (bs : List Byte) : State := { s with mem := Mem.write s.mem a bs }
/-- A core with bytes in scratch. -/
def withScratch (a : Nat) (bs : List Byte) : Core := { Core.init with scratch := Mem.write [] a bs }
/-- A 32-byte descriptor of a tile operation with K 32. -/
def mdesc : List Byte := leBytes 8 0 ++ leBytes 8 32 ++ leBytes 16 0
/-- A 64-byte descriptor of a transfer of one row of 64 FP32 elements at HBM 0x10000. -/
def xdesc : List Byte := leBytes 32 0x10000 ++ leBytes 4 0x10040 ++ leBytes 4 256 ++ leBytes 24 0
/-- A block-format descriptor at its cold value. -/
def bf0 : Bfd := { fmt := 0, block := 16, scaleType := 0, scaleSel := 0, round := 0, age := 1, priv := 0 }

theorem witness_AsyncIssue_vout : CanGo go0 0 0 it0 ∧ cleanScratch go0 0 f0 ∧ (go0.thread 0 0).roomAsync = true ∧
    ({ layout := .q, vd := .vec, va := .sca, vc := .sca } : OpForm).legal f0 = true ∧ go0.bfd 0 0 = bf0 ∧ extBaseOk 0 16 0 0 = true ∧
    go0.privOk 0 0 = true ∧ (storeRanges 0 bf0 0 0 0 1 64).any (go0.otherWindow 0) = false :=
  ⟨canGo _ _, ⟨rfl, by decide, by decide⟩, by decide, by decide, by decide, by decide, by decide, by decide⟩

theorem witness_AsyncIssue_mtq :
    let s := going (withScratch 0 mdesc) Thread.init train0
    CanGo s 0 0 it0 ∧ ({ layout := .q, va := .sca, vb := .sca, vc := .sca } : OpForm).legal f0 = true ∧ (s.core 0).queue.length < 4 ∧ readable s 0 0 32 ∧
      (MDesc.ofBytes ((s.core 0).scr 0 32)).ok = true := ⟨canGo _ _, by decide, by decide, ⟨by decide, by decide⟩, by decide⟩

theorem witness_AsyncIssue_transfer :
    let s := going (withScratch 0 xdesc) Thread.init train0
    let d := XDesc.ofBytes ((s.core 0).scr 0 64)
    CanGo s 0 0 it0 ∧ ({ layout := .q, va := .sca } : OpForm).legal f0 = true ∧ readable s 0 0 64 ∧ d.scr + d.span ≤ scratchBytes ∧
      (d.ranges bf0).any (s.otherWindow 0) = false ∧ d.loadOk bf0 = true ∧ d.storeOk bf0 = true :=
  ⟨canGo _ _, by decide, ⟨by decide, by decide⟩, by decide, by decide, by decide, by decide⟩

/-- A tile operation at the front of the queue. -/
def mop0 : MOp :=
  { op := 0, thread := 0, aRing := 0, aOff := 0, bRing := 0, bOff := 0, k := 32, out := 0, bank := 0, accIn := 0, aFmt := 0, bFmt := 0, cOff := 0, aSc := 0,
    bSc := 0, tag := 9, base := 0x10000, stride := 256, scBase := 0, d := 0, bf := bf0, gens := [], waits := [], aLoad := none, bLoad := none }

theorem witness_ArrayRuns :
    let s := going { Core.init with queue := [mop0] } Thread.init train0
    s.pwr.on = true ∧ (s.core 0).queue = [mop0] ∧ (s.core 0).running = false ∧ (s.core 0).canStart mop0 = true ∧
      s.injArmed (.core 0) E.CORE_SCRATCH_UE = false ∧ s.injArmed (.core 0) E.CORE_SCRATCH_CE = false ∧
      (∀ e ∈ mop0.reads, (s.core 0).scratchBad e.1 e.2 = false) ∧
      (let b := going { Core.init with queue := [mop0], scratchUe := [0] } Thread.init train0
       (∃ e ∈ mop0.reads, (b.core 0).scratchBad e.1 e.2 = true) ∧ (b.thread 0 mop0.thread).item = some it0 ∧ mop0.thread < 8) := by decide

/-- A transfer of the paths. -/
def xfer0 : Xfer :=
  { op := 0, thread := 0, ext := 0x10000, scale := 0, stashAddr := 0, scr := 0, sums := 0, rows := 1, elems := 16, stride := 64, extFmt := 0, scrFmt := 0,
    d := 0, bf := bf0, layout := 0, transpose := false, stash := 0, sumsOn := false, ring := 0, slope := 0, tag := 3, lo := 0, hi := 0, gens := [] }

theorem witness_AsyncCompletion :
    let s := going { Core.init with queue := [{ mop0 with out := 2 }], running := true, lpq := [xfer0], spq := [.vout ⟨0, 0, 0x10000, 0, 0, bf0, List.replicate 64 0, []⟩] }
      Thread.init train0
    s.pwr.on = true ∧ s.up (.tile (tileOfCore 0)) = true ∧ (s.core 0).queue = [{ mop0 with out := 2 }] ∧ (s.core 0).running = true ∧
      (s.thread 0 0).item = some it0 ∧ (s.core 0).canLoad xfer0 = true ∧
      (∃ s' bs, s.pathReads (tileOfCore 0) (xfer0.desc.ranges xfer0.bf) = .ok s' bs ∧ (s'.core 0).scratchBad xfer0.sums xfer0.sumBytes = false) ∧
      (∃ s', s.storeOp 0 it0 { fmt := 0, bf := bf0, spq := false, fb := 0, base := 0x10000, param := 0, stride := 0 } 0 [] [(List.replicate 64 0#32).map f32v]
        StashCtx.off = .ok s' () ∧ (s'.core 0).queue = [{ mop0 with out := 2 }]) ∧
      s.threadFailed 0 0 = false ∧ ({ train0 with failed := some (1, 0) } : Train).failed ≠ none :=
  ⟨rfl, by decide, rfl, rfl, rfl, by decide, ⟨_, _, rfl, by decide⟩, ⟨_, rfl, rfl⟩, by decide, by decide⟩

/-- The SPQ clause of AsyncCompletion, and the last operation of a thread whose train has failed. -/
theorem witness_AsyncCompletion_spq :
    let s := going { Core.init with spq := [.spq xfer0] } { Thread.init with outst := [(0, true)] } { train0 with failed := some (1, 0) }
    (s.core 0).spq = [.spq xfer0] ∧ (s.thread 0 0).item = some it0 ∧ s.injArmed (.core 0) E.CORE_SCRATCH_UE = false ∧
      s.injArmed (.core 0) E.CORE_SCRATCH_CE = false ∧ (s.core 0).scratchBad xfer0.scr xfer0.desc.span = false ∧
      (∃ s', s.storeOp 0 it0 { fmt := xfer0.extFmt, bf := xfer0.bf, spq := true, fb := 0, base := xfer0.ext, param := xfer0.scale, stride := xfer0.stride } xfer0.d
        xfer0.gens ((s.core 0).sourceRows xfer0) { mode := xfer0.stash, addr := xfer0.stashAddr, lo := xfer0.lo, hi := xfer0.hi } = .ok s' ()) ∧
      s.threadFailed 0 0 = true ∧ (s.thread 0 0).outst.filter (fun o => decide (o.1 ≠ 0)) = [] :=
  ⟨rfl, rfl, by decide, by decide, by decide, ⟨_, rfl⟩, by decide, by decide⟩

/-! Rings of a train and trains. -/

/-- A ring of 4 entries from stage 1 to stage 0, one entry published. -/
def ring0 : RingRun :=
  { desc := { base := 0x100, entryBytes := 256, consumers := 1, producer := 0, credits := 4, entries := 0 }, reserved := 1, published := [], visible := 1,
    credits := 3, taken := [], released := [], returned := 0 }
/-- The train with that ring on both sides of its stage. -/
def train1 : Train := { train0 with
  stages := [{ run0 with desc := { stage0 with inRings := [0, 0xFF, 0xFF, 0xFF], outRings := [0, 0xFF, 0xFF, 0xFF] } }], rings := [ring0] }

theorem witness_RingInstructions :
    let th := { Thread.init with held := [⟨0, 0⟩], resv := [⟨0, 0⟩] }
    let s := going Core.init th train1
    CanGo s 0 0 it0 ∧ s.slotRing 0 it0 false 0 = some (train1, 0, ring0) ∧ s.slotRing 0 it0 true 0 = some (train1, 0, ring0) ∧
      (ringForm true).legal { f0 with vd := 31 } = true ∧ (ringForm false).legal f0 = true ∧ ring0.takenBy 0 < ring0.visible ∧ 0 < ring0.credits ∧
      dropFirst 0 th.held = some (0, []) ∧ ({} : OpForm).legal f0 = true :=
  ⟨⟨rfl, rfl, rfl, by decide⟩, by decide, by decide, by decide, by decide, by decide, by decide, by decide, by decide⟩

theorem witness_RingInstructions_ended :
    let r := { ring0 with desc := { ring0.desc with entries := 1 }, taken := [(0, 1)] }
    ¬ r.takenBy 0 < r.visible ∧ train1.ended r 0 = true := by decide

/-- A descriptor of one engine-0 stage: a header and a stage record of 64 bytes each. -/
def tdescBytes : List Byte :=
  leBytes 64 1 ++ leBytes 4 0 ++ leBytes 8 0xFFFFFFFFFFFFFFFF ++ leBytes 4 1 ++ leBytes 16 0x4000 ++ leBytes 4 1 ++ leBytes 28 0
/-- A ring whose command waits to start. -/
def ringWith (op arg len : Nat) (body : List Byte) : RingSt := { RingSt.init with cmd := some ⟨0, op, arg, false, len, body⟩ }
/-- The module with a ring's command. -/
def withCmd (g : RingId) (r : RingSt) (s : State) : State := s.setRing g r

theorem witness_TrainCommands_accepted :
    let s := withCmd (.cox 0 3) (ringWith 1 0 0 (leBytes 8 0x2000 ++ leBytes 8 1 ++ leBytes 4 0 ++ leBytes 4 2 ++ leBytes 24 0)) (withHbm base0 0x2000 tdescBytes)
    s.up (.tile 0) = true ∧ ∃ c, s.cmdOf (.cox 0 3) 0x01 = some c ∧ s.isSpare = false ∧ (s.checkDesc 0 (recFld c.body 0 8 63 0) (recFld c.body 0x14 4 15 0)).bad = false :=
  ⟨by decide, _, rfl, by decide, by decide⟩

theorem witness_TrainCommands_refused :
    let s := withCmd (.cox 0 0) (ringWith 1 0 0 (leBytes 48 0)) base0
    ∃ c, s.cmdOf (.cox 0 0) 0x01 = some c ∧ s.isSpare = false ∧ (s.checkDesc 0 (recFld c.body 0 8 63 0) (recFld c.body 0x14 4 15 0)).bad = true :=
  ⟨_, rfl, by decide, by decide⟩

theorem witness_TrainCommands_launch :
    let s : State := { base0 with coxes := [(0, { Cox.init with trains := [{ train0 with launched := false }], nextUid := 1 })] }
    (s.cox 0).trains.find? (fun tr => !tr.launched && tr.failed.isNone) = some { train0 with launched := false } ∧
      ((s.cox 0).trains.filter (fun tr => tr.launched)).length < 4 ∧
      ((s.cox 0).trains.filter (fun tr => tr.launched)).foldl (fun n r => n + r.rings.length) 0 + train0.rings.length ≤ 64 := by decide

/-- A stage that has not started, of an engine. -/
def fresh0 (engine : Nat) : StageRun := StageRun.ofRec { stage0 with engine := engine }
/-- The module with the blocks of tile 0 in service, running a train of one fresh stage. -/
def ready0 (engine : Nat) (en : Bool) : State :=
  let s : State := { base0 with coxes := [(0, { Cox.init with trains := [{ train0 with stages := [fresh0 engine] }], nextUid := 1 })] }
  if en then (((s.wb (.core 0) R.SH_STATUS 3 true).wb (.gather 0) R.SH_STATUS 3 true).wf (.core 0) R.CORE_CORE_CFG 7 0 0xFF) else s

theorem witness_StagesAndItems_start : ∀ e ∈ [(0, true), (0, false), (1, true), (2, true)],
    let s := ready0 e.1 e.2
    (s.cox 0).running 0 = some { train0 with stages := [fresh0 e.1] } ∧ s.stageReady { train0 with stages := [fresh0 e.1] } (fresh0 e.1) 0 = true ∧
      (s.cox 0).train 0 = some { train0 with stages := [fresh0 e.1] } ∧
      (((List.range 16).filter (fun c => s.coreAvail (coreOf 0 c))).isEmpty = !e.2) ∧
      (((List.range 4).filter (fun g => s.gatherInService (Fin.ofNat 32 g))).isEmpty = !e.2) := by decide

theorem witness_StagesAndItems_item :
    let g := { run0 with nextItem := 0 }
    let s : State := ({ base0 with coxes := [(0, { Cox.init with trains := [{ train0 with stages := [g] }] })] }).wb (.core 0) R.SH_STATUS 3 true
    (s.cox (tileOfCore 0)).running 0 = some { train0 with stages := [g] } ∧ (g.cores.zip g.threadEn).find? (fun x => x.1 == 0) = some (0, 0xFF) ∧
      g.nextItem < g.desc.items ∧ (s.thread 0 7).item = none ∧ (0xFF : Nat).testBit 7 = true ∧ s.rb (.core 0) R.CORE_CORE_CFG 8 = false ∧
      s.enabled (.core 0) = true ∧ (s.core 0).busyWith 0 0 < min g.desc.threads (popN 0xFF 8) := by decide

theorem witness_TrainEnds :
    let tr := { train0 with stages := [{ run0 with done := true }], timeoutUs := 1 }
    let s : State := { base0 with coxes := [(0, { Cox.init with trains := [tr] })],
                                        cores := [(0, { Core.init with threads := [(0, { Thread.init with fillWait := true })] })] }
    (s.cox 0).running 0 = some tr ∧ (s.cox 0).train 0 = some tr ∧ tr.stages.all (fun g => g.done) = true ∧ tr.compl.toNat + 64 ≤ s.hbmTop ∧
      s.up (.tile 0) = true ∧ (s.stacksAt tr.compl.toNat 64).any s.stackFenced = false ∧ tr.failed = none ∧ tr.timeoutUs ≠ 0 ∧ (s.thread 0 0).fillWait = true ∧ ∃ bs, s.unitRead (lineOf (s.thread 0 0).pc * 64) 64 = .ok bs :=
  ⟨by decide, by decide, by decide, by decide, by decide, by decide, by decide, by decide, by decide, ⟨_, rfl⟩⟩

/-! Command rings. -/

/-- A read of HBM without an error, a fence or an armed injection meets no poison. -/
theorem hbmBad_clean (s : State) (a n : Nat) (h1 : s.memErr = []) (h2 : ∀ st, s.stackFenced st = false)
    (h3 : ∀ st, s.injArmed (.base st) E.BASE_ECC_UE = false) : s.hbmBad a n = false := by
  have h4 (w : Nat) : s.wordUe w = false := by
    have : s.errOf w = 0#36 := by rw [State.errOf, h1]; rfl
    rw [State.wordUe, this]; decide
  simp [State.hbmBad, State.hbmPoisoned, h2, h3, h4]

/-- Ring 0 of copy engine 0, of 16 slots at HBM 0, enabled with its engine. -/
def ringOn0 (head ann : Nat) : State :=
  (((base0.wb (.copy 0) R.SH_STATUS 3 true).ringWr (.copy 0) R.RING_BASE 0).ringWr (.copy 0) R.RING_CFG (2 ^ 31 + 4)).setHead (.copy 0) head ann

/-- Every clause of DoorbellRule: a ring that is off, an index that is no advance, too many slots, and just as many as the ring has. -/
theorem witness_DoorbellRule :
    base0.ringOn (.copy 0) = false ∧ (ringOn0 5 5).ringOn (.copy 0) = true ∧
      (5 + 2 ^ 32 - (ringOn0 5 5).announced (.copy 0)) % 2 ^ 32 = 0 ∧ (2 ^ 31 + 5 + 2 ^ 32 - (ringOn0 5 5).announced (.copy 0)) % 2 ^ 32 = 2 ^ 31 ∧
      (22 + 2 ^ 32 - (ringOn0 5 5).head (.copy 0)) % 2 ^ 32 > (ringOn0 5 5).ringSize (.copy 0) ∧
      (21 + 2 ^ 32 - (ringOn0 5 5).head (.copy 0)) % 2 ^ 32 ≤ (ringOn0 5 5).ringSize (.copy 0) := by decide

theorem test_doorbell : ∃ u, exec (.doorbell (.copy 0) 21) (ringOn0 5 5) = .next u ∧ u.announced (.copy 0) = 21 ∧ u.head (.copy 0) = 5 := ⟨_, rfl, by decide⟩

/-- RING_ENABLE accepts a base at the ring's alignment in the host region and refuses one beside it; a halted ring may be reset. -/
theorem witness_RingControls :
    (base0.ringRd (.copy 0) R.RING_BASE % (64 * 2 ^ 4) = 0 ∧ base0.ringRd (.copy 0) R.RING_BASE + 64 * 2 ^ 4 ≤ base0.hostEnd) ∧
      ¬ ((base0.ringWr (.copy 0) R.RING_BASE 64).ringRd (.copy 0) R.RING_BASE % (64 * 2 ^ 4) = 0) ∧
      ((ringOn0 5 5).ringWr (.copy 0) R.RING_STATUS 1).halted (.copy 0) = true ∧ (ringOn0 5 5).halted (.copy 0) = false := by decide

/-- A NOP slot of the ring's first round. -/
def nopSlot : List Byte := leBytes 8 0 ++ leBytes 8 (2 ^ 63 + 5) ++ leBytes 48 0

theorem witness_SlotReads :
    let s := withHbm (ringOn0 0 1) 0 nopSlot
    s.up (RingId.copy 0).island = true ∧ s.mayRead (.copy 0) = true ∧ (s.ring (.copy 0)).first = none ∧ s.head (.copy 0) ≠ s.announced (.copy 0) ∧
      (recFld nopSlot 8 8 63 63 == 1) = s.phaseOf (.copy 0) 0 ∧ fld (recFld nopSlot 8 8 63 0) 15 12 = 0 ∧
      s.slotForm (.copy 0) (recFld nopSlot 8 8 63 0) ⟨0, 5, 0, false, 0, nopSlot.drop 16⟩ = .ok := by decide

theorem test_slotRead : ∃ u, exec (.slotRead (.copy 0)) (withHbm (ringOn0 0 1) 0 nopSlot) = .next u ∧ u.head (.copy 0) = 1 ∧
    (u.ring (.copy 0)).cmd.map (fun c => c.opcode) = some 5 := ⟨_, rfl, by decide, by decide⟩

/-- The other clauses of SlotReads: a torn slot read and reread, with one attempt and with more left, and an unreadable one. -/
theorem witness_SlotReads_torn :
    let s := (ringOn0 0 1).setRing (.copy 0) { RingSt.init with reread := true }
    s.mayRead (.copy 0) = true ∧ (∃ bs, s.unitRead 0 64 = .ok bs ∧ (recFld bs 8 8 63 63 == 1) ≠ s.phaseOf (.copy 0) 0) ∧
      (s.tornRetries (.copy 0) ≤ 0 + 1 ∨ 0 + 1 < s.tornRetries (.copy 0)) ∧
      { ringOn0 0 1 with memErr := [(0, 3)] }.unitRead 0 64 = .poison := ⟨by decide, ⟨_, rfl, by decide⟩, by decide, by decide⟩

theorem witness_RingCommandEffects :
    (∀ e ∈ [(0x02, 8), (0x03, 0), (0x04, 0), (0x05, 0)], ((withCmd (.cox 0 0) (ringWith e.1 0x1000 e.2 (leBytes 48 0)) base0).cmdOf (.cox 0 0) e.1).isSome = true) ∧
      0x1000 + ((leBytes 48 0).take 8).length ≤ base0.hbmTop ∧ 0 < ((leBytes 48 0).take 8).length ∧ (base0.stacksAt 0x1000 8).any base0.stackFenced = false ∧
      base0.up (RingId.cox 0 0).island = true ∧ base0.ringIdle (.cox 0 0) = true ∧
      (∃ bs, base0.unitRead 0x1000 8 = .ok bs ∧ FlagWait.holds ⟨0x1000, 0, 1, 0, 5, true⟩ (ofLe bs) = true ∧
        FlagWait.holds ⟨0x1000, 1, 1, 0, 5, true⟩ (ofLe bs) = false) := ⟨by decide, by decide, by decide, by decide, by decide, by decide, ⟨_, rfl, by decide, by decide⟩⟩

/-- A copy of 64 bytes from 0x1000 to 0x2000. -/
def copyBody : List Byte := leBytes 8 0x1000 ++ leBytes 8 0x2000 ++ leBytes 4 64 ++ leBytes 4 1 ++ leBytes 24 0

theorem witness_Copy :
    let s := withCmd (.copy 0) (ringWith 0x10 0x3000 0 copyBody) base0
    let d := CopyDesc.ofBytes copyBody
    (s.cmdOf (.copy 0) 0x10).isSome = true ∧ d.mode = 0 ∧ d.rows = 1 ∧ 0 < d.rowBytes ∧ d.src + d.rowBytes ≤ s.hbmTop ∧ d.src + d.rowBytes ≤ d.dst ∧
      s.up .mesh = true ∧ (∀ a n, s.hbmBad a n = false) ∧ (∀ a n, (s.stacksAt a n).any s.stackFenced = false) ∧
      (let j : CopyJob := ⟨0, 0x3000, 0, false⟩
       ((s.setRing (.copy 0) { RingSt.init with copies := [j] }).ring (.copy 0)).copies = j :: [] ∧ j.arg ≠ 0 ∧ j.arg + 8 ≤ s.hbmTop) := by
  have h : ∀ st, (withCmd (.copy 0) (ringWith 0x10 0x3000 0 copyBody) base0).stackFenced st = false := by decide
  exact ⟨by decide, by decide, by decide, by decide, by decide, by decide, by decide, fun a n => hbmBad_clean _ a n rfl h (by decide),
    fun a n => by simp [h], by decide⟩

theorem test_copyData : ∃ u, exec (.copyData 0 none) (withHbm (withCmd (.copy 0) (ringWith 0x10 0 0 copyBody) base0) 0x1000 [1, 2, 3]) = .next u ∧
    u.mem = [(0x1000, 1), (0x1001, 2), (0x1002, 3), (0x2000, 1), (0x2001, 2), (0x2002, 3)] := ⟨_, rfl, by decide⟩

theorem witness_Host :
    base0.rb .hostif R.HOSTIF_HOST_CTL 1 = false ∧ (base0.wb .hostif R.HOSTIF_HOST_CTL 1 true).rb .hostif R.HOSTIF_HOST_CTL 1 = true ∧
      { base0 with linkDown := [] }.linkDown.contains 0 = false ∧ base0.inHost 0 64 = true ∧
      base0.inHost (base0.hostEnd - 63) 64 = false ∧ base0.hbmBad 0 64 = false ∧
      [(2, 0)].find? (fun (x : Nat × Nat) => x.1 == 2) = some (2, 0) ∧ [(2, 1)].find? (fun (x : Nat × Nat) => x.1 == 2) = some (2, 0 + 1) := by decide

/-! Registers, blocks, tables and the remote window. -/

/-- ERR_INJECT takes effect with EXPERT 1 and BIT 27, not with BIT 28, not with EXPERT 0. -/
theorem witness_InjectRule :
    let s := base0.wb .pwr R.SH_CTRL 1 true
    (s.expert .pwr = true ∧ fld (0x801B0001#32).toNat 20 16 ≤ 27) ∧ ¬ (fld (0x801C0001#32).toNat 20 16 ≤ 27) ∧ base0.expert .pwr = false := by decide

theorem test_errInject : ∃ u, exec (.errInject .pwr 0x801B0001) (base0.wb .pwr R.SH_CTRL 1 true) = .next u ∧ u.rd .pwr R.SH_ERR_INJECT = 0x801B0001 :=
  ⟨_, rfl, by decide⟩

theorem witness_FirstErrRule : base0.rb .hrd R.SH_FIRST_ERR 0 = false ∧ (base0.wb .hrd R.SH_FIRST_ERR 0 true).rb .hrd R.SH_FIRST_ERR 0 = true := by decide

theorem witness_RegisterAccesses :
    (TableId.atOff .clk 0xFFF8 = none ∧ Page.rowOf .clk 0xFFF8 = none) ∧ (0x0014#16).toNat % 8 ≠ 0 ∧
      (∃ r, Page.rowOf .flt 0x100 = some r ∧ r.start 0x100 = 0x100) ∧ 0x11FFFFFFFF8 + Width.w64.bytes ≤ base0.hbmTop ∧
      base0.hbmBad 0x11FFFFFFFF8 8 = false ∧ base0.locate 0x030010000000 = .unmapped ∧ base0.locate 0x030000000000 ≠ .unmapped :=
  ⟨by decide, by decide, ⟨_, rfl, by decide⟩, by decide, by decide, by decide, by decide⟩

theorem test_errSticky_clear : ∃ u, exec (.registerWrite .hrd 0x20 .lo 4) (base0.wr .hrd R.SH_ERR_STICKY 6) = .next u ∧ u.rd .hrd R.SH_ERR_STICKY = 2 :=
  ⟨_, rfl, by decide⟩

/-- A disabled, a fenced, a draining, an enabled and an abandoning block; a page that R57 names. -/
theorem witness_BlockStates :
    let p : Page := .copy 3
    let st (v n : Nat) : Bool := (base0.wr p R.SH_STATUS v).rb p R.SH_STATUS n
    p.always = false ∧ (st 0 4 = false ∧ st 0 1 = false ∧ st 0 3 = false ∧ st 0 2 = false) ∧ st 16 4 = true ∧ (st 2 4 = false ∧ st 2 1 = true ∧ st 2 5 = false) ∧
      (st 8 1 = false ∧ st 8 3 = true) ∧ (st 34 1 = true ∧ st 34 5 = true) ∧ (base0.wr p R.SH_STATUS 2).accepted p = false ∧
      (base0.wf p R.SH_DRAIN_LIMIT 31 0 1).rf p R.SH_DRAIN_LIMIT 31 0 ≠ 0 ∧ base0.expert p ≠ true ∧ Page.always .flt = true ∧ base0.expert .flt = false := by
  decide

theorem test_enable : ∃ u, exec (.enableBlock (.copy 3)) base0 = .next u ∧ u.rb (.copy 3) R.SH_STATUS 3 = true := ⟨_, rfl, by decide⟩
theorem test_disable_draining : ∃ u, exec (.disableBlock (.copy 3)) ((base0.wr (.copy 3) R.SH_STATUS 8).wb (.copy 3) R.SH_CTRL 2 true) = .next u ∧
    u.rd (.copy 3) R.SH_STATUS = 2 := ⟨_, rfl, by decide⟩

/-- The power-cap curve's group, open, with the CRC of its shadow bank as expected, as x would have it otherwise. -/
def tbl0 (f : TableSt → TableSt) : State :=
  let s := base0.wb .pwr R.SH_CTRL 1 true
  s.setTbl .pcc (f { TableSt.init with crcExp := BitVec.ofNat 32 (s.shadowCrc .pcc) })

theorem witness_TableCommands :
    (tbl0 id).tblOpen .pcc = true ∧ ((tbl0 id).tbl .pcc).pending = false ∧ ((tbl0 id).tbl .pcc).held = false ∧
      (tbl0 id).shadowCrc .pcc = ((tbl0 id).tbl .pcc).crcExp.toNat ∧ tblAccepts .pcc (((tbl0 id).shadowWords .pcc).map BitVec.toNat) = true ∧
      TableId.byStep .pcc = false ∧ TableId.byStep (.lrcBase 0) = true ∧
      (tbl0 fun x => { x with crcExp := x.crcExp + 1 }).shadowCrc .pcc ≠ ((tbl0 fun x => { x with crcExp := x.crcExp + 1 }).tbl .pcc).crcExp.toNat := by decide

/-- The other clauses of TableCommands: pending, held, the last word and one beyond, the halves held and latched. -/
theorem witness_TableCommands_states :
    ((tbl0 fun x => { x with pending := true }).tbl .pcc).pending = true ∧
      (((tbl0 fun x => { x with held := true }).tbl .pcc).pending = false ∧ ((tbl0 fun x => { x with held := true }).tbl .pcc).held = true) ∧
      ((tbl0 fun x => { x with index := 15 }).tbl .pcc).index.toNat < TableId.words .pcc ∧
      ¬ ((tbl0 fun x => { x with index := 16 }).tbl .pcc).index.toNat < TableId.words .pcc ∧
      ((tbl0 fun x => { x with heldLow := some 3 }).tbl .pcc).heldLow = some 3 ∧
      ((tbl0 fun x => { x with latchedHigh := some 3 }).tbl .pcc).latchedHigh = some 3 := by decide

/-- A locked fabric of two modules in x, this one at (0, 0, 0). -/
def fab0 : State := (base0.wf .router R.ROUTER_FAB_SIZE 11 0 1).wb .router R.ROUTER_FAB_LOCK 1 true

/-- The remote window: an address past the fabric, one of the other module's registers and one of its aperture; the answers. -/
theorem witness_RemoteAccesses :
    let at' (v : Nat) : Nat := 2 ^ 47 + v
    (fab0.nx = 2 ∧ fab0.coord = 0 ∧ fld (at' (2 ^ 44)) 46 43 = 2) ∧
      (fld (at' (2 ^ 43 + 2 ^ 34)) 46 43 = 1 ∧ (at' (2 ^ 43 + 2 ^ 34)).testBit 34 = true ∧ fld (at' (2 ^ 43 + 2 ^ 34)) 33 28 = 0) ∧
      ((at' (2 ^ 43)).testBit 34 = false) ∧ fab0.remoteBusy < 8 ∧
      8 ≤ ({ fab0 with remotes := List.replicate 8 ⟨0, true, 1, .regReq false .w64 0 0, true⟩ } : State).remoteBusy ∧
      (fab0.wf .mod R.MOD_RWIN_CTRL 2 0 0).rb .mod R.MOD_RWIN_CTRL 2 = false ∧ (fab0.wf .mod R.MOD_RWIN_CTRL 2 0 7).rb .mod R.MOD_RWIN_CTRL 2 = true ∧
      (fab0.wf .mod R.MOD_RWIN_CTRL 2 0 7).rf .mod R.MOD_RWIN_BASE 40 34 < 0x48 ∧
      ([⟨7, true, 1, .regReq false .w64 0 0, true⟩] : List RemoteAcc).find? (fun x => x.tag == 7 && x.reg == true && x.sent) =
        some ⟨7, true, 1, .regReq false .w64 0 0, true⟩ := by decide

/-! Tables of rows. -/

/-- A table of 4 rows of 8 FP32 weights at HBM 0x8000. -/
def d0 : TDesc :=
  { base := 0x8000, rows := 4, blockRows := 4, gchk := false, place := 0, fixY := 0, wfmt := 0, elems := 8, stride := 2, rule := 0, stateBytes := 0 }
/-- A gather command of one ID at 0x5000, as op and form. -/
def gcmd0 (op form : Nat) : GCmd :=
  { idAddr := 0x5000, nIds := 1, op := op, table := 5, form := form, cont := false, homeOnly := op == 1, outSlot := 0, src := if op = 2 then 0x6000 else 0, rpe := 1 }
/-- The bytes of that command. -/
def gcmdBytes0 (op form : Nat) : List Byte :=
  leBytes 8 0x5000 ++ leBytes 4 1 ++ leBytes 4 (op * 2 ^ 28 + 5 * 2 ^ 16 + form * 2 ^ 14 + (if op = 1 then 2 ^ 12 else 0)) ++ leBytes 8 (if op = 2 then 0x6000 else 0) ++ leBytes 8 1
/-- Its stage, in progress. -/
def gstage0 : StageRun :=
  { run0 with desc := { stage0 with engine := 1, prog := 0x4000, outRings := [0, 0xFF, 0xFF, 0xFF] }, cores := [0], threadEn := [], nextItem := 0 }
/-- The train of that stage, its ring empty. -/
def gtrain0 : Train := { train0 with stages := [gstage0], rings := [{ ring0 with reserved := 0, visible := 0, credits := 4 }] }
/-- The record of open step 1. -/
def step1 : StepSt :=
  { step := 1, closed := false, ready := false, tokenSent := false, aborted := false, word := 0, verdict := none, run := 1, rotation := 0, runs := [RunDigest.zero],
    evs := {}, ce := [], sent := false, crew := [], sd := none, openedAt := 0, closedAt := 0 }
/-- The module with step 1 open. -/
def open1 : State := { base0.wr .rel R.REL_OPEN_STEP 1 with steps := [step1] }
/-- The module with a gather stage in progress. -/
def gather0 (op form : Nat) : State :=
  withHbm (({ open1 with coxes := [(0, { Cox.init with trains := [gtrain0], nextUid := 1 })], tdescs := [(5, d0)] }.wb (.gather 0) R.SH_STATUS 3 true).wb .hrd R.SH_STATUS 3 true)
    0x4000 (gcmdBytes0 op form)

/-- The base die that holds an address, in service. -/
def baseOn (s : State) (a : Nat) : State := s.wb (.base (s.stackOfAddr a)) R.SH_STATUS 3 true

theorem witness_Gather_ready : ∀ e ∈ [(1, 0), (2, 0), (3, 3)], GatherReady (gather0 e.1 e.2) 0 0 0 gtrain0 gstage0 (gcmd0 e.1 e.2) d0 := by
  intro e he
  simp only [List.mem_cons, List.not_mem_nil, or_false] at he
  rcases he with rfl | rfl | rfl <;>
    exact ⟨by decide, by decide, rfl, rfl, by decide, by decide, by decide, ⟨_, rfl, by decide, by decide⟩, by decide, rfl, by decide⟩

theorem witness_homeRow : ∃ row, (gather0 1 0).homeRow d0 0 row :=
  ⟨_, by decide, by decide, by decide, ⟨by decide, by decide⟩, by decide, rfl, by decide, by decide, by decide⟩

theorem witness_GatherEntries : ∀ e ∈ [(1, 0), (3, 3)],
    let s := gather0 e.1 e.2
    (!gtrain0.noStep && !(gcmd0 e.1 e.2).homeOnly && (gcmd0 e.1 e.2).op == 1 && s.unrotated) = false ∧ gstage0.nextItem + 1 = gstage0.desc.items ∧
      (∃ ring, gtrain0.rings[nth 0xFF gstage0.desc.outRings (gcmd0 e.1 e.2).outSlot]? = some ring ∧ (gcmd0 e.1 e.2).inEntry d0 ring.desc.entryBytes = true ∧
        ring.reserve.isSome = true) ∧
      (s.readIds (gcmd0 e.1 e.2) 0 (gcmd0 e.1 e.2).rpe).1 = some [0] ∧ (gcmd0 e.1 e.2).nIds ≤ (gcmd0 e.1 e.2).rpe := by
  intro e he
  simp only [List.mem_cons, List.not_mem_nil, or_false] at he
  rcases he with rfl | rfl <;> exact ⟨by decide, by decide, ⟨_, rfl, by decide, by decide⟩, by decide, by decide⟩

theorem witness_ReplaceRows :
    let s := baseOn (gather0 2 0) (d0.addr 0)
    gtrain0.noStep = false ∧ s.openNow = some gtrain0.step.toNat ∧ (s.readIds (gcmd0 2 0) 0 (gcmd0 2 0).nIds).1 = some [0] ∧
      s.unitRead (gcmd0 2 0).src d0.bytes = .ok (List.replicate 64 0) ∧ ((d0.owner s.ny 0).1 = s.ownY ∧ s.ownZ = 0) ∧ d0.addr (d0.owner s.ny 0).2 = d0.addr 0 ∧
      ∃ x, s.acceptReplace 1 d0 5 0 (d0.addr 0) (List.replicate 64 0) s.ownY (s.logTile 0) = .done x :=
  ⟨by decide, by decide, by decide, by decide, by decide, by decide, ⟨_, rfl⟩⟩

/-- The clause of ReplaceRows for a row of another module: in a fabric of two in y, row 1 of a table placed by row number. -/
theorem witness_ReplaceRows_remote : (d0.owner 2 1).1 ≠ 0 := by decide

/-- A wait for one row of another module. -/
def wait0 : RemoteRead :=
  { tag := 7, engine := 0, train := 0, stage := 0, table := 5, form := 2, rows := [(0, 0x100, 0x200)], slotBytes := 64, ring := 0, entry := 0, replace := false,
    seat := none }

theorem witness_RemoteRows :
    let image : Msg := msg (.replaceReq 5 0 1 0 9 (List.replicate 64 0))
    let s : State := { baseOn (gather0 1 0) (d0.addr 0) with remoteReads := [wait0], arrived := [image] }
    s.mayServe 1 0 = true ∧ s.servingDesc 5 1 0 = some d0 ∧ (s.servingEngine (s.requestStack (some d0) [0])).isSome = true ∧
      s.tdesc 5 = some d0 ∧ s.opened 1 = true ∧ olderImage image 0 s.arrived = false ∧ s.openNow = some 1 ∧ (s.opened 0 = true ∧ s.openNow ≠ some 0) ∧
      s.remoteReads.find? (fun r => r.tag == 7 && !r.replace) = some wait0 ∧ wait0.rows = [(0, 0x100, 0x200)] ∧ wait0.engine < 32 ∧
      (s.cox (tileOf (wait0.engine / 4))).train wait0.train = some gtrain0 ∧ gtrain0.failed = none ∧ 0x100 + wait0.slotBytes ≤ 0x200 ∧
      s.rf (.gather 0) R.GATHER_GATHER_CFG 15 0 ≠ 0 ∧ s.remoteReads.find? (fun r => r.engine == 0 && !r.replace) = some wait0 ∧ wait0.seat = none ∧
      ∃ x, s.acceptReplace 1 d0 5 0 (d0.addr (d0.owner s.ny 0).2) (List.replicate 64 0) (fld image.src.toNat 7 4) 0 = .done x :=
  ⟨by decide, by decide, by decide, by decide, by decide, by decide, by decide, by decide, by decide, by decide, by decide, by decide, by decide, by decide,
    by decide, by decide, by decide, ⟨_, rfl⟩⟩

/-- A boundary that refreshes the Seat of row 0 of table 0, in Seat pool slots of 64 bytes at 0, on tile 0 and another on tile 1; a fabric in which the
row is another module's; a queue of 64 flips. -/
theorem witness_HotRows :
    let w := dirOff (rowKey 0 0) 0
    let l := [(0, w), (1, w)]
    let b : Boundary := ⟨1, .refreshing, l⟩
    let s := { ((base0.wb .hrd R.SH_STATUS 3 true).wb .hrd R.SH_CTRL 1 true).wr .hrd R.HRD_SEAT_CFG (2 ^ 32 + 16) with tdescs := [(0, d0)] }
    let s := { s with tsram := Mem.write [] (tsramCell 0 w) (leBytes 16 0), hrd := { s.hrd with boundary := some b } }
    let x := (0, dirOff (rowKey (s.dirAt 0 w).table (s.dirAt 0 w).row) ((w - 0x7A000000) / 16 % 8))
    let far := ((s.wf .router R.ROUTER_FAB_SIZE 11 0 0x10).wf .router R.ROUTER_FAB_POS 27 16 0x10).wb .router R.ROUTER_FAB_LOCK 1 true
    w = x.2 ∧ (s.toRefresh 0 b)[0]? = some x ∧ l.erase x ≠ [] ∧
      s.tdesc (s.dirAt 0 w).table = some d0 ∧ 16 + d0.w ≤ (s.pool 0).2.1 ∧ (s.pool 0).1 + (s.pool 0).2.1 ≤ 0x7A000000 ∧
      (∃ row, s.homeRow d0 (s.dirAt 0 w).row row ∧ 16 + d0.w ≤ row.length) ∧
      ¬ ((d0.owner far.ny (far.dirAt 0 w).row).1 = far.ownY ∧ far.ownZ = 0) ∧
      s.expert .hrd = true ∧ s.enabled .hrd = true ∧ s.hrd.slides.length < 1024 ∧ base0.expert .hrd = false ∧ s.readImage 0 true ≠ .bad ∧
      s.flipLate 0 = true ∧ s.flipLate 3 = false ∧ 64 ≤ ((List.replicate 64 (⟨0, 3, false⟩ : Flip)).filter (fun f => !f.taken)).length :=
  ⟨by decide, by decide, by decide, by decide, by decide, by decide,
    ⟨_, ⟨by decide, by decide, by decide, ⟨by decide, by decide⟩, by decide, rfl, by decide, by decide, by decide⟩, by decide⟩,
    by decide, by decide, by decide, by decide, by decide, by decide, by decide, by decide, by decide⟩

theorem test_slideCmd_full : 1024 ≤ (List.replicate 1024 (⟨0, 0, 0, 0⟩ : SlideReq)).length := by simp

/-! Base dies. -/

/-- A transaction on row 0 in a phase. -/
def txn0 (p : TxnPhase) : Txn :=
  { id := 0, replace := false, table := 5, row := 0, step := 1, addr := 0x8000, d := d0, grads := List.replicate 8 0, image := [], phase := p,
    old := List.replicate 64 0, new := List.replicate 64 1 }
/-- Its pre-image record. -/
def rec0 : JRec :=
  { kind := 1, step := 1, table := 5, row := 0, d := some d0, addr := 0x8000, pos := 0, len := 96, acked := false, before := [], txn := 0, order := (0, 0, 0) }
/-- Base die 0 with that transaction, its lock held but while it asks for it, its record in the journal while it waits for its acknowledgement. -/
def catch0 (p : TxnPhase) : State :=
  (open1.setCatch 0 { CatchSt.init with txns := [txn0 p], inbox := [txn0 .lock], nextTxn := 1, locks := [⟨0x8000, .txn 0, p != .lock⟩],
                                        journal := if p = .record then [rec0] else [] }).wb (.base 0) R.SH_STATUS 3 true

theorem witness_CatchUpdates :
    (catch0 .read).openNow = some 1 ∧ (catch0 .read).enabled (.base 0) = true ∧ ((catch0 .read).catchSt 0).inbox = [txn0 .lock] ∧
      ((catch0 .read).catchSt 0).seen.contains (5, 0) = false ∧ ruleOk ((catch0 .read).ruleWord 0 0) = true ∧
      (Rule.ofWords ((catch0 .read).ruleWord 0 0)).stateBytes 8 ≤ d0.stateBytes ∧ (catch0 .read).up (.base 0) = true ∧
      (let l : RowLock := ⟨0x8000, .txn 0, false⟩
       (catch0 .lock).locks 0 = [] ++ l :: [] ∧ lockRoom ((catch0 .lock).locks 0) l.addr = true ∧
         (((catch0 .lock).catchSt 0).txns.filter (fun t => decide (t.phase ≠ .lock))).length < (catch0 .lock).maxTxn 0) ∧
      (∀ p ∈ [TxnPhase.read, .room, .record, .write], ((catch0 p).catchSt 0).firstIn p = some (txn0 p)) ∧ (catch0 .read).hbmBad 0x8000 64 = false ∧
      rowPoison (List.replicate 64 0) = false ∧ rowSeq (1 :: List.replicate 63 0) ≠ rowTseq (1 :: List.replicate 63 0) ∧
      (((catch0 .room).catchSt 0).place ((catch0 .room).journalSize 0) (32 + d0.bytes)).isSome = true ∧
      ((catch0 .record).catchSt 0).oldestRecord = some (txn0 .record) ∧
      (∀ n ∈ [64], ((catch0 .record).stacksAt 0x8000 n).any (catch0 .record).stackFenced = false) ∧ { catch0 .read with steps := [] }.openNow ≠ some 1 := by decide

theorem witness_quiet : (catch0 .read).quiet := by intro b h; cases h

theorem witness_CatchUpdates_check : ∃ b : List Byte, b.length = 64 ∧ rowSeq b = rowTseq b ∧ rowPoison b = false ∧ rowCheck b = rowCrc b :=
  ⟨patch (List.replicate 64 0) 8 (leBytes 4 (rowCrc (List.replicate 64 0))), by decide⟩

theorem witness_StackAccesses :
    let s := baseOn base0 0x11FFFFFFFF8
    let st := s.stackOfAddr 0x11FFFFFFFF8
    0x11FFFFFFFF8 + 8 ≤ s.hbmTop ∧ s.up (.base st) = true ∧ (s.stacksAt 0x11FFFFFFFF8 8).any s.stackFenced = false ∧ s.hbmBad 0x11FFFFFFFF8 8 = false ∧
      s.enabled (.base st) = true ∧ (s.frameFenced 0x8000 = false ∧ s.injArmed (.base (s.stackOfAddr 0x8000)) E.BASE_ECC_UE = false ∧
        2 ≤ symbolErrs (s.errOf (0x8000 / 32) ||| 0x800000001)) ∧ symbolErrs 0x800000000 = 1 ∧
      (atomicNew .cas .b64 0 5 0).isSome = true ∧ (atomicNew .add .fp32 0 0x3F800000 0).isSome = true ∧ 4 % atomBytes .i64 ≠ 0 ∧
      atomicNew .add .b32 0 0 0 = none ∧
      (base0.wf (.base 0) R.BASE_ECC_CFG 7 0 1).rf (.base 0) R.BASE_ECC_CFG 7 0 ≠ 0 ∧
      SMap.get (fun _ => 0) ((base0.setCatch 0 { CatchSt.init with acts := [(1535, 1)] }).catchSt 0).acts 1535 ≠ 0 ∧
      base0.rb (.base 0) R.SH_CTRL 9 = false ∧ base0.rd (.base 0) R.BASE_RFM_CMDS + 1 < 2 ^ 64 := by decide

theorem test_atomic_cas : ∃ u, exec (.atomic 0x1000 .cas .b32 7 0 none) (base0.wb (.base (base0.stackOfAddr 0x1000)) R.SH_STATUS 3 true) = .next u ∧
    u.hbmRead 0x1000 4 = leBytes 4 7 := ⟨_, rfl, by decide⟩

/-! Finish and the chain unit. -/

/-- A stage of an engine in progress. -/
def estage0 (engine : Nat) : StageRun :=
  { run0 with desc := { stage0 with engine := engine, prog := 0x22000, inRings := [0, 0xFF, 0xFF, 0xFF], outRings := [0, 0xFF, 0xFF, 0xFF] },
              cores := [], threadEn := [], nextItem := 0 }
/-- Its train. -/
def etrain0 (engine : Nat) (rings : List RingRun) : Train := { train0 with stages := [estage0 engine], rings := rings }
/-- The module with step 1 open and a train of one stage of an engine in progress on tile 0, with rings ins and outs, its list at 0x22000. -/
def engine0 (engine : Nat) (rings : List RingRun) (s : State) : State :=
  { s with coxes := [(0, { Cox.init with trains := [etrain0 engine rings], nextUid := 1 })] }

/-- A layer of one FP32 element under rule 0, its master at 0x20000, in the descriptor table at 0x30000; a notice of it at 0x100 in the tile. -/
def fin0 : State :=
  let s := withHbm (engine0 4 [ring0] open1) 0x30000 (leBytes 16 0x20000 ++ leBytes 4 0x10001 ++ leBytes 4 0 ++ leBytes 4 0x80000000 ++ leBytes 44 0x8080 ++
    leBytes 4 0x10000 ++ leBytes 52 1)
  let s := (s.wr (.fin 0) R.FIN_LDESC_BASE 0x30000).wb (.fin 0) R.SH_STATUS 3 true
  { s with tsram := Mem.write [] (tsramCell 0 0x100) (leBytes 16 1 ++ leBytes 8 0x21000) }

theorem witness_FinishUpdates : ∃ tr g ring' x, FinishReady fin0 0 0 0 tr g ring0 ring' 0 (LDesc.ofBytes (fin0.hbmRead 0x30000 128)) x ∧
    (∀ v, ((LDesc.ofBytes (fin0.hbmRead 0x30000 128)).update { x with free := v }).ok = true) ∧ (fin0.fin 0).pos + 64 ≤ (fin0.fin 0).size ∧
    (fin0.fin 0).used + 64 ≤ (fin0.fin 0).size :=
  ⟨_, _, _, _, ⟨rfl, rfl, rfl, by decide, by decide, ⟨rfl, rfl⟩, by decide, by decide, by decide, ⟨_, rfl, by decide⟩, by decide, by decide, rfl⟩,
    fun _ => rfl, by decide, by decide⟩

/-- The other clauses: an update in progress; the block disabled; a rewrite of copies in progress, with no layer and with one. -/
theorem witness_FinishUpdates_others :
    let b := fin0.hbmRead 0x30000 128
    let j : FinJob := ⟨0, 0, 0, 0, 0, 1, [0, 0, 0, 0], [], [1, 0, 0, 0], [], b, true, []⟩
    let s := fin0.setFin 0 { fin0.fin 0 with job := some j, refreshing := true }
    (s.fin 0).job = some j ∧ j.recorded = true ∧ (LDesc.ofBytes j.desc).state + j.newState.length ≤ (LDesc.ofBytes j.desc).master ∧ s.up (.tile 0) = true ∧
      (s.stacksAt (LDesc.ofBytes j.desc).state j.newState.length).any s.stackFenced = false ∧
      (s.stacksAt (LDesc.ofBytes j.desc).master j.newMaster.length).any s.stackFenced = false ∧ s.enabled (.fin 0) = true ∧
      base0.enabled (.fin 0) = false ∧ (s.fin 0).refreshing = true ∧ s.layersOf 0 = [(0, LDesc.ofBytes (fin0.hbmRead 0x30000 128))] ∧
      ∃ m, s.unitRead 0x20000 4 = .ok m :=
  ⟨rfl, rfl, by decide, by decide, by decide, by decide, by decide, by decide, by decide, by decide +kernel, ⟨_, rfl⟩⟩

/-- The module with the router enabled and the chain unit on step 1, otherwise as c, a stage of an engine with an entry at the list. -/
def chain0 (engine : Nat) (ent : List Byte) (c : ChainSt → ChainSt) : State :=
  let s := (withHbm (engine0 engine [ring0] open1) 0x22000 ent).wb .router R.SH_STATUS 3 true
  { s with tdescs := [(5, d0)], chain := c { ChainSt.init with area := 0x100000, step := some 1 } }.wb .hrd R.SH_STATUS 3 true

/-- One contribution record of row 3 of table 5. -/
def crec0 : List Byte := leBytes 8 (5 * 2 ^ 52 + 3 * 2 ^ 12) ++ leBytes 8 0 ++ leBytes 32 0 ++ leBytes 8 1

theorem witness_ChainSends_ready : ∀ e ∈ [leBytes 4 0x10000000 ++ leBytes 28 0, leBytes 4 0x20000000 ++ leBytes 4 1 ++ leBytes 8 0x8000 ++ leBytes 16 4,
    leBytes 4 (0x30000000 + 8 * 4096) ++ leBytes 28 0], ChainReady (chain0 2 e id) 2 0 0 0 (etrain0 2 [ring0]) (estage0 2) ∧ (chain0 2 e id).sends (estage0 2) (SendEnt.ofBytes e) := by
  intro e he
  simp only [List.mem_cons, List.not_mem_nil, or_false] at he
  rcases he with rfl | rfl | rfl
  · exact ⟨⟨rfl, rfl, rfl, by decide, by decide, by decide, by decide⟩, ⟨_, rfl, by decide, by decide⟩⟩
  · exact ⟨⟨rfl, rfl, rfl, by decide, by decide, by decide, by decide⟩, ⟨_, rfl, by decide, by decide⟩⟩
  · exact ⟨⟨rfl, rfl, rfl, by decide, by decide, by decide, by decide⟩, ⟨_, rfl, by decide, by decide⟩⟩

theorem witness_ChainSends_entries :
    let s : State := { chain0 2 (leBytes 32 0x10000000) id with tsram := Mem.write [] (tsramCell 0 0x100) crec0 }
    (SendEnt.ofBytes (leBytes 32 0x10000000)).kind = 1 ∧ ring0.take 0 = some (0, { ring0 with taken := [(0, 1)] }) ∧
      s.tsramPoisoned 0 0x100 256 = false ∧ (s.parseRecs false 16 (s.tsramRead 0 0x100 256)).map (fun rs => rs.map (fun x => x.1.key)) = some [rowKey 5 3] ∧
      (s.chain.block false 0).parts = [] ∧ s.chain.merged = false ∧ s.chain.recs = [] ∧ s.chain.blocks.length < 1024 ∧ s.tsramBad 0 0x100 256 = false ∧
      (∃ b, s.unitRead 0x8000 16 = .ok b) ∧ (s.chain.block true 0).own = none ∧ (s.chain.block true 0).scopeBad false = false ∧ (∃ b, s.unitRead 0 512 = .ok b) ∧
      (let m := chain0 2 [] (fun c => { c with need := [0], last := [0] })
       m.up .mesh = true ∧ m.chain.step = some 1 ∧ m.openNow = some 1 ∧ m.chainStatus = none ∧ m.gathersDone 1 = true ∧ m.chain.merged = false ∧
         (∀ t ∈ m.chain.need, t ∈ m.chain.last) ∧ m.rb .router R.SH_CTRL 9 = false) :=
  ⟨by decide, by decide, by decide, by decide, by decide, by decide, by decide, by decide, by decide, ⟨_, rfl⟩, by decide, by decide, ⟨_, rfl⟩, by decide⟩

/-- A finished layer 2 of one element and a finished group 2. -/
def finals0 (c : ChainSt) : ChainSt :=
  { c with
    blocks := [{ c.block false 2 with size := 1, parts := [(0, leBytes 4 0)], nparts := 1, fin := [leBytes 4 0x3F800000] },
               { c.block true 2 with size := 1, fin := [leBytes 16 0] }]
    finished := [(false, 2), (true, 2)] }

theorem witness_ChainReceives : ∀ e ∈ [leBytes 8 0x20000002 ++ leBytes 8 0x8000 ++ leBytes 16 1, leBytes 8 0x30000002 ++ leBytes 24 0x8000],
    let s := chain0 3 e finals0
    let r := { ring0 with reserved := 0, visible := 0, credits := 4 }
    ChainReady s 3 0 0 0 (etrain0 3 [ring0]) (estage0 3) ∧ s.recvEntries (estage0 3) = some [(0, e)] ∧ s.recvOk 0 e = true ∧ ((false, 2) ∈ s.chain.finished ∧ (true, 2) ∈ s.chain.finished) ∧
      (s.chain.block false 2).size = 1 ∧ 0 < (s.chain.block false 2).fin.flatten.length ∧ ring0.reserve.isSome = true ∧ r.reserve.isSome = true ∧
      0x8000 + (topBest 64 (topList (s.chain.block true 2).fin.flatten)).length ≤ s.hbmTop ∧ (s.stacksAt 0x8000 512).any s.stackFenced = false := by
  intro e he
  simp only [List.mem_cons, List.not_mem_nil, or_false] at he
  rcases he with rfl | rfl
  · exact ⟨⟨rfl, rfl, rfl, by decide, by decide, by decide, by decide⟩, by decide, by decide, by decide, by decide, by decide, by decide, by decide, by decide, by decide⟩
  · exact ⟨⟨rfl, rfl, rfl, by decide, by decide, by decide, by decide⟩, by decide, by decide, by decide, by decide, by decide, by decide, by decide, by decide, by decide⟩

/-- A packet of step 1 of a kind, leg and stream with its CSUM. -/
def pkt0 (kind : BitVec 4) (stream : BitVec 16) (body : List Byte) : ChainPkt :=
  let p : ChainPkt := { kind := kind, leg := 1, step := 1, stream := stream, pseq := 0, info := 0, src := 0, dst := 0, csum := 0, body := body }
  { p with csum := BitVec.ofNat 32 (pktCrc p) }
/-- The module to which that packet has come. -/
def got0 (p : ChainPkt) (c : ChainSt → ChainSt) : State := { chain0 2 [] c with arrived := [msg (.chain p)] }
/-- Stream 0 of the X leg. -/
def sum0 : SStream := { leg := 1, no := 0, final := false, inq := [], inClosed := false, own := [], ownReady := false, buf := [], sent := 0, closed := false }
/-- A chain with its own value. -/
def own0 (topk : Bool) (c : ChainSt) : ChainSt := { c with blocks := [{ c.block topk 0 with topk := topk, size := 1, own := some [[]], scope := topk }] }

theorem witness_ChainPackets :
    (∀ k ∈ [1, 2, 3, 4, 5, 6, 7], let s := got0 (pkt0 k 0 (crec0.take 48)) (fun c => { c with streams := [sum0] })
      PktReady s (msg (.chain (pkt0 k 0 (crec0.take 48)))) (pkt0 k 0 (crec0.take 48)) ∧ s.chain.stream 1 0 false = some sum0 ∧
        (s.parseVals 4 (crec0.take 48)).map (fun l => l.length) = some 1 ∧ (s.chain.block false 0).own = none) := by
  intro k hk
  simp only [List.mem_cons, List.not_mem_nil, or_false] at hk
  rcases hk with rfl | rfl | rfl | rfl | rfl | rfl | rfl <;>
    exact ⟨⟨by decide, by decide, rfl, by decide, by decide, by decide, by decide, by decide, by decide⟩, by decide, by decide, by decide⟩

/-- The other clauses: a final where the module is not the first of the distribution, finals of chains with their own value, a packet with another
CSUM or of another step, a stream that waits. -/
theorem witness_ChainPackets_others :
    let fin := { sum0 with final := true, ownReady := true }
    let s (c : ChainSt → ChainSt) : State := ((chain0 2 [] c).wf .router R.ROUTER_FAB_SIZE 11 0 1).wb .router R.ROUTER_FAB_LOCK 1 true
    ((s fun c => { c with streams := [fin] }).finalHop 0).hasIn = true ∧ (s fun c => { c with streams := [fin] }).chain.stream 1 0 true = some fin ∧
      (∀ k ∈ [false, true], ((s (own0 k)).chain.block k 0).own.isSome = true ∧ ((s (own0 k)).chain.block k 0).got < ((s (own0 k)).chain.block k 0).packets ∧
        (k = true → ((s (own0 k)).chain.block k 0).scope = true)) ∧
      ({ pkt0 3 0 [] with csum := 0 }.csum.toNat ≠ pktCrc { pkt0 3 0 [] with csum := 0 }) ∧
      ((s id).openNow ≠ some 9 ∧ 9 ≠ (s id).openStep + 1 ∧ (s id).rb .router R.SH_CTRL 9 = false) ∧
      (let w := s fun c => { c with timeoutUs := 1, streams := [{ sum0 with ownReady := true }] }
       w.chain.timeoutUs ≠ 0 ∧ w.chainStatus = none ∧ w.streamWaits (.sparse 1 0) = true) := by decide

/-! Geometry, caches and loans; the fabric. -/

theorem witness_GeometryAndStacks :
    base0.geoLocked = false ∧ base0.geoOk = true ∧ (State.reset.wf .mod R.MOD_HOST_CFG 4 0 17).geoOk = false ∧
      (base0.wb .mod R.MOD_MEM_LOCK 1 true).geoLocked = true ∧
      (let s := (base0.wf (.base 0) R.BASE_SKEW_CFG 15 8 16).wf (.base 0) R.BASE_SKEW_CFG 7 0 2
       let seen (l : List (Nat × Nat)) : Nat × Nat := (l.foldl (fun n e => n + e.2) 0, l.foldl (fun n e => max n e.2) 0)
       let even := seen [(0, 20000), (31, 20000)]
       let flat := seen [(0, 19999), (1, 2), (31, 19999)]
       (40000 ≤ even.1 ∧ 16 * even.1 ≤ 32 * even.2) ∧ ¬ (40000 ≤ flat.1 ∧ 16 * flat.1 ≤ 32 * flat.2) ∧
         (s.catchSt 0).skewRun + 1 < s.rf (.base 0) R.BASE_SKEW_CFG 7 0 ∧
         s.rf (.base 0) R.BASE_SKEW_CFG 7 0 ≤ ((s.setCatch 0 { s.catchSt 0 with skewRun := 1 }).catchSt 0).skewRun + 1) := by decide +kernel

/-- Every island has lock in a module that has lost none, and an island that has lost it has not; a stack that is not fenced, one that is. -/
theorem witness_up :
    (∀ x ∈ [Island.mesh, .tile 7, .selaz, .flt, .base 31, .serdes 5, .pcie 3], base0.up x = true ∧
      ({ base0 with pwr := { base0.pwr with lost := [x] } } : State).up x = false) ∧
      (∀ st, base0.stackFenced st = false) ∧ base0.stacksUp 0 8 = true ∧
      ({ base0 with pwr := { base0.pwr with lost := [.base (base0.stackOfAddr 0)] } } : State).stacksUp 0 8 = false ∧
      base0.enabled .hostif = false ∧ (base0.wb .hostif R.SH_STATUS 3 true).enabled .hostif = true ∧ base0.memUp 0 8 = true := by decide

/-- A module with 4 GiB of HBM mapped, loan 0 of 64 MiB above it from a partner on port 0, and its own lend window on port 0. -/
def loan0 : State :=
  let s := ((base0.wr .mod R.MOD_HBM_TOP 0x100000000).wf .mod R.MOD_LOAN_ADDR 40 26 64).wr .mod R.MOD_LOAN_CFG (2 ^ 31 + 2 ^ 16)
  (s.wf .mod R.MOD_LEND_CFG 15 0 1).wb .mod R.MOD_LEND_CFG 16 true

/-- A cached tile of HBM with sector 0 valid and dirty; enabled Coxes; loans that fit and that do not; requests at the ends of the lend window. -/
theorem witness_CachesAndLoans :
    let e : CacheTile := { tag := 0, way := 0, valid := 1, dirty := 1, loan := false, cells := [(0, 7)] }
    let s := (base0.wb (.cox 0) R.SH_STATUS 3 true)
    let x : State := { s with coxes := [(0, { Cox.init with cache := [e] })] }
    (x.enabled (.cox 0) = true ∧ x.rb (.cox 0) R.COX_TCACHE_CTL 8 = false ∧ (x.cox 0).cache = [e] ∧ e.loan = false ∧ e.dirty ≠ 0 ∧ e.valid.testBit 0 = true) ∧
      (∀ q ∈ x.loanReqs, q.tile ≠ 0 ∨ q.write = false) ∧
      loan0.loanOk 0 (2 ^ 31 + 2 ^ 16) = true ∧ loan0.loanOk 0 (2 ^ 31) = false ∧ base0.loanOk 0 (2 ^ 31 + 2 ^ 16) = false ∧
      loan0.lendAddr 0 0 4096 = some 0 ∧ loan0.lendAddr 0 (0x4000000 - 4096) 4096 = some (0x4000000 - 4096) ∧ loan0.lendAddr 0 0x4000000 4096 = none ∧
      loan0.lendAddr 0 64 4096 = none ∧ loan0.lendAddr 1 0 4096 = none ∧ loan0.hbmBad 0 4096 = false ∧
      (∃ q : LoanReq, ([⟨7, 0, 0, 0x100000000, false⟩] : List LoanReq).find? (fun q => q.tag == (msg (.loanResp .done [])).tag) = some q ∧
        q.write = false ∧ q.addr % 4096 = 0) ∧
      loan0.loanOn 0 = true ∧ loan0.loanLost 0 = false ∧ loan0.portState 0 ≠ 2 ∧ (loan0.stacksAt 0 4096).any loan0.stackFenced = false ∧
      (let m : Msg := { msg (.loanRead 0 4096) with src := BitVec.ofNat 12 (loan0.partner 0) }
       ({ loan0 with arrived := [m] } : State).lendNext 0 m = true) := by
  refine ⟨by decide, by decide, by decide, by decide, by decide, by decide, by decide, by decide, by decide, by decide, by decide,
    ⟨⟨7, 0, 0, 0x100000000, false⟩, by decide⟩, by decide, by decide, by decide, by decide, by decide⟩

/-- The module with port 0 in a state, otherwise as x. -/
def port0 (st : Nat) (x : PortSt → PortSt) : State := (base0.setPortState 0 st).setPort 0 (x PortSt.init)
/-- A data flit of class 0 with a SEQ. -/
def flit0 (seq : BitVec 12) : Flit :=
  { cls := 0, vc := false, som := true, seq := seq, ack := 0, crClass := 0, crVc := false, crCount := 0, len := 1, crcOk := true }
/-- It as it waits for its acknowledgement. -/
def sent0 (seq : BitVec 12) : TxFlit := { ftype := 0, flit := flit0 seq, msg := none }

/-- Training, its bounds, right and wrong partners, an ACTIVE port with a flit out, retraining. -/
theorem witness_PortStates :
    (port0 1 id).portState 0 = 1 ∧ PortSt.init.trained = false ∧ ((port0 1 fun x => { x with failed := 2 }).port 0).failed + 1 = 3 ∧
      ((port0 1 fun x => { x with trained := true }).port 0).trained = true ∧ (flit0 0).seq = PortSt.init.rxSeq ∧
      (let s := port0 1 fun x => { x with trained := true }
       let y : Ident := { size := BitVec.ofNat 32 (s.rd .router R.ROUTER_FAB_SIZE), pos := BitVec.ofNat 32 (s.nextPos 0), bufs := [] }
       (y.size.toNat = s.fabSizes ∧ fld y.pos.toNat 11 0 = s.nextPos 0) ∧ (5 : Nat) ≠ s.rd .router R.ROUTER_FAB_SIZE) ∧
      (port0 2 id).portState 0 = 2 ∧ ((port0 2 fun x => { x with replay := [sent0 0] }).port 0).replay ≠ [] ∧ (port0 3 id).portState 0 = 3 ∧
      ((port0 3 fun x => { x with failed := 1 }).port 0).failed + 1 = 2 := by decide

theorem witness_FlitExchange :
    let s := port0 2 fun x => { x with replay := [sent0 4, sent0 5], ackDue := true }
    s.pwr.on = true ∧ s.portState 0 = 2 ∧ ((flit0 0).crcOk = true ∧ (flit0 0).seq = (s.port 0).rxSeq ∧ (flit0 1).seq ≠ (s.port 0).rxSeq) ∧
      { flit0 0 with crcOk := false }.crcOk = false ∧ (flit0 0).crCount = 0 ∧ (∀ q ∈ (s.port 0).queues, q = []) ∧
      ((s.port 0).replay = [] ++ sent0 4 :: [sent0 5] ∧ (sent0 4).flit.seq = { flit0 0 with ack := 4 }.ack) ∧ (s.port 0).ackDue = true := by decide

/-- The router's table with every entry at v, as bank 0 of one entry for destination 0. -/
def routed (v : W64) (s : State) : State := s.setTbl .rt { s.tbl .rt with bank0 := [(0, v)], bank1 := [(0, v)] }

/-- A root and a module with a parent on port 0, locked and not; a time-sync exchange; the ends of the replay buffer. -/
theorem witness_FabricTime :
    let p := routed (2 ^ 63) (port0 2 fun x => { x with syncSent := 10, syncRecv := 30 })
    let r := routed (2 ^ 63 + 6 * 2 ^ 60) base0
    let k (s : State) := s.wb .router R.ROUTER_TSYNC_STATUS 0 true
    p.portState 0 = 2 ∧ (List.replicate 2047 (sent0 0)).length < 2048 ∧ ((flit0 0).seq = (p.port 0).rxSeq ∧ (flit0 0).crCount = 0) ∧
      ((p.port 0).syncSent ≠ 0 ∧ (p.port 0).syncRecv ≠ 0) ∧ p.isParentPort 0 = true ∧ p.isParentPort 1 = false ∧
      p.rb .router R.ROUTER_TSYNC_STATUS 0 = false ∧ (k p).rb .router R.ROUTER_TSYNC_STATUS 0 = true ∧
      ((routed 0 (k base0)).isRoot = false ∧ (routed 0 (k base0)).parent = none) ∧ r.isRoot = true ∧
      (r.wb .router R.ROUTER_TSYNC_CFG 63 true).rb .router R.ROUTER_TSYNC_CFG 63 = true ∧ (r.fabTime.toNat < 2 ^ 63) ∧
      (r.wf .router R.ROUTER_TSYNC_CFG 31 0 1).rf .router R.ROUTER_TSYNC_CFG 31 0 ≠ 0 := by decide +kernel

/-- Messages for port 6, for a port, without an entry; a tree message on a port; an overdue child; configurations; a spare that takes over. -/
theorem witness_RoutesAndTrees :
    let m := msg (.regReq false .w64 0 0)
    let s (v : W64) : State := routed v { port0 2 id with inject := [m], children := [(0x010, 1)] }
    ((s (2 ^ 63 + 6 * 2 ^ 60)).inject = m :: [] ∧ isTree m.body = false) ∧
      ((s (2 ^ 63 + 6 * 2 ^ 60)).routeEntry 0).testBit 63 = true ∧ fld ((s (2 ^ 63 + 6 * 2 ^ 60)).routeEntry 0) 62 60 = 6 ∧
      (((s (2 ^ 63)).routeEntry 0).testBit 63 = true ∧ fld ((s (2 ^ 63)).routeEntry 0) 62 60 = (0 : PortId).val ∧ m.hops.toNat < 31 ∧ (s (2 ^ 63)).portState 0 = 2) ∧
      (((s 0).routeEntry 0).testBit 63 = false ∧ refusalOf (msg (.regResp true 0)).body = none) ∧
      (let x : RxMsg := ⟨0, false, 1, msg (.registration 1)⟩
       let k (st : Nat) : State := port0 st (fun y => { y with rx := [x] })
       ((k 2).port 0).rx = x :: [] ∧ isTree x.msg.body = true ∧ mtypeClass (mtypeOf x.msg.body) = some x.cls ∧ (k 2).portState 0 = 2 ∧
         ((k 3).port 0).rx = x :: [] ∧ (k 3).portState 0 ≠ 2 ∧ (k 2).up .selaz = true ∧ (k 3).up .selaz = true) ∧
      (let b := (s 0).setBar { (s 0).bar 2 1 with own := true }
       (b.wf .router R.ROUTER_BARRIER_CFG 31 0 1).rf .router R.ROUTER_BARRIER_CFG 31 0 ≠ 0 ∧ (b.bar 2 1).reported = false ∧ (b.bar 2 1).complete = false ∧
         (b.bar 2 1).sent = false ∧ (b.bar 2 1).own = true ∧ (0x010, 1) ∈ b.children ∧ 0x010 ∉ (b.bar 2 1).ups) ∧
      base0.fabOk = true ∧ (base0.wf .router R.ROUTER_FAB_POS 3 0 1).fabOk = false ∧
      (let k := fab0.wb .router R.ROUTER_FAB_POS 31 true
       k.fabLocked = true ∧ k.isSpare = true ∧ (∀ a < 3, fld (k.rf .router R.ROUTER_TAKEOVER 11 0) (4 * a + 3) (4 * a) ≤ fld k.fabSizes (4 * a + 3) (4 * a)) ∧
         ¬ (fld ((k.wf .router R.ROUTER_TAKEOVER 11 0 2).rf .router R.ROUTER_TAKEOVER 11 0) 3 0 ≤ fld k.fabSizes 3 0)) := by decide +kernel

/-! Steps, faults, power, starts. -/

/-- Step 1 closed, its digest taken. -/
def closed1 : StepSt := { step1 with closed := true, sd := some 5, sent := true }

/-- The open step with its work over and not; an opening that may happen and one that waits; a closed step's token with and without a Crew check; aborts
and digests for steps known, committed and to come. -/
theorem witness_StepsOpenAndClose :
    (open1.openNow = some 1 ∧ open1.stepSt 1 = some step1 ∧ open1.workDone 1 = true ∧
      ({ open1 with coxes := [(0, { Cox.init with trains := [train0] })] } : State).workDone 1 = false) ∧
      (let s : State := { fab0.setUmpState 0 with ump := { UmpSt.init with mayOpen := some 1 } }
       s.ump.mayOpen = some 1 ∧ s.mayOpenStep 1 = true ∧ s.stepSt 1 = none ∧
         ({ base0 with ump := { UmpSt.init with mayOpen := some 1 } } : State).mayOpenStep 1 = false) ∧
      (let s : State := { fab0 with steps := [closed1] }
       let c := (s.wb .rel R.REL_CREW_CFG 16 true).wf .rel R.REL_CREW_CFG 9 0 1
       s.steps.find? (fun x => x.closed && !x.tokenSent) = some closed1 ∧ s.stepSt 1 = some closed1 ∧ s.crewStep 1 = false ∧
         c.crewStep 2 = true ∧ ({ c with steps := [{ closed1 with step := 2 }] } : State).stepSt 2 = some { closed1 with step := 2 } ∧
         closed1.word.getLsbD 2 = false ∧ closed1.crew.length < c.nx ∧
         s.stepSt 2 = none ∧ s.committedStep < 2 ∧ ({ s with ump := { UmpSt.init with recheck := some 1 } } : State).ump.recheck = some 1 ∧
         ((UmpSt.init.second.filter (fun e => e.1 != 1)).length + 1 < s.nx)) := by decide +kernel

/-- A suspended Umpire, one with a step open, a rescan in progress; a step that commits or rolls back. -/
theorem witness_UmpireActs :
    let s : State := { base0 with steps := [closed1] }
    (s.isSpare = false ∧ s.stepSt 1 = some closed1 ∧ closed1.closed = true ∧ 1 = s.committedStep + 1 ∧ (4 : W32).getLsbD 2 = true) ∧
      (base0.setUmpState 4).umpState = 4 ∧ (base0.setUmpState 5).umpState = 5 ∧ (∀ x ∈ base0.coxes, ∀ tr ∈ x.2.trains, tr.launched = false) ∧
      ¬ ((base0.setUmpState 0).umpState = 4 ∨ (base0.setUmpState 0).umpState = 5) ∧ base0.openNow = none ∧ open1.openNow.isSome = true ∧
      ({ base0 with ump := { UmpSt.init with rescanning := true } } : State).ump.rescanning = true ∧
      (base0.setUmpState 4).ump.needSet = false ∧ (base0.setUmpState 4).ump.resuming = false := by decide

theorem witness_HeatTests :
    let s := ((base0.wb (.core 5) R.SH_STATUS 3 true).wf (.core 5) R.CORE_CORE_CFG 7 0 0xFF).wf .rel R.REL_HEAT_CFG 2 0 7
    (s.rb .rel R.REL_HEAT_CFG 0 = true ∧ s.coreAvail 5 = true ∧ s.underTest 5 = false ∧ 5 ∉ s.ump.due) ∧ s.coreIdle 5 = true ∧
      (∀ k < 16, s.underTest (coreOf (tileOfCore 5) k) = false) ∧ (s.wb (.core 5) R.CORE_CORE_CFG 8 true).underTest 5 = true ∧
      (s.rb .rel R.REL_HEAT_CFG 1 = true ∧ (s.wb (.base 3) R.SH_STATUS 3 true).enabled (.base 3) = true) ∧
      (s.rb .rel R.REL_HEAT_CFG 2 = true ∧ (s.wb (.fin 3) R.SH_STATUS 3 true).enabled (.fin 3) = true ∧ (s.fin 3).job = none) ∧
      (∀ k ∈ [1, 2, 3], s.rb .rel R.REL_HEAT_CFG (k - 1) = true) := by decide +kernel

/-- A report whose source has each of the reactions 0 to 4; queued entries; pairs and units that may be fenced, and those that may not. -/
theorem witness_ReportsAndTheWake :
    base0.stopped = false ∧
      (∀ react ∈ [0, 1, 2, 3, 4], let p : Page := .core 5
        let src := sourceOf p 9
        let s : State := { base0.setTbl .frt { TableSt.init with bank0 := [(src, BitVec.ofNat 64 react)], bank1 := [(src, BitVec.ofNat 64 react)] } with
                           reports := [⟨p, 9, 0, 0, 0, false⟩] }
        fld (s.tblWord .frt src) 2 0 = react ∧ (src, instanceOf p) ∉ s.flt.ignored ∧ s.flt.queue.length < 32 ∧ s.rb .flt R.SH_CTRL 9 = false ∧
          subjectOf p 9 0 = some ⟨1, 5⟩ ∧ FUnit.exists ⟨1, 5⟩ = true) ∧
      (let v : W32 := 0x10005
       let x : FUnit := ⟨fld v.toNat 18 16, fld v.toNat 11 0⟩
       x = ⟨1, 5⟩ ∧ x.exists = true ∧ (∀ p ∈ x.pages, base0.draining p = false) ∧ base0.unitFenced ⟨2, 5 / 16⟩ = false ∧
         (base0.wb .flt x.bit.1 x.bit.2 true).unitFenced x = true ∧ FUnit.exists ⟨0, 5⟩ = false) := by decide +kernel

theorem test_wakeEntryWrite : ∃ u, exec .wakeEntryWrite { base0 with flt := { FltSt.init with queue := [⟨1, 2, 3, 4⟩] } } = .next u ∧ u.flt.queue = [] :=
  ⟨_, rfl, by decide⟩

/-- The last page slot and instance of an existing pair, counts of 3 and 4 samples, both patterns. -/
theorem witness_StrokeAndInjection :
    { FltSt.init with stroke := true }.stroke = true ∧ FltSt.init.stroke = false ∧ base0.expert .flt = false ∧
      (base0.wb .flt R.SH_CTRL 1 true).expert .flt = true ∧ pageOfSlot 14 0 = some .hostif ∧ pageOfSlot 7 127 = some (.core 127) ∧ pageOfSlot 7 128 = none ∧
      fld (0x1003#64).toNat 11 0 < 4 ∧ 4 ≤ fld (0x1004#64).toNat 11 0 ∧ fld (0x1004#64).toNat 13 12 = 1 ∧ fld (0x2004#64).toNat 13 12 = 2 := by decide

/-- Windows above the cap with and without a slower point, at the least DUTY and above it, below 97 % of the cap; temperatures at the trip; both bounds
of the drift. -/
theorem witness_PowerControl :
    let slow := base0.wr .pwr R.PWR_TILE_POINT 0x44444444
    let d (v : Nat) : State := slow.wf .pwr R.PWR_PWR_STATUS 4 0 v
    base0.pwr.moving = false ∧ { PwrSt.init with moving := true }.moving = true ∧ base0.cap < base0.cap + 1 ∧ ¬ (∀ t < 8, base0.point t = 4) ∧
      (∀ t < 8, slow.point t = 4) ∧ ((d 16).dutyMin < (d 16).duty) ∧ ((d (d 0).dutyMin).duty ≤ (d (d 0).dutyMin).dutyMin) ∧
      (0 * 100 < base0.cap * 97) ∧ (d 15).duty < 16 ∧
      (∀ k < 10, dieTemp (if k < 8 then 4 else 2) (nth [] (List.replicate 10 (List.replicate 4 (some 117))) k) < 118) ∧
      118 ≤ dieTemp 4 (nth [] [[some 118, some 0, some 0, some 0]] 0) ∧
      (base0.wb .router R.ROUTER_TSYNC_STATUS 0 true).rb .router R.ROUTER_TSYNC_STATUS 0 = true ∧ base0.rb .router R.ROUTER_TSYNC_STATUS 0 = false ∧
      (10001#16).toInt.natAbs > 10000 ∧ (-10000#16).toInt.natAbs ≤ 10000 := by decide +kernel

theorem witness_ResetsAndPower :
    let s := base0.wf .mod R.MOD_START_STATUS 2 2 1
    { PwrSt.init with en := false }.en = false ∧ base0.pwr.on = true ∧ (s.start.active = false ∧ s.startFld 2 2 = 1 ∧ s.startFld 1 0 < 2) ∧
      base0.startFld 2 2 = 0 ∧ (s.bootSet false 0).toOption = none := by decide

theorem witness_StartsAndAttestation :
    let s : State := { base0 with start := { StartSt.init with active := true, att := some (0, []) } }
    base0.start.active = false ∧ s.start.active = true ∧ s.startFld 31 28 ≠ 2 ∧ base0.start.att = none ∧
      base0.inHost (base0.rd .mod R.MOD_ATT_ADDR) 608 = true ∧ (∀ e ∈ base0.start.images, e.2.length = 48) ∧ s.start.att = some (0, []) ∧ 0 + 0 ≤ s.hbmTop ∧
      base0.inHost (base0.hostEnd - 607) 608 = false := by decide

theorem witness_TapAndManagement : (0x1F : Byte) ∉ tapOpcodes ∧ base0.startFld 27 24 < 2 ∧ 2 ≤ (base0.setStartFld 27 24 8).startFld 27 24 := by decide

theorem test_mgmtRead : ∃ u, exec (.mgmtRead 0) base0 = .next u ∧ (u.mgmt.answer.isSome = true) := ⟨_, rfl, by decide⟩

theorem witness_UnpoweredIdle : ∃ s : State, s.pwr.on = false ∧ (∀ f, Instr.stepOpen ≠ .powerOn f) ∧ Instr.stepOpen ≠ .powerOff ∧
    exec .stepOpen s = .next s ∧ s.PowerInv :=
  ⟨{ State.reset with pwr := { PwrSt.init with on := false, en := false } }, rfl, by simp, by simp, rfl, ⟨by decide, fun _ => by decide⟩⟩

theorem witness_PowerInvariant : ∃ s u : State, step s = .next u ∧ s.PowerInv ∧ s.pwr.on = true :=
  ⟨State.reset, _, rfl, ⟨by decide, by decide⟩, rfl⟩

theorem witness_FusedVersionsNeverFall : (base0.setStartFld 27 24 8).startDone = true ∧ base0.startDone = false ∧
    (∀ k < 5, (nth (0, []) base0.start.images k).1 < 256) := by decide

/-- On a waiting command, step is exec with the rest of the queue. -/
theorem test_step : ∃ u, step { go0 with pending := [.sadd 0 0 { f0 with vd := 5, imm := 7 }, .nop 0 0 f0] } = .next u ∧ (u.thread 0 0).sget 5 = 7 ∧
    u.pending = [.nop 0 0 f0] := ⟨_, rfl, by decide, rfl⟩

end Sys2Proof.Tests
end

/-! O30 (R66 to R70, R781): what activating, aborting, writing, reading and swapping a table leave in its group. -/

namespace Sys2Proof.Machine

section TableGroup

/-! The group of a table after the shared operations. -/

theorem State.tbl_congr {s u : State} (h : u.tables = s.tables) (tb : TableId) : u.tbl tb = s.tbl tb := by
  unfold State.tbl
  rw [h]

@[simp] theorem State.tbl_setTbl (s : State) (tb : TableId) (x : TableSt) : (s.setTbl tb x).tbl tb = x := by
  simp [State.tbl, State.setTbl]

@[simp] theorem State.tbl_kept (s r : State) (tb : TableId) : (s.kept r).tbl tb = r.tbl tb :=
  State.tbl_congr (by simp) tb

@[simp] theorem State.tbl_answer (s : State) (v : W64) (tb : TableId) : (s.answer v).tbl tb = s.tbl tb := rfl

@[simp] theorem State.tbl_err (s : State) (p : Page) (bitNo : Nat) (tb : TableId) : (s.err p bitNo).tbl tb = s.tbl tb :=
  State.tbl_congr (by simp) tb

@[simp] theorem State.rb_kept (s r : State) (p : Page) (off n : Nat) : (s.kept r).rb p off n = r.rb p off n := rfl

/-- A refused activation sets TBL_LOAD. -/
theorem State.tblRefuse_spec (s : State) (tb : TableId) (f : TableSt → TableSt) :
    (s.tblRefuse tb f).tbl tb = f (s.tbl tb) ∧ (s.tblRefuse tb f).rb tb.page R.SH_ERR_STICKY E.TBL_LOAD = true := by
  unfold State.tblRefuse
  exact ⟨by simp, by rw [State.sticky_err _ _ _ _ (by decide), if_pos rfl]⟩

/-! Words and banks. -/

theorem TableSt.bank_setBank (x : TableSt) (b c : Bool) (m : List (Nat × W64)) :
    (x.setBank b m).bank c = if c = b then m else x.bank c := by
  cases b <;> cases c <;> rfl

/-- A change of a bank leaves the rest of the group. -/
theorem TableSt.setBank_keeps (x : TableSt) (b : Bool) (m : List (Nat × W64)) :
    (x.setBank b m).index = x.index ∧ (x.setBank b m).active = x.active ∧ (x.setBank b m).heldLow = x.heldLow := by
  cases b <;> exact ⟨rfl, rfl, rfl⟩

/-- A word stored in bank b at k is read there and nowhere else. -/
theorem TableSt.wordAt_setBank_set (tb : TableId) (x : TableSt) (b c : Bool) (k n : Nat) (w : W64) :
    (x.setBank b (SMap.set (tblCold tb) (x.bank b) k w)).wordAt tb c n = if c = b ∧ n = k then w else x.wordAt tb c n := by
  unfold TableSt.wordAt
  rw [TableSt.bank_setBank]
  by_cases hc : c = b
  · subst hc
    simp [SMap.get_set]
  · simp [hc]

/-! ACTIVATE and ABORT (R66 to R68, R70). -/

section Activate

variable {s : State} {tb : TableId} (ho : s.tblOpen tb = true)
include ho

theorem State.activate_pending (hp : (s.tbl tb).pending = true) : s.activate tb = s := by
  simp [State.activate, ho, hp]

variable (hp : (s.tbl tb).pending = false)
include hp

theorem State.activate_held (hh : (s.tbl tb).held = true) : s.activate tb = s.tblRefuse tb id := by
  simp [State.activate, ho, hp, hh]

variable (hh : (s.tbl tb).held = false)
include hh

theorem State.activate_badCrc (hc : s.shadowCrc tb ≠ (s.tbl tb).crcExp.toNat) :
    s.activate tb = s.tblRefuse tb (fun x => { x with crcFail := true }) := by
  simp [State.activate, ho, hp, hh, hc]

variable (hc : s.shadowCrc tb = (s.tbl tb).crcExp.toNat) (ha : tblAccepts tb ((s.shadowWords tb).map BitVec.toNat) = true)
include hc ha

theorem State.activate_late (hb : tb.byStep = true) (hl : (s.tbl tb).step.toNat ≤ s.openStep) :
    s.activate tb = s.tblRefuse tb (fun x => { x with late := true }) := by
  simp [State.activate, ho, hp, hh, hc, ha, hb, hl]

theorem State.activate_accepted (hl : tb.byStep = false ∨ s.openStep < (s.tbl tb).step.toNat) :
    s.activate tb = s.setTbl tb { s.tbl tb with pending := true } := by
  have inTime : ¬ (tb.byStep = true ∧ (s.tbl tb).step.toNat ≤ s.openStep) := by
    rintro ⟨hb, hle⟩
    rcases hl with hl | hl
    · simp [hl] at hb
    · omega
  simp only [State.activate, ho, hp, hh, hc, ha, if_neg inTime]
  simp

end Activate

theorem State.abortTbl_open {s : State} {tb : TableId} (ho : s.tblOpen tb = true) :
    s.abortTbl tb = s.setTbl tb { s.tbl tb with pending := false } := by
  simp [State.abortTbl, ho]

/-! Writes of TBL_DATA (R68, R781). -/

/-- The group as a word access that completes leaves it beside the word: INDEX one on, no low half held. -/
def TableSt.advanced (x : TableSt) : TableSt := { x with index := x.index + 1, heldLow := none }

theorem State.putWord_eq {s : State} {tb : TableId} (v : W64) (hk : (s.tbl tb).index.toNat < tb.words)
    (hr : (s.tbl tb).readActive = false) (hp : (s.tbl tb).pending = false) (hh : (s.tbl tb).held = false) :
    s.putWord tb (fun _ => v) = s.setTbl tb ((s.tbl tb).advanced.setBank (!(s.tbl tb).active)
      (SMap.set (tblCold tb) ((s.tbl tb).advanced.bank (!(s.tbl tb).active)) (s.tbl tb).index.toNat v)) := by
  unfold State.putWord
  rw [if_neg (by simpa [hr, hp, hh] using hk)]
  rfl

/-- A word access that completes stores its word in the shadow bank at INDEX alone. -/
theorem State.putWord_accepted {s : State} {tb : TableId} (v : W64) (hk : (s.tbl tb).index.toNat < tb.words)
    (hr : (s.tbl tb).readActive = false) (hp : (s.tbl tb).pending = false) (hh : (s.tbl tb).held = false) :
    let x := s.tbl tb
    let y := (s.putWord tb (fun _ => v)).tbl tb
    y.index = x.index + 1 ∧ y.active = x.active ∧ y.heldLow = none ∧
      ∀ b n, y.wordAt tb b n = if b = !x.active ∧ n = x.index.toNat then v else x.wordAt tb b n := by
  dsimp only
  rw [State.putWord_eq v hk hr hp hh, State.tbl_setTbl]
  obtain ⟨hi, hact, hlow⟩ := (s.tbl tb).advanced.setBank_keeps (!(s.tbl tb).active)
    (SMap.set (tblCold tb) ((s.tbl tb).advanced.bank (!(s.tbl tb).active)) (s.tbl tb).index.toNat v)
  exact ⟨hi, hact, hlow, fun b n => (s.tbl tb).advanced.wordAt_setBank_set tb _ b _ n v⟩

/-- A word access that is refused leaves both banks and INDEX. -/
theorem State.putWord_refused {s : State} {tb : TableId} (w : W64 → W64)
    (h : ((s.tbl tb).readActive || (s.tbl tb).pending || (s.tbl tb).held || decide (tb.words ≤ (s.tbl tb).index.toNat)) = true) :
    (s.putWord tb w).tbl tb = { s.tbl tb with heldLow := none } ∧
      (s.putWord tb w).rb tb.page R.SH_ERR_STICKY E.CTL_ACCESS = true := by
  simp only [State.putWord, h, if_true, State.ctlAccess]
  exact ⟨by simp, by rw [State.sticky_err _ _ _ _ (by decide), if_pos rfl]⟩

section Write

variable {s : State} {tb : TableId} (ho : s.tblOpen tb = true) (v : W64)
include ho

theorem State.tblWrite_word : s.tblWrite tb .word v = s.putWord tb (fun _ => v) := by
  simp [State.tblWrite, ho]

theorem State.tblWrite_lo : s.tblWrite tb .lo v = s.setTbl tb { s.tbl tb with heldLow := some (v.setWidth 32) } := by
  simp [State.tblWrite, ho]

theorem State.tblWrite_hi_held {l : W32} (hl : (s.tbl tb).heldLow = some l) :
    s.tblWrite tb .hi v = s.putWord tb (fun _ => BitVec.ofNat 64 (v.toNat % 2 ^ 32 * 2 ^ 32 + l.toNat)) := by
  simp [State.tblWrite, ho, hl, fld]

end Write

/-! Reads of TBL_DATA (R9, R69, R781). -/

section Read

variable {s : State} {tb : TableId}

/-- Within the table a read answers the word at INDEX of the bank that READ_ACTIVE names. -/
theorem State.tblAt_inRange (hk : (s.tbl tb).index.toNat < tb.words) :
    s.tblAt tb = ((s.tbl tb).wordAt tb (if (s.tbl tb).readActive then (s.tbl tb).active else !(s.tbl tb).active) (s.tbl tb).index.toNat &&&
      tblMask tb (s.tbl tb).index.toNat, s) := by
  simp [State.tblAt, hk]

theorem State.tblRead_word (hk : (s.tbl tb).index.toNat < tb.words) :
    s.tblRead tb .word =
      ((s.tblAt tb).1, s.setTbl tb { s.tbl tb with index := (s.tbl tb).index + 1, latchedHigh := none }) := by
  simp [State.tblRead, State.tblAt_inRange hk]

theorem State.tblRead_lo (hk : (s.tbl tb).index.toNat < tb.words) :
    s.tblRead tb .lo = (BitVec.ofNat 64 ((s.tblAt tb).1.toNat % 2 ^ 32),
      s.setTbl tb { s.tbl tb with latchedHigh := some (BitVec.ofNat 32 ((s.tblAt tb).1.toNat / 2 ^ 32)) }) := by
  have high (w : W64) : fld w.toNat 63 32 = w.toNat / 2 ^ 32 := by
    have := w.isLt
    simp only [fld, Nat.shiftRight_eq_div_pow]
    omega
  have low (w : W64) : fld w.toNat 31 0 = w.toNat % 2 ^ 32 := rfl
  simp only [State.tblRead, high, low, State.tblAt_inRange hk]

theorem State.tblRead_hi_latched {h : W32} (hl : (s.tbl tb).latchedHigh = some h) :
    s.tblRead tb .hi = (h.setWidth 64, s.setTbl tb { s.tbl tb with index := (s.tbl tb).index + 1, latchedHigh := none }) := by
  simp [State.tblRead, hl]

end Read

/-! What an immediate activation does beyond the swap reaches no table. -/

theorem State.tables_tryBar (s : State) (kind step : Nat) : (s.tryBar kind step).tables = s.tables := by
  have down (u : State) (w : W32) : (u.sendDown kind step w).tables = u.tables :=
    List.foldlRecOn (motive := fun r : State => r.tables = u.tables) _ _ rfl (fun r hr _ _ => by simp [hr])
  simp only [State.tryBar]
  split
  · rfl
  · split
    · rw [down]; rfl
    · split
      · rfl
      · split
        · rfl
        · simp [State.setBar]

theorem State.tables_tryBars (s : State) : s.tryBars.tables = s.tables :=
  List.foldlRecOn (motive := fun r : State => r.tables = s.tables) _ _ rfl (fun r hr b _ => by rw [State.tables_tryBar, hr])

theorem State.tables_register (s : State) : s.register.tables = s.tables := by
  unfold State.register
  split
  · simp
  · rfl

theorem State.tables_routesActivated (s : State) : s.routesActivated.tables = s.tables := by
  unfold State.routesActivated
  rw [State.tables_tryBars, State.tables_register]

theorem State.tables_actTemp (s : State) (st : StackId) (moved : Bool) : (s.actTemp st moved).tables = s.tables := by
  have shown (u : State) (t : Int) : (u.showAlert t).tables = u.tables := rfl
  have set (x) : (s.setCatch st x).tables = s.tables := rfl
  simp only [State.actTemp]
  split
  · simp [shown, set]
  · split
    · simp [shown, set]
    · split <;> simp [shown, set]

/-! The commands on a powered module. -/

section Exec

variable {s : State} (hon : s.pwr.on = true) (tb : TableId)
include hon

theorem exec_tblActivate : exec (.tblActivate tb) s = .next (s.kept (s.activate tb)) := State.live_on s _ hon

theorem exec_tblAbort : exec (.tblAbort tb) s = .next (s.kept (s.abortTbl tb)) := State.live_on s _ hon

theorem exec_tblDataWrite (part : Half) (v : W64) : exec (.tblDataWrite tb part v) s = .next (s.kept (s.tblWrite tb part v)) :=
  State.live_on s _ hon

theorem exec_tblDataRead (part : Half) :
    exec (.tblDataRead tb part) s = .next (s.kept ((s.tblRead tb part).2.answer (s.tblRead tb part).1)) :=
  State.live_on s _ hon

/-- A refused activation answers with TBL_LOAD and the group as the refusal leaves it. -/
theorem exec_tblActivate_refused {f : TableSt → TableSt} (h : s.activate tb = s.tblRefuse tb f) :
    ∃ u, exec (.tblActivate tb) s = .next u ∧ u.tbl tb = f (s.tbl tb) ∧ u.rb tb.page R.SH_ERR_STICKY E.TBL_LOAD = true := by
  refine ⟨_, exec_tblActivate hon tb, ?_⟩
  rw [State.tbl_kept, State.rb_kept, h]
  exact State.tblRefuse_spec s tb f

/-- A write of TBL_DATA whose word access completes, a whole word or the high half that completes one. -/
theorem exec_tblDataWrite_stored {part : Half} {v : W64} (w : W64) (h : s.tblWrite tb part v = s.putWord tb (fun _ => w))
    (hk : (s.tbl tb).index.toNat < tb.words) (hr : (s.tbl tb).readActive = false) (hp : (s.tbl tb).pending = false)
    (hh : (s.tbl tb).held = false) :
    let x := s.tbl tb
    ∃ u, exec (.tblDataWrite tb part v) s = .next u ∧
      (u.tbl tb).index = x.index + 1 ∧ (u.tbl tb).active = x.active ∧ (u.tbl tb).heldLow = none ∧
      ∀ b n, (u.tbl tb).wordAt tb b n = if b = !x.active ∧ n = x.index.toNat then w else x.wordAt tb b n := by
  refine ⟨_, exec_tblDataWrite hon tb part v, ?_⟩
  rw [State.tbl_kept, h]
  exact State.putWord_accepted w hk hr hp hh

/-- A read of TBL_DATA answers the data and leaves the group that tblRead gives. -/
theorem exec_tblDataRead_eq {part : Half} {v : W64} {x : TableSt} (h : s.tblRead tb part = (v, s.setTbl tb x)) :
    ∃ u, exec (.tblDataRead tb part) s = .next u ∧ u.lastResp = ⟨true, v⟩ ∧ u.tbl tb = x := by
  refine ⟨_, exec_tblDataRead hon tb part, ?_⟩
  rw [State.tbl_kept, State.tbl_answer, h, State.tbl_setTbl]
  exact ⟨rfl, rfl⟩

/-- R69, R72: an immediate table that is pending swaps its banks. -/
theorem exec_immediateActivation (hb : tb.byStep = false) (hp : (s.tbl tb).pending = true) :
    ∃ u, exec (.immediateActivation tb) s = .next u ∧
      u.tbl tb = { s.tbl tb with active := !(s.tbl tb).active, pending := false } := by
  refine ⟨_, State.live_on s _ hon, ?_⟩
  have swapped : (s.swapBanks tb).tbl tb = { s.tbl tb with active := !(s.tbl tb).active, pending := false } := State.tbl_setTbl _ _ _
  rw [State.tbl_kept, ← swapped]
  apply State.tbl_congr
  simp only [hb, hp, Bool.not_true, Bool.or_self, Bool.false_eq_true, if_false]
  split
  · exact State.tables_routesActivated _
  · exact State.tables_actTemp _ _ _
  · rfl

end Exec

end TableGroup

/-- Settles O30, command by command, from the cases of each above. Three of its clauses are DEDUCED: what a held low half becomes (log
entry 48), that a refused TBL_DATA write keeps INDEX (49), that CRC_FAIL and LATE stay over later commands (50). -/
theorem tableCommands : Obligations.TableCommands := by
  unfold Obligations.TableCommands
  intro tb s hon ho
  dsimp only
  refine ⟨fun hp => ?_, fun hp hh => ?_, fun hp hh => ⟨fun hc => ?_, fun hc ha => ⟨fun hb hl => ?_, fun hl => ?_⟩⟩, ?_,
    fun v => ⟨fun hk hr hp hh => ⟨?_, fun l hl => ?_⟩, ?_, fun hrefuse => ?_⟩, fun hk => ⟨?_, ?_⟩, fun h hl => ?_,
    fun hb hp => exec_immediateActivation hon tb hb hp⟩
  -- ACTIVATE
  · rw [exec_tblActivate hon, State.activate_pending ho hp, State.kept_eq s s ⟨rfl, rfl, rfl, rfl, rfl⟩]
  · exact exec_tblActivate_refused hon tb (State.activate_held ho hp hh)
  · exact exec_tblActivate_refused hon tb (State.activate_badCrc ho hp hh hc)
  · exact exec_tblActivate_refused hon tb (State.activate_late ho hp hh hc ha hb hl)
  · exact ⟨_, exec_tblActivate hon tb, by simp [State.activate_accepted ho hp hh hc ha hl]⟩
  -- ABORT
  · exact ⟨_, exec_tblAbort hon tb, by simp [State.abortTbl_open ho]⟩
  -- TBL_DATA written: a word, the high half after a low one, a low half, a refused word
  · obtain ⟨u, he, hi, hact, -, hw⟩ := exec_tblDataWrite_stored hon tb v (State.tblWrite_word ho v) hk hr hp hh
    exact ⟨u, he, hi, hact, hw⟩
  · obtain ⟨u, he, hi, -, hlow, hw⟩ := exec_tblDataWrite_stored hon tb _ (State.tblWrite_hi_held ho v hl) hk hr hp hh
    exact ⟨u, he, hi, hlow, hw⟩
  · exact ⟨_, exec_tblDataWrite hon tb .lo v, by simp [State.tblWrite_lo ho]⟩
  · obtain ⟨ht, he⟩ := State.putWord_refused (fun _ => v) hrefuse
    refine ⟨_, exec_tblDataWrite hon tb .word v, ?_⟩
    rw [State.tbl_kept, State.rb_kept, State.tblWrite_word ho, ht]
    exact ⟨rfl, rfl, rfl, he⟩
  -- TBL_DATA read: a word, a low half, the high half after it
  · obtain ⟨u, he, hv, ht⟩ := exec_tblDataRead_eq hon tb (State.tblRead_word hk)
    rw [State.tblAt_inRange hk] at hv
    exact ⟨u, he, hv, by rw [ht]⟩
  · obtain ⟨u, he, hv, ht⟩ := exec_tblDataRead_eq hon tb (State.tblRead_lo hk)
    rw [State.tblAt_inRange hk] at hv ht
    exact ⟨u, he, hv, by rw [ht], by rw [ht]⟩
  · obtain ⟨u, he, hv, ht⟩ := exec_tblDataRead_eq hon tb (State.tblRead_hi_latched hl)
    exact ⟨u, he, hv, by rw [ht], by rw [ht]⟩

end Sys2Proof.Machine
